-- ==== Sys2Proof/Word.lean ====
section
/-! DEFINITION. The word types of the part (00: little-endian 32-bit registers, 64-bit ticks, bytes). -/

namespace Sys2Proof

/-- A byte of any memory of the part. -/
abbrev Byte := BitVec 8

/-- A 32-bit register, FP32 pattern, accumulator or vector lane. -/
abbrev Word := BitVec 32

/-- A 64-bit timebase value: one tick is 1 ns (R7). -/
abbrev Tick := BitVec 64

end Sys2Proof
end

