-- ==== Sys2Proof/Syntax.lean ====
section
/-! DEFINITION. The commands the block takes: one constructor for each row of spec/opcode_table.json. A context is
numbered 0 to 63, an index i names the i-th descriptor that the context fetched and has not completed (in fetch
order), and data that the outside gives (a host read, a sensor, a peer) is an operand; `par` says that the read of registers in this step finds a parity error
(R91, R296). -/

namespace Sys2Proof

/-- Who owns a ring: a context, or the management ring (R343). -/
inductive Agent where
  | ctx (c : Nat)
  | mgmt
  deriving DecidableEq, Repr

/-- How a read of host memory ended (R480): data, with the EP bit, or no successful completion. -/
inductive HostData where
  | ok (bytes : List Byte) (ep : Bool)
  | failed
  deriving DecidableEq, Repr

/-- The memory a line or word read goes to (Table 11.4). -/
inductive MemTarget where
  | dram
  | dieBuf (die : Nat)
  | core (k : Nat)
  | hub
  deriving DecidableEq, Repr

/-- The two LO/HI pairs whose value the device changes (R497). -/
inductive TimePair where
  | telTime
  | applyTime
  deriving DecidableEq, Repr

/-- What ends the whole device's operation (R485). -/
inductive ResetCause where
  | perst
  | hot
  | linkDown
  deriving DecidableEq, Repr

/-- A request that arrives over Rolig (R405). -/
inductive RoligReq where
  | read (addr n : Nat)
  | write (addr : Nat) (data : List Byte) (poison : Bool)
  | add (addr : Nat) (inc : Word)
  deriving DecidableEq, Repr

/-- The end of a context's save: the context, and the core and log source of a register whose parity was wrong when the save read it
(R91, R296). -/
structure SaveEnd where
  ctx : Nat
  par : Option (Nat × Nat)
  deriving DecidableEq, Repr

/-- What a Rolig peer sends of itself when a port trains (R396, R412): its board ID, bits [15:6] of its LNK_BOARD, and the devices its
own link groups lead to, each with whether some port of the group is up (entry 94). -/
structure RoligPeer where
  board : Nat
  settings : Nat
  links : List (Nat × Bool)
  deriving DecidableEq, Repr

/-- The regulator's answer on AVSBus (R433): Status bits and whether the last target was reached; none for no answer. -/
inductive AvsAnswer where
  | ok (reached : Bool)
  | fault (status : Nat)
  | silent
  deriving DecidableEq, Repr

/-- Sideband requests (R486). -/
inductive SideReq where
  | mctpControl (code : Nat)
  | pldmSensor (index : Nat)
  | spdm (code : Nat)
  deriving DecidableEq, Repr

/-- Test access port instructions (R488). -/
inductive JtagInstr where
  | bypass | idcode | sample | extest | extestPulse | extestTrain
  deriving DecidableEq, Repr

/-- Attestation transports (R448). -/
inductive Transport where
  | doe
  | sideband
  deriving DecidableEq, Repr

inductive Instr where
  -- compute commands (context, index)
  | matmul (c i : Nat)
  | chain (c i : Nat)
  | attend (c i : Nat)
  | conv (c i : Nat)
  | pool (c i : Nat)
  | posy (c i : Nat)
  | reduceFold (c i : Nat)
  | reduceRowstat (c i : Nat)
  | reduceClover (c i : Nat)
  | reduceTranspose (c i : Nat)
  | ferry (c i : Nat)
  | fill (c i : Nat)
  | noise (c i : Nat)
  | steplist (c i : Nat)
  | wupd (c i : Nat)
  | tableLoad (c i : Nat)
  | slipwaySignal (c i : Nat)
  | slipwayWait (c i : Nat)
  | fenceRing (a : Agent) (i : Nat)
  | fenceContext (c i : Nat)
  | timestamp (a : Agent) (i : Nat)
  -- management descriptors (the running one)
  | hintLatency
  | snapshot
  | cfgCheck
  | cfgApply
  -- codec descriptors
  | sessionOpen (c i : Nat)
  | sessionClose (c i : Nat)
  | decode (c i : Nat)
  | encode (c i : Nat)
  | jpegDec (c i : Nat)
  | jpegEnc (c i : Nat)
  | scale (c i : Nat)
  -- context operations
  | create (c : Nat) (block wins : HostData)
  | destroy (c : Nat)
  | preempt (c : Nat)
  | resume (c : Nat)
  -- debug, test, keyed and special registers
  | debugStop (c : Nat)
  | debugResume (c : Nat)
  | debugStep (c n : Nat)
  | debugEnWrite (v : Bool)
  | testEnWrite (v : Bool)
  | svnCommit (v : Word)
  | svnCommitDone
  | recoveryGo (v : Word)
  | recoveryLoadDone (img : HostData)
  | pwrWake (v : Word)
  | eccArm (v : Word)
  | nanArm (v : Word)
  | mgmtEnableWrite (v : Word) (wins : HostData)
  | dieEccCountRead (die : Nat)
  | eccLogClear (die : Nat) (v : Word)
  | telTimeLoRead
  | cfgApplyTimeLoRead
  | timeHiRead (p : TimePair)
  | dbgWindowRead (off : Nat) (par : Bool)
  | registerWrite (off width : Nat) (v : Tick)
  | bar2Read (off n : Nat)
  | bar2Write (off : Nat) (data : List Byte) (ep : Bool)
  | configRequest
  -- rings and records
  | doorbellPoll
  | doorbellRead (a : Agent) (line : HostData)
  | descriptorFetched (a : Agent) (r : Nat) (d : HostData)
  | commandValidate (c i : Nat) (chain : HostData)
  | mgmtDescriptorStart
  | completionRecordWrite (c i : Nat)
  | irqDelayExpiry (c : Nat)
  | statusLineRefresh (a : Agent)
  | tilePlace (c : Nat)
  | sliceExpiry (c : Nat)
  | preemptSaveDone (c : SaveEnd)
  -- inside a core
  | ferryFillDone (k j : Nat)
  | weightLoadDone (k : Nat)
  | matrixIssue (k : Nat) (par : Bool)
  | accumulatorUpdate (k : Nat) (par : Bool)
  | resultRowCopy (k : Nat) (par : Bool)
  | holdExpiry (k : Nat)
  | rampPhaseEnd (k : Nat)
  | posyRunStart (k : Nat)
  | posyInstruction (k : Nat) (par : Bool)
  | teardownComplete (c : Nat)
  | lateDataMiss (k wait : Nat)
  -- memory
  | memoryRead (m : MemTarget) (addr nsym : Nat) (user : Option Nat)
  | memoryWriteHome
  | scrubRead (die nsym : Nat)
  | refresh (stack ch : Nat)
  -- step lists
  | stageExecutionStart (c i e : Nat)
  | stageExecutionDone (c i e : Nat)
  | pinCopyDone (c i : Nat)
  | stepComplete (c i st : Nat)
  | stepBudgetCheck (c i st : Nat)
  | deadlineCheck (c i : Nat)
  -- media engines
  | codecUnitStart (eng : Nat)
  | codecUnitDone (eng : Nat)
  -- power and timebase
  | powerSample (rails : List (Nat × Nat))
  | thermalUpdate (junc stack : List Int) (hub : Int)
  | avsUpdate (ans : List AvsAnswer)
  | avsFaultClear
  | ptmDialogue (offset : Option Int)
  | idleEntry
  | wakeEvent
  | stateExitDone
  -- boot and resets
  | perstDeassert
  | deviceReady
  | reset (cause : ResetCause)
  | functionLevelReset
  | pwrgdDeassert
  | watchdogFire (fatal : Bool)
  | cfgApplyDecision (acked : Bool)
  | cfgApplyCommit
  | snapshotLatch
  -- Rolig
  | portTrain (p lanes : Nat) (peer : RoligPeer) (peerPort : Nat)
  | portRetry (p : Nat)
  | flitReceive (p symErrs : Nat) (crcOk : Bool)
  | ackTimeout (p : Nat)
  | boardConfigure
  | timeExchange (offset : Int)
  | roligInboundRequest (src : Nat) (r : RoligReq)
  | remoteAck (data : List Byte) (poison refused : Bool)
  | remoteTimeout
  -- host link
  | hostReadCompletion (d : HostData)
  | hostReadTimeout
  | atsInvalidation
  | ideKm (stream : Nat) (coversHost : Bool)
  | ideLeaveSecure (stream : Nat)
  -- attestation, sideband, test port
  | challenge (t : Transport)
  | getMeasurements (t : Transport) (index : Nat) (signed : Bool)
  | keyExchange (t : Transport)
  | respondIfReady (t : Transport)
  | slhDsaSignDone
  | sidebandRequest (r : SideReq)
  | jtagInstruction (x : JtagInstr)
  | heartbeat
  | chunkGet (t : Transport)
  deriving DecidableEq, Repr

end Sys2Proof
end

