-- ==== Sys2Proof/Decode.lean ====
section
/-! DEFINITION. The table of operations gives no row any bits: commands reach the part as register accesses, bus events
and its own steps, so no word spells one. -/

namespace Sys2Proof

/-- The command that a table word spells: none, as no row has bits. -/
def decodeTableWord (_nbits _w : Nat) : Option Instr := none

end Sys2Proof
end

