-- ==== Sys2Proof/Config.lean ====
section
/-! DEFINITION. Values that the spec leaves open. Each constant is opaque (no body): nothing can be proved about its
value, so a statement holds whatever it is. The first argument of most is a draw number (`State.free`), so two draws may
differ. Each is named in notes/assumptions/. -/

namespace Sys2Proof

/-- A byte of contents that the spec calls undefined (R282, R285, R286, R358, R385): draw, address. Entry 2. -/
opaque Config.freeByte : Nat → Nat → Byte

/-- Whether an error pattern that may be miscorrected is delivered as good data (R285, R286): draw. Entry 11. -/
opaque Config.miscorrected : Nat → Bool

/-- A result word of a library micro-program whose code the spec does not give (R170, Table 6.6): index, the bound EX2
and LG2 images, lane operands. Entry 12. -/
opaque Config.libFn : Nat → List Byte → List Word → Word

/-- What such a micro-program leaves in its temporary j: index, j, images, lane operands. Entry 12. -/
opaque Config.libReg : Nat → Nat → List Byte → List Word → Word

/-- The pictures and records that a video or JPEG unit writes where the format standard rules (R302): draw, byte index.
Entry 13. -/
opaque Config.codecByte : Nat → Nat → Byte

/-- A size that a codec unit reports (R311, R317): draw. Entry 13. -/
opaque Config.codecSize : Nat → Nat

/-- Status of a codec unit on its bitstream (R299, R311): draw; 0 is success. Entry 13. -/
opaque Config.codecStatus : Nat → Nat

/-- Coefficients that the entropy decoder of a JPEG unit reads (R322): draw, component block, position. Entry 13. -/
opaque Config.jpegCoef : Nat → Nat → Nat → Int

/-- Tables of Annex K (R303): table, position. Entry 13. -/
opaque Config.annexK : Nat → Nat → Nat

/-- Result of checking an image or package by its cryptographic rules (R440): draw, slot; 0 passes, else the failed
check. Entry 14. -/
opaque Config.imageCheck : Nat → Nat → Nat

/-- A byte of an image header or package in flash (R438): draw, region, offset. Entry 14. -/
opaque Config.flashByte : Nat → Nat → Nat → Byte

/-- Bytes of a signature, digest or certificate (R448, R450): draw, index. Entry 14. -/
opaque Config.cryptoByte : Nat → Nat → Byte

/-- A key that the security engine derives from the unique device secret (R449): secret, 0 for the key of the wrapped-key area and 1
for the SLH-DSA key pair. Entry 14. -/
opaque Config.deriveKey : Nat → Nat → Nat

/-- A byte of the RSA-3072 key pair and its certificate chain, as AES-256-GCM gives them back (R449): key, area, index. Entry 14. -/
opaque Config.unwrapByte : Nat → List (Nat × Byte) → Nat → Byte

/-- The lowest voltage, in 0.1 mV, at which a rail's die holds its clocks (R432): rail, process code, junction. Entry 15. -/
opaque Config.voltage : Nat → Nat → Int → Nat

/-- The slack of an unstated time that the firmware, a board or a host decides: draw. Entry 16. -/
opaque Config.freeNat : Nat → Nat

/-- What a vector register lane holds when a run starts on an engine whose earlier runs the model does not follow (R137,
R145): draw, register, lane. Entry 24. -/
opaque Config.freeReg : Nat → Nat → Nat → Word

/-- The same of a predicate bit: draw, predicate, lane. Entry 24. -/
opaque Config.freePred : Nat → Nat → Nat → Bool

/-- A yes or no that a bitstream or the format standard decides (R302, R306, R316, R322): draw. Entries 13, 77. -/
opaque Config.raceBit : Nat → Bool

end Sys2Proof
end

