-- ==== Sys2Proof/Machine/Num.lean ====
section
/-! DEFINITION. Number formats and arithmetic (spec file 02: R21 to R49): element formats, exact values,
rounding, conversion, the FP32 operations of the vector engine and the dot group of a lane. -/

namespace Sys2Proof.Machine

/-- An exact value: a NaN, an infinity, or ±man·2^exp (man = 0 is the signed zero). Payloads and signalling are
not distinguished (R26). -/
inductive Val where
  | nan
  | inf (neg : Bool)
  | fin (neg : Bool) (man : Nat) (exp : Int)
  deriving DecidableEq, Repr

/-- Element formats of Table 2.1. -/
inductive Elem where
  | fp32 | bf16 | fp16 | e4m3 | e5m2 | e2m3 | e3m2 | e2m1 | int8 | int4
  deriving DecidableEq, Repr

/-- A storage format: an element format, and whether one E8M0 scale covers each 32 elements (R30). -/
structure Fmt where
  elem : Elem
  mx : Bool
  deriving DecidableEq, Repr

/-- Format codes of Table 4.4; every other code is reserved (R97). -/
def fmtOfCode (c : Nat) : Option Fmt :=
  match c with
  | 0x00 => some ⟨.fp32, false⟩ | 0x01 => some ⟨.bf16, false⟩ | 0x02 => some ⟨.fp16, false⟩
  | 0x03 => some ⟨.e4m3, false⟩ | 0x04 => some ⟨.e5m2, false⟩ | 0x05 => some ⟨.e2m3, false⟩
  | 0x06 => some ⟨.e3m2, false⟩ | 0x07 => some ⟨.e2m1, false⟩ | 0x08 => some ⟨.int8, false⟩
  | 0x09 => some ⟨.int4, false⟩ | 0x13 => some ⟨.e4m3, true⟩ | 0x14 => some ⟨.e5m2, true⟩
  | 0x15 => some ⟨.e2m3, true⟩ | 0x16 => some ⟨.e3m2, true⟩ | 0x17 => some ⟨.e2m1, true⟩
  | 0x18 => some ⟨.int8, true⟩
  | _ => none

/-- Width of an element in bits (Table 2.1). -/
def Elem.width : Elem → Nat
  | .fp32 => 32 | .bf16 => 16 | .fp16 => 16 | .e4m3 => 8 | .e5m2 => 8 | .e2m3 => 6 | .e3m2 => 6
  | .e2m1 => 4 | .int8 => 8 | .int4 => 4

/-- Integer formats; MXINT8 counts as floating point (R136), which `Fmt.isInt` below says. -/
def Elem.isInt : Elem → Bool
  | .int8 => true | .int4 => true | _ => false

/-- A plain INT8 or INT4 tensor. -/
def Fmt.isInt (f : Fmt) : Bool := f.elem.isInt && !f.mx

/-- Exponent width, fraction width and bias of a floating-point element (Table 2.2); (0,0,0) for integers. -/
def Elem.shape : Elem → Nat × Nat × Nat
  | .fp32 => (8, 23, 127) | .bf16 => (8, 7, 127) | .fp16 => (5, 10, 15) | .e4m3 => (4, 3, 7)
  | .e5m2 => (5, 2, 15) | .e2m3 => (2, 3, 1) | .e3m2 => (3, 2, 3) | .e2m1 => (2, 1, 1)
  | .int8 => (0, 0, 0) | .int4 => (0, 0, 0)

/-- Formats whose all-ones exponent holds infinities and NaNs as in IEEE 754 (Table 2.2). -/
def Elem.ieee : Elem → Bool
  | .fp32 => true | .bf16 => true | .fp16 => true | .e5m2 => true | _ => false

/-- Code of the largest finite magnitude (Table 2.2). -/
def Elem.maxMag : Elem → Nat
  | .fp32 => 0x7F7FFFFF | .bf16 => 0x7F7F | .fp16 => 0x7BFF | .e4m3 => 0x7E | .e5m2 => 0x7B
  | .e2m3 => 0x1F | .e3m2 => 0x1F | .e2m1 => 0x7 | .int8 => 127 | .int4 => 7

/-- The canonical NaN code (R26); formats without one receive +0 (R36). -/
def Elem.nanCode : Elem → Nat
  | .fp32 => 0x7FC00000 | .bf16 => 0x7FC0 | .fp16 => 0x7E00 | .e4m3 => 0x7F | .e5m2 => 0x7E
  | _ => 0

/-- Two's complement reading of the low w bits. -/
def signExtend (w c : Nat) : Int :=
  let v := c % 2 ^ w
  if 2 ^ (w - 1) ≤ v then (v : Int) - (2 ^ w : Nat) else (v : Int)

/-- An integer as an exact value. -/
def valOfInt (i : Int) (exp : Int) : Val := .fin (i < 0) i.natAbs exp

/-- Decodes an element code (R25, R27: subnormal codes read as zero with their sign; integers exactly). -/
def decodeElem (f : Elem) (c : Nat) : Val :=
  match f with
  | .int8 => valOfInt (signExtend 8 c) 0
  | .int4 => valOfInt (signExtend 4 c) 0
  | _ =>
    let (e, m, bias) := f.shape
    let c := c % 2 ^ f.width
    let neg := decide (2 ^ (e + m) ≤ c)
    let ef := (c / 2 ^ m) % 2 ^ e
    let frac := c % 2 ^ m
    if ef = 0 then .fin neg 0 0
    else if f.ieee && ef == 2 ^ e - 1 then (if frac = 0 then .inf neg else .nan)
    else if f == .e4m3 && c % 128 == 0x7F then .nan
    else .fin neg (2 ^ m + frac) ((ef : Int) - bias - m)

/-- floor(log2 |x|) of ±man·2^exp with man ≠ 0. -/
def topExp (man : Nat) (exp : Int) : Int := (man.log2 : Int) + exp

/-- man ÷ 2^d rounded to nearest, ties to even (R48). -/
def rne (man d : Nat) : Nat :=
  let q := man / 2 ^ d
  let r := man % 2 ^ d
  if d = 0 then man
  else if 2 ^ (d - 1) < r then q + 1
  else if r = 2 ^ (d - 1) ∧ q % 2 = 1 then q + 1
  else q

/-- ±man·2^exp rounded to p fraction bits with unbounded exponent: (man', exp'). -/
def roundMan (p man : Nat) (exp : Int) : Nat × Int :=
  let q := topExp man exp - p
  if q ≤ exp then (man, exp) else (rne man (q - exp).toNat, q)

/-- man·2^exp scaled to a whole number of 2^q, when exp ≥ q. -/
def scaleTo (man : Nat) (exp q : Int) : Nat := man * 2 ^ (exp - q).toNat

/-- What an out-of-range magnitude becomes. -/
inductive Over where
  | toInf      -- infinity where the format has one (R35)
  | saturate   -- the largest finite magnitude (R32 step 4, R35 for formats without infinity)
  deriving DecidableEq, Repr

/-- Magnitude code of a finite nonzero value already rounded to the format's fraction width. -/
def magCode (f : Elem) (man : Nat) (exp : Int) : Nat :=
  let (_, m, bias) := f.shape
  let e := topExp man exp
  let frac := scaleTo man exp (min exp (e - m)) / 2 ^ (e - m - min exp (e - m)).toNat
  ((e + bias).toNat) * 2 ^ m + (frac - 2 ^ m)

/-- Converts an exact value to a floating-point element code (R35, R27, R36): nearest even, flush to a signed zero
when the rounded magnitude is below the smallest normal, overflow as `ov` says, NaN canonical. -/
def encodeFloat (f : Elem) (ov : Over) (v : Val) : Nat :=
  let (e, m, bias) := f.shape
  let sgn (neg : Bool) := if neg then 2 ^ (e + m) else 0
  let infCode := (2 ^ e - 1) * 2 ^ m
  match v with
  | .nan => f.nanCode
  | .inf neg => if f.ieee then sgn neg + infCode else sgn neg + f.maxMag
  | .fin neg 0 _ => sgn neg
  | .fin neg man exp =>
    let (man', exp') := roundMan m man exp
    let t := topExp man' exp'
    if t < 1 - (bias : Int) then sgn neg
    else
      let maxE : Int := ((f.maxMag / 2 ^ m : Nat) : Int) - bias
      let c := if maxE < t then f.maxMag + 1 else magCode f man' exp'
      if f.maxMag < c then
        (if f.ieee && ov == .toInf then sgn neg + infCode else sgn neg + f.maxMag)
      else sgn neg + c

/-- Nearest-even integer of a finite value. -/
def valToInt (neg : Bool) (man : Nat) (exp : Int) : Int :=
  let n := if 0 ≤ exp then man * 2 ^ exp.toNat else rne man (-exp).toNat
  if neg then -(n : Int) else n

/-- Clamps to [lo, hi]. -/
def clampInt (lo hi i : Int) : Int := if i < lo then lo else if hi < i then hi else i

/-- Two's complement code of width w. -/
def intCode (w : Nat) (i : Int) : Nat := (i % (2 ^ w : Nat)).toNat

/-- Converts to an integer of width w with saturation (R37): NaN gives 0, infinities saturate. -/
def encodeInt (w : Nat) (v : Val) : Nat :=
  let hi : Int := 2 ^ (w - 1) - 1
  let lo : Int := -(2 ^ (w - 1))
  match v with
  | .nan => 0
  | .inf neg => intCode w (if neg then lo else hi)
  | .fin neg man exp => intCode w (clampInt lo hi (valToInt neg man exp))

/-- Conversion to a plain element format (R34 to R37). -/
def encodeElem (f : Elem) (v : Val) : Nat :=
  match f with
  | .int8 => encodeInt 8 v
  | .int4 => encodeInt 4 v
  | _ => encodeFloat f .toInf v

/-- v × 2^k, exactly. -/
def Val.scale (v : Val) (k : Int) : Val :=
  match v with
  | .fin neg man exp => .fin neg man (exp + k)
  | v => v

/-- Negation, exact. -/
def Val.neg : Val → Val
  | .nan => .nan
  | .inf n => .inf (!n)
  | .fin n m e => .fin (!n) m e

/-- Absolute value, exact. -/
def Val.abs : Val → Val
  | .nan => .nan
  | .inf _ => .inf false
  | .fin _ m e => .fin false m e

/-- Is the value zero. -/
def Val.isZero : Val → Bool
  | .fin _ 0 _ => true
  | _ => false

/-- Is the value a NaN. -/
def Val.isNaN : Val → Bool
  | .nan => true
  | _ => false

/-- Is the value an infinity. -/
def Val.isInf : Val → Bool
  | .inf _ => true
  | _ => false

/-- Sign bit (false for a NaN). -/
def Val.isNeg : Val → Bool
  | .nan => false
  | .inf n => n
  | .fin n _ _ => n

/-- Signed integer of units 2^q (q ≤ exp): exact. -/
def Val.units (v : Val) (q : Int) : Int :=
  match v with
  | .fin neg man exp => if neg then -(scaleTo man exp q : Int) else scaleTo man exp q
  | _ => 0

/-- Exact product (R39, R44): zero times infinity is NaN. -/
def Val.mul (a b : Val) : Val :=
  match a, b with
  | .nan, _ => .nan
  | _, .nan => .nan
  | .inf n, x => if x.isZero then .nan else .inf (n != x.isNeg)
  | x, .inf n => if x.isZero then .nan else .inf (n != x.isNeg)
  | .fin n m e, .fin n' m' e' => .fin (n != n') (m * m') (e + e')

/-- Exact sum (R44). Infinities of opposite sign give NaN. A zero sum is −0 only when both operands are negative
(zeros of opposite sign, and exact cancellation, give +0). DEDUCED, entry 20. -/
def Val.add (a b : Val) : Val :=
  match a, b with
  | .nan, _ => .nan
  | _, .nan => .nan
  | .inf n, .inf n' => if n = n' then .inf n else .nan
  | .inf n, _ => .inf n
  | _, .inf n => .inf n
  | .fin n m e, .fin n' m' e' =>
    let q := min e e'
    let s := (Val.fin n m e).units q + (Val.fin n' m' e').units q
    if s = 0 then .fin (n && n') 0 0 else valOfInt s q

/-- Order on non-NaN values: a < b, with −0 = +0 (R45). -/
def Val.lt (a b : Val) : Bool :=
  match a, b with
  | .nan, _ => false
  | _, .nan => false
  | .inf n, .inf n' => n && !n'
  | .inf n, _ => n
  | _, .inf n => !n
  | .fin n m e, .fin n' m' e' =>
    let q := min e e'
    decide ((Val.fin n m e).units q < (Val.fin n' m' e').units q)

/-- Equality of values: −0 equals +0, NaN equals nothing (R45). -/
def Val.eqv (a b : Val) : Bool := !a.isNaN && !b.isNaN && !a.lt b && !b.lt a

/-! ### FP32 words -/

/-- Reads an FP32 pattern, subnormals as zero (R27). -/
def f32 (w : Word) : Val := decodeElem .fp32 w.toNat

/-- Rounds to FP32 (R44): nearest even, flush, overflow to infinity, NaN canonical. -/
def toF32 (v : Val) : Word := BitVec.ofNat 32 (encodeFloat .fp32 .toInf v)

def f32One : Word := 0x3F800000#32
def f32Zero : Word := 0x00000000#32
def f32NegZero : Word := 0x80000000#32
def f32PosInf : Word := 0x7F800000#32
def f32NegInf : Word := 0xFF800000#32
def f32NaN : Word := 0x7FC00000#32

/-- Is the pattern a NaN (any NaN code, R26). -/
def isNaN32 (w : Word) : Bool := (f32 w).isNaN

def fadd (a b : Word) : Word := toF32 ((f32 a).add (f32 b))
def fmul (a b : Word) : Word := toF32 ((f32 a).mul (f32 b))
def fma (a b c : Word) : Word := toF32 (((f32 a).mul (f32 b)).add (f32 c))

/-- MAX of R45: NaN if either is NaN; +0 between zeros of opposite sign. -/
def fmax (a b : Word) : Word :=
  let x := f32 a
  let y := f32 b
  if x.isNaN || y.isNaN then f32NaN
  else if x.isZero && y.isZero then (if x.isNeg && y.isNeg then f32NegZero else f32Zero)
  else if x.lt y then toF32 y else toF32 x

/-- MIN of R45: NaN if either is NaN; −0 between zeros of opposite sign. -/
def fmin (a b : Word) : Word :=
  let x := f32 a
  let y := f32 b
  if x.isNaN || y.isNaN then f32NaN
  else if x.isZero && y.isZero then (if x.isNeg || y.isNeg then f32NegZero else f32Zero)
  else if y.lt x then toF32 y else toF32 x

/-- INT32 to FP32, nearest even (Table 5.6 ITOF). -/
def itof (a : Word) : Word := toF32 (valOfInt a.toInt 0)

/-- FP32 to INT32, nearest even, saturating; NaN gives 0 (Table 5.6 FTOI). -/
def ftoi (a : Word) : Word := BitVec.ofNat 32 (encodeInt 32 (f32 a))

/-- Sign of an FP32 pattern flipped, exactly. -/
def fneg (a : Word) : Word := a ^^^ 0x80000000#32

/-- Magnitude of an FP32 pattern. -/
def fabs (a : Word) : Word := a &&& 0x7FFFFFFF#32

/-! ### Block scales (R29 to R33) -/

/-- The exponent of an E8M0 code; none is NaN (0xFF) (R29). -/
def scaleExp (code : Nat) : Option Int := if code = 0xFF then none else some ((code : Int) - 127)

/-- The MXINT8 element carries an implied 2^−6 (R30). -/
def mxElem (f : Elem) (c : Nat) : Val :=
  match f with
  | .int8 => valOfInt (signExtend 8 c) (-6)
  | f => decodeElem f c

/-- An element × scale read exactly (R30, R33). Plain formats ignore the scale. -/
def readScaled (f : Fmt) (code scale : Nat) : Val :=
  if f.mx then
    match scaleExp scale with
    | none => .nan
    | some k => (mxElem f.elem code).scale k
  else decodeElem f.elem code

/-- emax of R32 step 3. -/
def Elem.emax : Elem → Int
  | .e4m3 => 8 | .e5m2 => 15 | .e2m3 => 2 | .e3m2 => 4 | .e2m1 => 2 | _ => 0

/-- Largest finite magnitude among values: floor(log2) of it, none when no nonzero finite value stands there. -/
def blockTop (vs : List Val) : Option Int :=
  vs.foldl (fun acc v =>
    match v with
    | .fin _ 0 _ => acc
    | .fin _ m e =>
      match acc with
      | none => some (topExp m e)
      | some t => some (max t (topExp m e))
    | _ => acc) none

/-- The scale code of a written block (R32 steps 1 to 3). -/
def blockScale (f : Elem) (vs : List Val) : Nat :=
  if vs.any Val.isNaN then 0xFF
  else
    match blockTop vs with
    | none => 0
    | some e => ((clampInt (-127) 127 (e - f.emax)) + 127).toNat

/-- One element of a written block (R32 steps 1, 4 and 5). -/
def blockElem (f : Elem) (scale : Nat) (v : Val) : Nat :=
  match scaleExp scale with
  | none => 0
  | some k =>
    match f with
    | .int8 => encodeInt 8 (v.scale (6 - k))
    | f =>
      match v with
      | .inf neg => encodeFloat f .toInf (.inf neg)
      | v => encodeFloat f .saturate (v.scale (-k))

/-! ### The lane rows (R38 to R43) -/

/-- A dot group's floating-point result (R40, R41): the terms A and the products, truncated to the grid
2^(E_max − 26), summed exactly and rounded once. -/
def dotGroup (a : Val) (ps : List Val) : Val :=
  let ts := a :: ps
  if ts.any Val.isNaN then .nan
  else if ts.any (fun t => t.isInf && t.isNeg) && ts.any (fun t => t.isInf && !t.isNeg) then .nan
  else if ts.any (fun t => t.isInf && t.isNeg) then .inf true
  else if ts.any Val.isInf then .inf false
  else
    match blockTop ts with
    | none => .fin (ts.all Val.isNeg) 0 0
    | some emax =>
      let g := emax - 26
      let s : Int := ts.foldl (fun (acc : Int) t =>
        match t with
        | .fin neg man exp =>
          let u : Nat := if g ≤ exp then man * 2 ^ (exp - g).toNat else man / 2 ^ (g - exp).toNat
          if neg then acc - u else acc + u
        | _ => acc) 0
      if s = 0 then .fin false 0 0 else valOfInt s g

/-- The new FP32 accumulator. -/
def accFloat (a : Word) (ps : List Val) : Word := toF32 (dotGroup (f32 a) ps)

/-- The new INT32 accumulator and whether it saturated (R43). -/
def accInt (a : Word) (ps : List Int) : Word × Bool :=
  let s := a.toInt + ps.foldl (· + ·) 0
  let c := clampInt (-(2 ^ 31)) (2 ^ 31 - 1) s
  (BitVec.ofInt 32 c, s != c)

/-- Modes of Table 2.5. -/
inductive Mode where
  | half | fp8 | mxint8 | fp4 | w4a8 | int8 | int4
  deriving DecidableEq, Repr

/-- Products per dot group (Table 3.1). -/
def Mode.g : Mode → Nat
  | .half => 8 | .fp8 => 16 | .mxint8 => 16 | .int8 => 16 | .fp4 => 32 | .w4a8 => 32 | .int4 => 32

/-- Integer modes (R43). -/
def Mode.isInt : Mode → Bool
  | .int8 => true | .int4 => true | _ => false

/-- An FP8 operand of Table 2.5: E4M3 or E5M2, plain or MX, including widened FP6. -/
def isFp8Operand (f : Fmt) : Bool :=
  match f.elem with
  | .e4m3 => true | .e5m2 => true | .e2m3 => true | .e3m2 => true | _ => false

/-- The mode that a weight and an activation format form; none is refused (R38). -/
def modeOf (w a : Fmt) : Option Mode :=
  match w, a with
  | ⟨.bf16, false⟩, ⟨.bf16, false⟩ => some .half
  | ⟨.fp16, false⟩, ⟨.fp16, false⟩ => some .half
  | ⟨.int8, true⟩, ⟨.int8, true⟩ => some .mxint8
  | ⟨.int8, false⟩, ⟨.int8, false⟩ => some .int8
  | ⟨.int4, false⟩, ⟨.int4, false⟩ => some .int4
  | w, a =>
    if isFp8Operand w && isFp8Operand a then some .fp8
    else if w.elem == .e2m1 && a.elem == .e2m1 then some .fp4
    else if w.elem == .e2m1 && isFp8Operand a then some .w4a8
    else none

/-- The accumulator at the start of a pass: −0, or 0 in an integer mode (R65). -/
def Mode.start (m : Mode) : Word := if m.isInt then 0 else f32NegZero

/-- FP6 widening of R24 and R28: E2M3 to E4M3, E3M2 to E5M2, subnormals to zero of the same sign. -/
def widenFp6 (f : Elem) (c : Nat) : Nat :=
  match f with
  | .e2m3 => encodeFloat .e4m3 .toInf (decodeElem .e2m3 c)
  | .e3m2 => encodeFloat .e5m2 .toInf (decodeElem .e3m2 c)
  | _ => c

/-- The element format in core memory (R24). -/
def Elem.widened : Elem → Elem
  | .e2m3 => .e4m3 | .e3m2 => .e5m2 | f => f

/-- WUPD's stochastic rounding of FP32 to BF16 (R49) with the 16 random bits r. -/
def stochBf16 (x : Word) (r : Nat) : Nat :=
  match f32 x with
  | .nan => 0x7FC0
  | .inf neg => if neg then 0xFF80 else 0x7F80
  | .fin neg _ _ =>
    let l := x.toNat % 65536
    let t := x.toNat / 65536
    let c := if 65536 ≤ l + r % 65536 then t + 1 else t
    let sgn := if neg then 0x8000 else 0
    let mag := c % 0x8000
    if 0x7F80 ≤ mag then sgn + 0x7F7F
    else if mag < 0x0080 then sgn
    else sgn + mag

end Sys2Proof.Machine
end

