-- ==== Sys2Proof/Machine/Blocks.lean ====
section
/-! DEFINITION. The plain data of the blocks that descriptors name, as validation copies them (R92, R123, R182, R189,
R213, R232, R269, R303): tensor and level descriptors, posy blocks, attention, convolution, step-list, WUPD and codec
blocks. -/

namespace Sys2Proof.Machine

/-- Tensor descriptor (Table 4.3). -/
structure Tensor where
  base : Nat := 0
  scaleBase : Nat := 0
  e0 : Nat := 1
  e1 : Nat := 1
  e2 : Nat := 1
  e3 : Nat := 1
  s1 : Nat := 64
  s2 : Nat := 64
  s3 : Nat := 64
  pad : Nat := 0
  fmt : Fmt := ⟨.bf16, false⟩
  deriving DecidableEq, Repr

/-- Level descriptor (Table 4.5); `order` lists the dimension codes before the first 0b111, outermost first. -/
structure Level where
  tm : Nat
  tn : Nat
  tk : Nat
  tb : Nat
  ts0 : Nat
  ts1 : Nat
  ts2 : Nat
  order : List Nat
  level : Nat
  aOff : Nat
  aDepth : Nat
  aGran : Nat
  wOff : Nat
  wDepth : Nat
  wGran : Nat
  oOff : Nat
  oDepth : Nat
  oGran : Nat
  slack : Nat
  dies : Nat
  orderRaw : List Nat
  deriving DecidableEq, Repr

/-- Posy instruction (Table 5.5). -/
structure PosyInstr where
  op : Nat
  dst : Nat := 0
  sa : Nat := 0
  sb : Nat := 0
  sc : Nat := 0
  pred : Nat := 0
  pneg : Bool := false
  na : Bool := false
  nb : Bool := false
  aa : Bool := false
  e : Bool := false
  imm : Nat := 0
  deriving DecidableEq, Repr

/-- A stream of a posy (R131, Tables 4.3 and 5.2). Shape 0 ELEM, 1 COLVEC, 2 ROWVEC. -/
structure Stream where
  slot : Nat
  t : Tensor
  bufOff : Nat
  depth : Nat
  shape : Nat
  maskBits : Bool
  deriving DecidableEq, Repr

/-- Posy block (R130, Table 5.1). `kinds` are KIND0 to KIND3. -/
structure Posy where
  kind : Nat
  split : Nat := 0
  pair : Bool := false
  statEn : Bool := false
  inMask : Nat := 0
  kinds : List Nat := [0, 0, 0, 0]
  streams : List Stream := []
  stat : Option Stream := none
  consts : List Word := []
  code : List PosyInstr
  deriving DecidableEq, Repr

/-- Tile block of MATMUL and CHAIN (R92). -/
structure TileBlock where
  t3 : Level
  t2 : Level
  t1 : Level
  act : Tensor
  wt : Tensor
  out : Tensor
  part : Option Tensor
  deriving DecidableEq, Repr

/-- Attention descriptor (Table 7.1). -/
structure Attn where
  ptBase : Nat
  maskBase : Nat
  scale2 : Word
  maskArg : Word
  headStride : Nat
  pOff : Nat
  pFmt : Nat
  topP : Nat
  lastW : Nat
  group : Nat
  kvHeads : Nat
  form : Bool
  causal : Bool
  blockDiag : Bool
  bitMask : Bool
  stats : Bool
  deriving DecidableEq, Repr

/-- Sequence entry with its page list as copied at validation (Table 7.2, R189). -/
structure SeqEntry where
  frames : List Nat
  clover : Nat
  len : Nat
  qPos0 : Nat
  npCap : Nat
  deriving DecidableEq, Repr

/-- ATTEND tile block (R182). -/
structure AttendBlock where
  t3 : Level
  t2 : Level
  t1 : Level
  q : Tensor
  k : Tensor
  out : Tensor
  v : Tensor
  att : Attn
  stats : Option Tensor
  seqs : List SeqEntry
  deriving DecidableEq, Repr

/-- Convolution descriptor (Table 8.1). Spatial lists have three entries. -/
structure ConvDesc where
  inp : List Nat
  batch : Nat
  cIn : Nat
  cOut : Nat
  f : List Nat
  st : List Nat
  dl : List Nat
  pl : List Nat
  ph : List Nat
  epiAddr : Nat
  bufOff : Nat
  dims : Nat
  layers : Nat
  mode : Nat
  s2d : Nat
  d2s : Nat
  packIn : Bool
  packOut : Bool
  deriving DecidableEq, Repr

/-- One layer of a CONV (R213): weight, output, geometry and its epilogue. -/
structure ConvLayer where
  wt : Tensor
  out : Tensor
  ext : List Nat := []
  cd : ConvDesc
  epi : Posy
  deriving DecidableEq, Repr

/-- CONV or POOL block (R213). -/
structure ConvBlock where
  t3 : Level
  t2 : Level
  t1 : Level
  act : Tensor
  layers : List ConvLayer
  part : Option Tensor
  deriving DecidableEq, Repr

/-- Transfer descriptor (Table 4.9). -/
structure Transfer where
  src : Nat
  dst : Nat
  rows : Nat
  rowBytes : Nat
  srcStride : Nat
  dstStride : Nat
  slipAddr : Nat
  slipInc : Nat
  last : Bool
  slip : Bool
  dstHost : Bool
  srcHost : Bool
  deriving DecidableEq, Repr

/-- WUPD header and operands (Table 10.3, R269). -/
structure Wupd where
  seed : Nat
  stream : Nat
  lr : Word
  beta1 : Word
  beta2 : Word
  oneB1 : Word
  oneB2 : Word
  bc1 : Word
  bc2 : Word
  eps2 : Word
  wd : Word
  gscale : Word
  algo : Nat
  npart : Nat
  qout : Bool
  eoff : Nat
  master : Tensor
  m1 : Tensor
  m2 : Option Tensor
  grad : Tensor
  fwd : Option Tensor
  deriving DecidableEq, Repr

/-- Codec descriptor body (Table 12.5). -/
structure CodecBody where
  src : Nat
  dst : Nat
  rec_ : Nat
  stats : Nat
  srcBytes : Nat
  dstBytes : Nat
  session : Nat
  op : Nat
  key : Bool
  param : Nat
  deriving DecidableEq, Repr

/-- Session block (Table 12.7); `stray` says that a reserved bit is set. -/
structure SessionBlock where
  state : Nat
  stateBytes : Nat
  width : Nat
  height : Nat
  kind : Nat
  depth : Bool
  mono : Bool
  nbuf : Nat
  nref : Nat
  gir : Nat
  girPeriod : Nat
  keyInterval : Nat
  stray : Bool := false
  deriving DecidableEq, Repr

/-- Scale block (Table 12.9): `m` is M00 to M22. -/
structure ScaleBlock where
  src : Nat
  dst : Nat
  sw : Nat
  sh : Nat
  dw : Nat
  dh : Nat
  sfmt : Nat
  dfmt : Nat
  depth : Bool
  bilinear : Bool
  m : List Int
  ioff : List Int
  ooff : List Int
  tgain : Word
  toff : Word
  deriving DecidableEq, Repr

/-- A command's work as validation copied it. -/
inductive Work where
  | matmul (tb : TileBlock) (epi : Posy) (pro : Option Posy)
  | chain (tb1 tb2 : TileBlock) (epi1 epi2 : Posy) (pro2 : Option Posy)
  | attend (b : AttendBlock) (epi : Posy)
  | conv (b : ConvBlock) (pro : Option Posy)
  | pool (b : ConvBlock)
  | posy (p : Posy) (out : Tensor)
  | fold (a b : Tensor)
  | rowstat (a b : Tensor) (kinds : List Nat) (p : Posy)
  | clover (q : SeqEntry) (k : Tensor) (headStride first npages kvHeads : Nat)
  | transpose (a b : Tensor)
  | ferry (ts : List Transfer)
  | fill (out : Tensor) (value scale : Nat)
  | noise (out : Tensor) (key stream : Nat)
  | wupd (w : Wupd)
  | tableLoad (image bytes table bank : Nat) (swap : Bool)
  | signal (addr inc : Nat)
  | wait (addr target : Nat)
  | fence (scope : Bool)
  | stamp (addr : Nat) (host : Bool)
  | codec (b : CodecBody) (sc : Option ScaleBlock) (se : Option SessionBlock)
  deriving DecidableEq, Repr

/-- Constant substitution entry (Table 9.3). -/
structure CMap where
  posy : Nat
  const : Nat
  col : Nat
  deriving DecidableEq, Repr

/-- A stage of a step list (Table 9.2) with its validated work. -/
structure Stage where
  work : Work
  opcode : Nat
  waitAddr : Nat
  sigAddr : Nat
  waitBase : Nat
  waitStep : Nat
  sigInc : Nat
  cmaps : List CMap
  phase : Nat
  mb : Nat
  stream : Nat
  imgBase : Nat
  sampler : Bool
  barrier : Bool
  deriving DecidableEq, Repr

/-- Pin entry (Table 9.4). -/
structure Pin where
  src : Nat
  bytes : Nat
  dbOff : Nat
  dies : Nat
  deriving DecidableEq, Repr

/-- Step-list block as copied (Table 9.1, R232). -/
structure StepList where
  stepSlip : Nat
  deadline : Nat
  stepBudget : Nat
  steps : Nat
  images : Nat
  micro : Nat
  guide : Bool
  stages : List Stage
  seeds : List Nat
  coefs : List (List Word)
  pins : List Pin
  deriving DecidableEq, Repr

/-- What a descriptor asks for, after validation. -/
inductive Job where
  | work (w : Work)
  | steps (l : StepList)
  deriving DecidableEq, Repr

/-- A half-open box of output indices handled by one tile: ranges in M, N, K and B (Table 4.2). -/
structure Tile where
  m0 : Nat
  m1 : Nat
  n0 : Nat
  n1 : Nat
  k0 : Nat
  k1 : Nat
  b0 : Nat
  b1 : Nat
  deriving DecidableEq, Repr

end Sys2Proof.Machine
end

