-- ==== Sys2Proof/Machine/Cells.lean ====
section
/-! DEFINITION. Sparse arrays as lists in one canonical form: keys strictly rising, and no entry that equals what an
unlisted key reads as. Used for memories, weight banks, accumulators, registers and counters. -/

namespace Sys2Proof.Machine

/-- What key k reads as. -/
def Cells.get {α : Type} (d : α) (k : Nat) : List (Nat × α) → α
  | [] => d
  | (j, v) :: r => if j = k then v else Cells.get d k r

/-- The entry of key k set to v; an entry equal to the default is not listed. -/
def Cells.set {α : Type} [DecidableEq α] (d : α) (k : Nat) (v : α) : List (Nat × α) → List (Nat × α)
  | [] => if v = d then [] else [(k, v)]
  | (j, w) :: r =>
    if j < k then (j, w) :: Cells.set d k v r
    else if j = k then (if v = d then r else (k, v) :: r)
    else (if v = d then (j, w) :: r else (k, v) :: (j, w) :: r)

/-- Canonical form above a lower bound on the keys. -/
def Cells.wfFrom {α : Type} [DecidableEq α] (d : α) (lo : Nat) : List (Nat × α) → Bool
  | [] => true
  | (j, v) :: r => decide (lo ≤ j) && !decide (v = d) && Cells.wfFrom d (j + 1) r

/-- Canonical form. -/
def Cells.wf {α : Type} [DecidableEq α] (d : α) (l : List (Nat × α)) : Bool := Cells.wfFrom d 0 l

/-- Writes consecutive keys from k. -/
def Cells.setRun {α : Type} [DecidableEq α] (d : α) (k : Nat) : List α → List (Nat × α) → List (Nat × α)
  | [], l => l
  | v :: vs, l => Cells.setRun d (k + 1) vs (Cells.set d k v l)

/-- Reads n consecutive keys from k. -/
def Cells.getRun {α : Type} (d : α) (k n : Nat) (l : List (Nat × α)) : List α :=
  (List.range n).map fun i => Cells.get d (k + i) l

/-- A rising list of naturals without repeats: membership. -/
def NatSet.mem (k : Nat) (l : List Nat) : Bool := l.any (· == k)

/-- Adds k to a rising list. -/
def NatSet.add (k : Nat) : List Nat → List Nat
  | [] => [k]
  | j :: r => if j < k then j :: NatSet.add k r else if j = k then j :: r else k :: j :: r

/-- Removes k. -/
def NatSet.del (k : Nat) (l : List Nat) : List Nat := l.filter (· != k)

/-- Little-endian number of a byte list. -/
def leNat : List Byte → Nat
  | [] => 0
  | b :: r => b.toNat + 256 * leNat r

/-- The n little-endian bytes of a number. -/
def leBytes (n v : Nat) : List Byte := (List.range n).map fun i => BitVec.ofNat 8 (v / 256 ^ i)

/-- Bits hi down to lo of v. -/
def bits (v hi lo : Nat) : Nat := v / 2 ^ lo % 2 ^ (hi + 1 - lo)

/-- One bit of v. -/
def bit1 (v i : Nat) : Bool := v / 2 ^ i % 2 == 1

/-- 0 or 1. -/
def b2n (b : Bool) : Nat := if b then 1 else 0

/-- Ceiling division. -/
def cdiv (a b : Nat) : Nat := (a + b - 1) / b

/-- Rounds up to a multiple of b. -/
def roundUp (a b : Nat) : Nat := cdiv a b * b

/-- Do two byte ranges (start, length) overlap. -/
def overlap (a n b m : Nat) : Bool := decide (a < b + m) && decide (b < a + n) && decide (0 < n) && decide (0 < m)

end Sys2Proof.Machine
end

