-- ==== Sys2Proof/Machine/CoreState.lean ====
section
/-! DEFINITION. The state of one core (spec files 03, 04, 05, 07, 14): tile commands, slots, weight banks, accumulators,
issue position and ramp of the matrix unit, vector engine, running state of attention, core memory. -/

namespace Sys2Proof.Machine

/-- A memory with protection: bytes, poisoned units (R291) and units stored with bad symbols (R475). The unit is a 64-byte line, or a
32-byte word in core memory. `fill` is the draw of contents that an event left undefined (R282, R347); `cells` lists the bytes
that differ from those, each as its exclusive or with what stood there. -/
structure Mem where
  fill : Option Nat := none
  cells : List (Nat × Byte) := []
  poison : List Nat := []
  latent : List (Nat × Nat) := []
  deriving DecidableEq, Repr

/-- Slot states of R116. -/
inductive SlotSt where
  | free | filling | full | inUse
  deriving DecidableEq, Repr

/-- Which operand a slot holds: activation, weight or output of operation or layer `op`, or a stream of a posy. Posies are
numbered as Table 9.3 numbers them: 0 the epilogue, 1 the prologue, 2 the first epilogue of a CHAIN, 3 + j that of layer j. -/
inductive Operand where
  | act
  | wt (op : Nat)
  | out (op : Nat)
  | stream (posy slot : Nat)
  deriving DecidableEq, Repr

/-- A slot of core memory that is not FREE (R101, R116): number of its fill in its tile command (of the pass, for an output
slot), bytes, and the tile command: 0 the one that drains, 1 the running, 2 the waiting one; 3 + c marks an output slot that a tile command of
context c has left to core ferry 1. -/
structure Slot where
  who : Nat
  operand : Operand
  fill : Nat
  off : Nat
  size : Nat
  st : SlotSt
  deriving DecidableEq, Repr

/-- A tile command (R103): number `num` in dispatch order of command `uid` of context `ctx`, or of execution `exec` of its step
list; the ranges of its T2 tile by dimension code, K part, home die, and the core memory that its save holds. -/
structure TileCmd where
  ctx : Nat
  uid : Nat
  exec : Option Nat
  num : Nat
  box : List (Nat × Nat)
  part : Nat
  home : Nat
  regions : List (Nat × Nat)
  deriving DecidableEq, Repr

/-- What names the weights of a pass (R63): operand, T1 descriptor, first column, first K, and the frames of page operands. -/
structure WKey where
  t : Tensor
  l : Level
  n0 : Nat
  k0 : Nat
  pages : List Nat := []
  deriving DecidableEq, Repr

/-- A weight bank (R59, R63, R64): owner (none when empty), what its weights are, the tile command and pass that it was loaded
for, whether no load of other weights has written either bank since, its segment, and its entries by lane × 32 + entry. -/
structure Bank where
  owner : Option Nat := none
  key : Option WKey := none
  tag : Option (Nat × Option Nat × Nat × Nat) := none
  resident : Bool := false
  seg : Nat := 0
  n : Nat := 0
  elems : List (Nat × Nat) := []
  scales : List (Nat × Nat) := []
  deriving DecidableEq, Repr

/-- Coordinates of the lanes of a result row (Table 2.7): those of lane 0, the coordinate that counts lanes, and, when the lanes
are keys or pages, the pages that they go through with `span` lanes each. -/
structure LaneAt where
  base : List Nat
  dim : Nat := 0
  pages : List Nat := []
  span : Nat := 128
  deriving DecidableEq, Repr

/-- A group or an ACCSCALE issued and not yet applied (R67): its age in core cycles, accumulator, bank and entry, the activation
chunk with its scale, the K index of its first element, an ACCSCALE factor, the lane whose accumulator is read as NaN (R476),
mode and formats, tile columns and their coordinates, and, for the last group of a row, where the row goes: result row, pass, area. `pruned` marks a
group of a pruned tap, which takes no issue slot (R223). -/
structure Issued where
  who : Nat
  age : Nat
  row : Nat
  bank : Nat
  entry : Nat
  chunk : List Nat
  scale : Nat
  kIndex : Nat
  factor : Option Word
  inject : Option Nat
  mode : Mode
  fa : Fmt
  fw : Fmt
  cols : Nat
  lane : LaneAt
  first : Bool
  pruned : Bool := false
  final : Option (Nat × Nat × Nat)
  deriving DecidableEq, Repr

/-- A final accumulator row to copy (R69): accumulator, row of the result area, pass, result area. -/
structure Final where
  who : Nat
  row : Nat
  line : Nat
  pass : Nat
  area : Nat
  deriving DecidableEq, Repr

/-- Ramp of the matrix unit (R78 to R81): phase p and core cycle c within it or within the hold; `capped` is the density that a
cap puts in place of full. -/
inductive Ramp where
  | stopped
  | up (p c : Nat)
  | full
  | capped (p c : Nat)
  | hold (c : Nat)
  | down (p c : Nat)
  deriving DecidableEq, Repr

/-- Issue position (Table 3.4): pass, segment, entry and row of the next issue; `base` is the bank of the pass's segment 0. -/
structure IssuePos where
  pass : Nat := 0
  seg : Nat := 0
  entry : Nat := 0
  row : Nat := 0
  base : Nat := 0
  deriving DecidableEq, Repr

/-- A vector engine run (R129, R150): role 1 is the prologue of fill number `pass`, role 2 the run of pass number `pass`. -/
structure Run where
  who : Nat
  role : Nat
  pass : Nat
  area : Nat := 0
  row : Nat := 0
  sweep : Nat := 0
  chunk : Nat := 0
  pc : Nat := 0
  stage : Nat := 0
  deriving DecidableEq, Repr

/-- The vector engine (R132): v0 to v63 and p0 to p7 by number, statistic slots, run queue, current run, and its core cycle modulo 4 (R425). -/
structure VEng where
  v : List (Nat × List Word) := []
  p : List (Nat × List Bool) := []
  s : List Word := [0, 0, 0, 0]
  s1 : List Word := [0, 0, 0, 0]
  queue : List Run := []
  cur : Option Run := none
  cycle : Nat := 0
  deriving DecidableEq, Repr

/-- Running state of an ATTEND tile command (R195, R200, R211): the page bounds of the row block at hand, the pages
selected for each row block so far, and m, ℓ, n of the rows: of the row block in the row form, of the tile command's queries in the column form. -/
structure AttSt where
  bounds : List (Nat × Word) := []
  sel : List (List Nat) := []
  m : List (Nat × Word) := []
  l : List (Nat × Word) := []
  n : List (Nat × Word) := []
  deriving DecidableEq, Repr

/-- One core. `prev` has issued all its groups and has runs left; `run` issues; `wait` waits behind it (R372). `rings` counts the
fills of each operand of a command (context, uid, execution); `areas` are the result areas in use by offset and tile command;
`prevAtt` is the running state of `prev`; `stored` counts the passes of `run` whose run has stored; `dlm` is the number, first tick and longest wait of the running
tile command's deadline-miss record. -/
structure Core where
  prev : Option TileCmd := none
  run : Option TileCmd := none
  wait : Option TileCmd := none
  nextFill : Nat := 0
  aheadFill : Nat := 0
  rings : List ((Nat × Nat × Option Nat) × Operand × Nat) := []
  slots : List Slot := []
  banks : List Bank := [{}, {}]
  acc : List (Nat × Word) := []
  pos : IssuePos := {}
  scales : List (Nat × Word) := []
  pipe : List Issued := []
  final : List Final := []
  ramp : Ramp := .stopped
  areas : List (Nat × Nat) := []
  area : Option Nat := none
  stored : Nat := 0
  veng : VEng := {}
  outTile : List (Nat × Word) := []
  statTile : List (Nat × Word) := []
  att : AttSt := {}
  prevAtt : AttSt := {}
  mem : Mem := {}
  dbgStop : Bool := false
  stepLeft : Option Nat := none
  lateWaits : Nat := 0
  dlm : Option (Nat × Tick × Nat) := none
  deriving DecidableEq, Repr

end Sys2Proof.Machine
end

