-- ==== Sys2Proof/Machine/Operands.lean ====
section
/-! DEFINITION. Operands of posies and micro-programs (05 R132 to R134, 06 R168, R505): the surroundings of one chunk,
vector registers, operand codes of Tables 5.3 and 6.5, source modifiers, and writes of registers. -/

namespace Sys2Proof.Machine

/-- Lane numbers of a chunk. -/
def lanes : List Nat := List.range 128

/-- Banks that a command is bound to (R161): images, and whether the micro-program bank is the standard library. -/
structure Bound where
  ex2 : List Byte
  lg2 : List Byte
  micro : List Byte
  std : Bool

/-- What one chunk sees (R133, R134, R136, R505): active lanes, coordinates, element index, Philox inputs, stream reads
(slot, lane), whether a slot holds floating-point elements, the value of STATRD where it is not the row's own slot, whether the output format stores NaNs, and
what never-written registers hold. -/
structure Chunk where
  act : Nat → Bool
  row : Nat → Nat
  col : Nat → Nat
  bat : Nat → Nat
  elem : Nat → Nat
  key : Nat → Nat
  ctr : Nat
  ld : Nat → Nat → Word
  ldFloat : Nat → Bool
  stat : Option (Nat → Nat → Word)
  outNan : Bool
  v0 : Nat → Nat → Word
  p0 : Nat → Nat → Bool

/-- A CALL in progress (R168): destination, captured operands by lane, constants, guard. -/
structure Call where
  d : Nat
  a : Nat → Word
  b : Nat → Word
  c : Nat → Word
  k : List Word
  guard : Nat → Bool

/-- Lane l of vector register r. -/
def VEng.reg (y : VEng) (ch : Chunk) (r l : Nat) : Word :=
  match Cells.get [] r y.v with
  | [] => ch.v0 r l
  | w => w.getD l 0

/-- Lane l of predicate p; p0 reads as ones (Table 5.3). -/
def VEng.pred (y : VEng) (ch : Chunk) (p l : Nat) : Bool :=
  if p = 0 then true
  else match Cells.get [] p y.p with
    | [] => ch.p0 p l
    | w => w.getD l false

/-- Writes the lanes of register r where the mask holds (R134). -/
def VEng.put (y : VEng) (ch : Chunk) (r : Nat) (mask : Nat → Bool) (f : Nat → Word) : VEng :=
  { y with v := Cells.set [] r (lanes.map fun l => if mask l then f l else y.reg ch r l) y.v }

/-- Writes the lanes of predicate p where the mask holds (R141); writes of p0 are ignored (Table 5.3). -/
def VEng.putPred (y : VEng) (ch : Chunk) (p : Nat) (mask : Nat → Bool) (f : Nat → Bool) : VEng :=
  if p = 0 then y
  else { y with p := Cells.set [] p (lanes.map fun l => if mask l then f l else y.pred ch p l) y.p }

/-- Low or high half of a 64-bit value. -/
def lo32 (n : Nat) : Word := BitVec.ofNat 32 n
def hi32 (n : Nat) : Word := BitVec.ofNat 32 (n / 2 ^ 32)

/-- Sources of Table 5.3 outside micro-programs. -/
def srcPosy (consts : List Word) (ch : Chunk) (y : VEng) (code l : Nat) : Word :=
  if code < 0x40 then y.reg ch code l
  else if code < 0x60 then consts.getD (code - 0x40) 0
  else match code with
    | 0x60 => lo32 (ch.row l)
    | 0x61 => lo32 (ch.col l)
    | 0x62 => lo32 (ch.bat l)
    | 0x63 => lo32 (ch.elem l)
    | 0x64 => hi32 (ch.elem l)
    | 0x65 => lo32 l
    | _ => 0

/-- Sources of Table 6.5 inside a micro-program. -/
def srcMicro (cc : Call) (ch : Chunk) (y : VEng) (code l : Nat) : Word :=
  if 0x08 ≤ code ∧ code < 0x10 then y.reg ch (56 + (code - 8)) l
  else if 0x10 ≤ code ∧ code < 0x20 then cc.k.getD (code - 0x10) 0
  else match code with
    | 0x00 => y.reg ch cc.d l
    | 0x01 => cc.a l
    | 0x02 => cc.b l
    | 0x03 => cc.c l
    | 0x21 => lo32 (ch.elem l)
    | 0x22 => hi32 (ch.elem l)
    | 0x23 => lo32 l
    | 0x24 => lo32 (ch.row l)
    | 0x25 => lo32 (ch.col l)
    | 0x26 => lo32 (ch.bat l)
    | 0x27 => lo32 (ch.key l)
    | 0x28 => hi32 (ch.key l)
    | 0x29 => BitVec.ofNat 32 ch.ctr
    | _ => 0

/-- A source by code, in a posy or inside a CALL. -/
def source (cc : Option Call) (consts : List Word) (ch : Chunk) (y : VEng) (code l : Nat) : Word :=
  match cc with
  | none => srcPosy consts ch y code l
  | some k => srcMicro k ch y code l

/-- AA then NA (Table 5.5). -/
def modify (aa neg : Bool) (w : Word) : Word :=
  let w := if aa then fabs w else w
  if neg then fneg w else w

/-- Destination register: in a micro-program code 0 is D and 8 to 15 are the temporaries (Table 6.5). -/
def destReg (cc : Option Call) (code : Nat) : Nat :=
  match cc with
  | none => code
  | some k => if code = 0 then k.d else 56 + (code - 8)

/-- Predicate named by PRED or by the DST of FCMP and MASK (Table 5.5, R168). -/
def predNum (cc : Option Call) (code : Nat) : Nat :=
  match cc with
  | none => code
  | some _ => if code = 0 then 0 else 8 - code

/-- Lanes that an instruction writes: active, its guard bit set, and inside a CALL the CALL's guard (R134, R168). -/
def writes (cc : Option Call) (ch : Chunk) (y : VEng) (i : PosyInstr) (l : Nat) : Bool :=
  ch.act l && (y.pred ch (predNum cc i.pred) l != i.pneg) && (match cc with | none => true | some k => k.guard l)

end Sys2Proof.Machine
end

