-- ==== Sys2Proof/Machine/Flags.lean ====
section
/-! DEFINITION. Predicates, statistics and NaN causes of the vector engine (02 R50, 05 R138, R140, R144, R152), and the
report of a NaN in a dot group (02 R503). -/

namespace Sys2Proof.Machine

/-- FCMP (Table 5.6): 0 equal, 1 less than, 2 less than or equal. -/
def fcmp (rel : Nat) (a b : Word) : Bool :=
  let x := f32 a
  let y := f32 b
  match rel with
  | 0 => x.eqv y
  | 1 => x.lt y
  | _ => x.lt y || x.eqv y

/-- MASK (Table 5.7): coordinates unsigned, operand INT32. -/
def maskBit (mode row col : Nat) (a : Word) : Bool :=
  match mode with
  | 0 => decide ((col : Int) ≤ (row : Int) + a.toInt)
  | 1 => decide (1 ≤ a.toInt) && decide (a.toInt ≤ 2 ^ 24) && row / a.toNat == col / a.toNat
  | 2 => decide ((col : Int) < a.toInt)
  | _ => a != 0

/-- Where a statistic slot starts (R138): SUM 0, SUMSQ 1, MAX 2, MIN 3. -/
def statStart (kind : Nat) : Word :=
  match kind with
  | 2 => f32NegInf
  | 3 => f32PosInf
  | _ => f32NegZero

/-- Combination of two statistic values (R138, R173). -/
def statCombine (kind : Nat) (a b : Word) : Word :=
  match kind with
  | 2 => fmax a b
  | 3 => fmin a b
  | _ => fadd a b

/-- One level of the lane tree: entry i combines entries 2i and 2i + 1. -/
def pairUp (kind : Nat) : List Word → List Word
  | a :: b :: r => statCombine kind a b :: pairUp kind r
  | l => l

/-- The lane tree: n levels. -/
def tree (kind : Nat) : Nat → List Word → List Word
  | 0, l => l
  | n + 1, l => tree kind n (pairUp kind l)

/-- STAT over the lanes where the mask holds (R138): the slot combined with the tree's value. -/
def statReduce (kind : Nat) (mask : Nat → Bool) (a : Nat → Word) (slot : Word) : Word :=
  let xs := lanes.map fun l => if mask l then (if kind = 1 then fmul (a l) (a l) else a l) else statStart kind
  statCombine kind slot ((tree kind 7 xs).getD 0 (statStart kind))

/-- First coordinate and operands of a NaN that an operation of the vector engine wrote: lane, cause, inputs. -/
structure LaneNan where
  lane : Nat
  cause : Nat
  a : Word
  b : Word
  c : Word
  deriving DecidableEq, Repr

/-- Operand as a trap record holds it: FP32 with NaN canonical (Table 2.7). -/
def shown (w : Word) : Word := toF32 (f32 w)

/-- The first lane that holds a NaN among the written lanes, with its cause (R154, R152): 2 when an operand is NaN or the
operation only carries a value in or out, else 1. -/
def firstNan (mask : Nat → Bool) (r a b c : Nat → Word) (carry : Bool) : Option LaneNan :=
  (lanes.find? fun l => mask l && isNaN32 (r l)).map fun l =>
    { lane := l, cause := if carry || isNaN32 (a l) || isNaN32 (b l) || isNaN32 (c l) then 2 else 1
      a := shown (a l), b := shown (b l), c := shown (c l) }

/-- CAUSE, INPUT_A and INPUT_B of a NaN of a dot group (R503): per product the activation and weight elements, whether a
block scale of it is 0xFF, and the product. -/
def dotCause (acc : Word) (ps : List (Word × Word × Option Nat × Val)) : Nat × Word × Word :=
  match ps.find? fun p => p.2.2.2.isNaN with
  | some (_, w, some sc, _) => (3, BitVec.ofNat 32 sc, w)
  | some (a, w, none, _) => (if isNaN32 a || isNaN32 w then 2 else 1, a, w)
  | none =>
    if isNaN32 acc then (2, 0, 0)
    else match ps.find? fun p => p.2.2.2.isInf with
      | some (a, w, _, _) => (1, a, w)
      | none => (1, 0, 0)

end Sys2Proof.Machine
end

