-- ==== Sys2Proof/Machine/Library.lean ====
section
/-! DEFINITION. What the spec guarantees of the standard library's entries (06 R170, Table 6.6, 09 R247): error bounds against the exact
functions, which are approximated here by rationals to far below the bounds, and monotonicity. -/

namespace Sys2Proof.Machine

/-! ### Exact functions, to a relative 2⁻⁵⁰ or better -/

/-- Fixed-point unit of the series. -/
def fixOne : Int := 2 ^ 96

/-- A rational in the fixed point. -/
def toFix (x : Rat) : Int := (x * fixOne).floor

def ofFix (x : Int) : Rat := (x : Rat) / fixOne

/-- Terms from the k-th of Σ s^i·q^i ÷ (2i + k), s the sign of alternation. -/
def oddGo (s : Int) : Nat → Int → Int → Int → Int
  | 0, _, _, _ => 0
  | f + 1, k, p, q => p / k + oddGo s f (k + 2) (s * (p * q / fixOne)) q

/-- atanh z ÷ z and atan z ÷ z for |z| ≤ 1/3. -/
def atanhRatio (z : Rat) : Rat := ofFix (oddGo 1 48 1 fixOne (toFix (z * z)))
def atanRatio (z : Rat) : Rat := ofFix (oddGo (-1) 48 1 fixOne (toFix (z * z)))

/-- 1 + x/k·(1 + x/(k + 1)·(…)). -/
def expGo : Nat → Int → Int → Int
  | 0, _, _ => fixOne
  | f + 1, k, x => fixOne + x * expGo f (k + 1) x / (k * fixOne)

/-- ln 2 and π. -/
def ln2Rat : Rat := 2 / 3 * atanhRatio (1 / 3)
def piRat : Rat := 16 / 5 * atanRatio (1 / 5) - 4 / 239 * atanRatio (1 / 239)

/-- 2^n. -/
def pow2 (n : Int) : Rat := if 0 ≤ n then (2 ^ n.toNat : Nat) else 1 / ((2 ^ (-n).toNat : Nat) : Rat)

/-- floor(log2 x) of a positive rational. -/
def log2Floor (x : Rat) : Int :=
  let e : Int := (x.num.natAbs.log2 : Int) - x.den.log2
  if pow2 e ≤ x then e else e - 1

/-- e^x, e^x − 1 and ln(1 + u). -/
def expRat (x : Rat) : Rat :=
  let n := (x / ln2Rat).floor
  ofFix (expGo 48 1 (toFix (x - n * ln2Rat))) * pow2 n

def expm1Rat (x : Rat) : Rat := if x.abs ≤ 1 / 2 then x * ofFix (expGo 48 2 (toFix x)) else expRat x - 1

def lnRat (x : Rat) : Rat :=
  let e := log2Floor x
  let m := x / pow2 e
  let z := (m - 1) / (m + 1)
  2 * z * atanhRatio z + e * ln2Rat

def ln1pRat (u : Rat) : Rat := let z := u / (2 + u); 2 * z * atanhRatio z

/-- The square root of a non-negative rational. -/
def sqrtRat (x : Rat) : Rat := ((Nat.sqrt (x * (2 ^ 384 : Nat)).floor.toNat : Nat) : Rat) / (2 ^ 192 : Nat)

/-- Σ (−1)^i·y^(2i) ÷ (k·(k + 1)·…) for the sine (k = 2) and the cosine (k = 1). -/
def trigGo : Nat → Int → Int → Int
  | 0, _, _ => fixOne
  | f + 1, k, q => fixOne - q * trigGo f (k + 2) q / (k * (k + 1) * fixOne)

def sinTurn (a : Rat) : Rat := let y := 2 * piRat * (a - (a + 1 / 2).floor); y * ofFix (trigGo 32 2 (toFix (y * y)))
def cosTurn (a : Rat) : Rat := let y := 2 * piRat * (a - (a + 1 / 2).floor); ofFix (trigGo 32 1 (toFix (y * y)))

/-! ### Bounds -/

/-- A finite word as a rational. -/
def ratOf (w : Word) : Option Rat :=
  match f32 w with
  | .fin neg man exp => some ((if neg then -1 else 1) * (man : Rat) * pow2 exp)
  | _ => none

/-- Smallest unit of an FP32 number of the magnitude of x. -/
def ulpOf (x : Rat) : Rat := pow2 (log2Floor x.abs - 23)

/-- Is a number of the range of normal FP32 numbers. -/
def inNormal (x : Rat) : Bool := decide (pow2 (-126) ≤ x.abs) && decide (x.abs < pow2 128)

/-- The FP32 number nearest to a rational, to 60 bits. -/
def nearest32 (x : Rat) : Word :=
  if x = 0 then f32Zero
  else
    let e := log2Floor x.abs - 60
    toF32 (.fin (decide (x < 0)) (x.abs / pow2 e).floor.toNat e)

/-- The exact result of an entry and its error bound (Table 6.6, R247); none where the spec bounds nothing. -/
def libExact (j : Nat) (args : List Word) : Option (Rat × Rat) :=
  let a := (args.head?.bind ratOf).getD 0
  let ok := (args.head?.bind ratOf).isSome
  let near := fun (v : Rat) (k : Nat) => if inNormal v then some (v, k * ulpOf v) else none
  match j with
  | 0x00 => if ok && decide (a.abs ≤ 128) then near (expRat a) 3 else none
  | 0x01 => if ok && decide (0 < a) then near (lnRat a) 3 else none
  | 0x02 => if ok && decide (a.abs ≤ 128) then near (1 / (1 + expRat (-a))) 4 else none
  | 0x03 =>
    if !ok then none
    else if 64 < a.abs then some (if a < 0 then -1 else 1, 4 * pow2 (-24))
    else let t := expm1Rat (2 * a); near (t / (t + 2)) 4
  | 0x06 =>
    if !ok || decide (a < -128) then none
    else
      let v := if 128 < a then a else if 0 < a then a + ln1pRat (expRat (-a)) else ln1pRat (expRat a)
      if inNormal v then some (v, v * pow2 (-14)) else none
  | 0x07 => if ok && a != 0 then near (1 / a) 2 else none
  | 0x08 => if ok && decide (0 < a) then near (sqrtRat (1 / a)) 2 else none
  | 0x09 => if ok then (let v := sinTurn a; if inNormal v then some (v, pow2 (-22)) else none) else none
  | 0x0A => if ok then (let v := cosTurn a; if inNormal v then some (v, pow2 (-22)) else none) else none
  | 0x10 =>
    let u1 : Rat := (((args.getD 0 0).toNat + 1 : Nat) : Rat) / (2 ^ 24 : Nat)
    let u2 : Rat := ((args.getD 1 0).toNat : Rat) / (2 ^ 24 : Nat)
    let z := sqrtRat (-2 * lnRat u1) * cosTurn u2
    some (z, pow2 (-19) * max 1 z.abs)
  | _ => none

/-- A free result within the bounds of its entry; the exact result, rounded, stands for one outside them. -/
def libHeld (j : Nat) (args : List Word) (w : Word) : Word :=
  match libExact j args with
  | none => w
  | some (v, t) =>
    match ratOf w with
    | none => nearest32 v
    | some x => if (x - v).abs ≤ t ∧ (j = 0x10 → x.abs ≤ 577 / 100) then w else nearest32 v

/-! ### Monotonicity -/

/-- Entries that are monotone (Table 6.6). -/
def libMonotone (j : Nat) : Bool := j == 0x00 || j == 0x01 || j == 0x02 || j == 0x03 || j == 0x06

/-- Place of a word that is no NaN in the order of FP32 numbers; the two zeros share one. -/
def orderOf (w : Word) : Int :=
  let m : Int := (w.toNat % 2 ^ 31 : Nat)
  if w.toNat < 2 ^ 31 then m else -m

/-- The first or the last, in the order of FP32 numbers, of two words. -/
def lower32 (a b : Word) : Word := if orderOf b < orderOf a then b else a
def upper32 (a b : Word) : Word := if orderOf a < orderOf b then b else a

/-- Every word that is no NaN. -/
def numbers32 : List Word := ((List.range (2 ^ 32)).map fun i => BitVec.ofNat 32 i).filter fun w => !isNaN32 w

/-- A free function of an operand as monotone: bounded operands keep their bounds, and what has no bound stays below the results of the
bounded operands above it; the result is the largest of the operands up to a (R170). -/
def monotoneAt (bounded : Word → Bool) (f : Word → Word) (a : Word) : Word :=
  let held := fun (b : Word) =>
    if bounded b then f b else ((numbers32.filter fun x => bounded x && decide (orderOf b ≤ orderOf x)).map f).foldl lower32 (f b)
  if isNaN32 a || isNaN32 (f a) then f a
  else ((numbers32.filter fun b => decide (orderOf b ≤ orderOf a) && !isNaN32 (f b)).map held).foldl upper32 (held a)

/-- A free function of an entry's operands as the guarantees of its entry hold it. -/
def libGuarded (j : Nat) (f : List Word → Word) (args : List Word) : Word :=
  let g := fun (xs : List Word) => libHeld j xs (f xs)
  if libMonotone j then monotoneAt (fun a => (libExact j [a]).isSome) (fun a => g [a]) (args.headD 0) else g args

end Sys2Proof.Machine
end

