-- ==== Sys2Proof/Machine/StdTables.lean ====
section
/-! DEFINITION. The standard segment tables (06 R157, R158): EX2 and LG2 images computed from the rule of their nodes. -/

namespace Sys2Proof.Machine

/-- Integer square root by Newton steps from above. -/
def isqrtGo : Nat → Nat → Nat → Nat
  | 0, _, x => x
  | f + 1, n, x =>
    let y := (x + n / x) / 2
    if y < x then isqrtGo f n y else x

def isqrt (n : Nat) : Nat := if n = 0 then 0 else isqrtGo 64 n (2 ^ (n.log2 / 2 + 1))

/-- k nested square roots: floor(n^(1/2^k)). -/
def rootPow2 : Nat → Nat → Nat
  | 0, n => n
  | k + 1, n => rootPow2 k (isqrt n)

/-- floor(2^(j/128) × 2^30): the EX2 node value at z = j/128. -/
def ex2Node (j : Nat) : Nat := rootPow2 7 (2 ^ (3840 + j))

/-- Sum over k of t^(2k) ÷ (2k + 1) with t = a ÷ b, in units of 2^−128, f terms from term k whose power is `pw`. -/
def oddSeries (a b : Nat) : Nat → Nat → Nat → Nat
  | 0, _, _ => 0
  | f + 1, k, pw => pw / (2 * k + 1) + oddSeries a b f (k + 1) (pw * a * a / (b * b))

/-- ln 2 in units of 2^−128. -/
def ln2Fix : Nat := 2 * oddSeries 1 3 60 0 (2 ^ 128) / 3

/-- floor(G(p ÷ 512) × 2^30), with G(z) = log2 z ÷ (z − 1) = 2 ÷ ((z + 1) ln 2) × the sum over t = (z − 1) ÷ (z + 1). -/
def lg2Node (p : Nat) : Nat :=
  let a := if 512 ≤ p then p - 512 else 512 - p
  1024 * oddSeries a (p + 512) 60 0 (2 ^ 128) * 2 ^ 30 / ((p + 512) * ln2Fix)

/-- A table entry through three node values (R158, Table 6.2). -/
def segEntry (v0 vm v1 : Nat) : List Byte :=
  let b : Int := 4 * vm - 3 * v0 - v1
  let c : Int := 2 * (v0 - 2 * vm + v1)
  leBytes 4 v0 ++ leBytes 4 (b % 2 ^ 32).toNat ++ leBytes 4 (c % 2 ^ 32).toNat ++ leBytes 4 0

/-- The standard EX2 image. -/
def stdEx2 : List Byte :=
  (List.range 64).flatMap fun i => segEntry (ex2Node (2 * i)) (ex2Node (2 * i + 1)) (ex2Node (2 * i + 2))

/-- The standard LG2 image. -/
def stdLg2 : List Byte :=
  (List.range 128).flatMap fun i =>
    let p0 := if i < 64 then 512 + 4 * i else 256 + 2 * i
    let d := if i < 64 then 2 else 1
    segEntry (lg2Node p0) (lg2Node (p0 + d)) (lg2Node (p0 + 2 * d))

end Sys2Proof.Machine
end

