-- ==== Sys2Proof/Machine/Sfu.lean ====
section
/-! DEFINITION. The special-function unit (spec file 06): EX2 and LG2 over segment tables, Philox-4×32-10 (09 R246),
micro-program images (Tables 6.4, 6.5), the checks of TABLE_LOAD (R160, R162, R169) and the standard library (R170, R171). -/

namespace Sys2Proof.Machine

/-! ### Segment tables -/

/-- A, B and C of segment i (Table 6.2). -/
def segOf (img : List Byte) (i : Nat) : Nat × Int × Int :=
  let v := leNat ((img.drop (16 * i)).take 16)
  (bits v 31 0, signExtend 32 (bits v 63 32), signExtend 32 (bits v 95 64))

/-- floor(±man·2^exp × 2^32). -/
def floor32 (neg : Bool) (man : Nat) (exp : Int) : Int :=
  let m : Int := if neg then -(man : Int) else man
  if 0 ≤ exp + 32 then m * ((2 ^ (exp + 32).toNat : Nat) : Int) else m / ((2 ^ (-(exp + 32)).toNat : Nat) : Int)

/-- EX2 (R154, R155). -/
def ex2 (img : List Byte) (w : Word) : Word :=
  match f32 w with
  | .nan => f32NaN
  | .inf neg => if neg then f32Zero else f32PosInf
  | .fin _ 0 _ => f32One
  | .fin neg man exp =>
    let x : Int := floor32 neg man exp
    if x < -545460846592 then f32Zero
    else if 549755813888 ≤ x then f32PosInf
    else
      let n : Int := x / 4294967296
      let f : Nat := (x % 4294967296).toNat
      let u : Nat := f % 2 ^ 26
      let g := segOf img (f / 2 ^ 26)
      let p : Int := (g.1 : Int) * 2 ^ 52 + g.2.1 * (u : Int) * 2 ^ 26 + g.2.2 * ((u * u : Nat) : Int)
      toF32 (valOfInt p (n - 82))

/-- LG2 (R154, R156). -/
def lg2 (img : List Byte) (w : Word) : Word :=
  match f32 w with
  | .nan => f32NaN
  | .inf neg => if neg then f32NaN else f32PosInf
  | .fin _ 0 _ => f32NegInf
  | .fin true _ _ => f32NaN
  | .fin false man exp =>
    let e := exp + 23
    let m : Nat := man % 2 ^ 23
    let i : Nat := m / 2 ^ 16
    let u : Nat := m % 2 ^ 16
    let k := if i ≤ 63 then e else e + 1
    let wn : Int := if i ≤ 63 then 2 * m else (m : Int) - 2 ^ 23
    let g := segOf img i
    let p : Int := (g.1 : Int) * 2 ^ 32 + g.2.1 * (u : Int) * 2 ^ 16 + g.2.2 * ((u * u : Nat) : Int)
    toF32 (valOfInt (k * 2 ^ 86 + wn * p) (-86))

/-- P of a segment at its right end, in units of 2^0 of the entry: A + B + C. -/
def segEnd (s : Nat × Int × Int) : Int := (s.1 : Int) + s.2.1 + s.2.2

/-- Does a segment of an EX2 image break R160, or its seam with the next. -/
def ex2Bad (img : List Byte) (i : Nat) : Bool :=
  let s := segOf img i
  let nxt := segOf img (i + 1)
  let first := segOf img 0
  decide (s.2.1 < 0) || decide (s.2.1 + 2 * s.2.2 < 0) ||
    (if i < 63 then decide ((nxt.1 : Int) < segEnd s) else decide (2 * (first.1 : Int) < segEnd s))

/-- H_i at u in units of 2^-39 over 1, for LG2: k + w·P·2^-30 with w = (wa + wb·u)·2^-8; taken times 2^38 relative to k of
segment 0 (k is 1 for segments 64 and up). -/
def lg2Ends (img : List Byte) (i : Nat) : Int × Int :=
  let s := segOf img i
  let (k, w0, w1) : Int × Int × Int := if i < 64 then (0, 2 * i, 2 * i + 2) else (1, (i : Int) - 128, (i : Int) - 127)
  (k * 2 ^ 38 + w0 * s.1, k * 2 ^ 38 + w1 * segEnd s)

/-- Is the quadratic c0 + c1·u + c2·u² negative somewhere in [0, 1]. -/
def quadNegative (c0 c1 c2 : Int) : Bool :=
  decide (c0 < 0) || decide (c0 + c1 + c2 < 0) ||
    (decide (0 < c2) && decide (c1 < 0) && decide (-c1 < 2 * c2) && decide (4 * c2 * c0 < c1 * c1))

/-- Does a segment of an LG2 image break R160: the derivative of (w0 + d·u)(A + B·u + C·u²) is negative somewhere, or a
seam falls. -/
def lg2Bad (img : List Byte) (i : Nat) : Bool :=
  let (a, b, c) := segOf img i
  let (w0, d) : Int × Int := if i < 64 then (2 * i, 2) else ((i : Int) - 128, 1)
  quadNegative (w0 * b + d * a) (2 * (w0 * c + d * b)) (3 * (d * c)) ||
    (decide (i < 127) && decide ((lg2Ends img (i + 1)).1 < (lg2Ends img i).2))

/-! ### Philox-4×32-10 (R246) -/

/-- One round on the counter. -/
def philoxRound (k0 k1 : Nat) (c : Nat × Nat × Nat × Nat) : Nat × Nat × Nat × Nat :=
  let p0 := 0xD2511F53 * c.1
  let p1 := 0xCD9E8D57 * c.2.2.1
  ((p1 / 2 ^ 32) ^^^ c.2.1 ^^^ k0, p1 % 2 ^ 32, (p0 / 2 ^ 32) ^^^ c.2.2.2 ^^^ k1, p0 % 2 ^ 32)

/-- n rounds, the key stepping after each. -/
def philoxGo : Nat → Nat → Nat → Nat × Nat × Nat × Nat → Nat × Nat × Nat × Nat
  | 0, _, _, c => c
  | n + 1, k0, k1, c => philoxGo n ((k0 + 0x9E3779B9) % 2 ^ 32) ((k1 + 0xBB67AE85) % 2 ^ 32) (philoxRound k0 k1 c)

/-- Words w0 to w3 for index e, counter word 2 and a 64-bit key. -/
def philox (e ctr key : Nat) : Nat × Nat × Nat × Nat :=
  philoxGo 10 (key % 2 ^ 32) (key / 2 ^ 32 % 2 ^ 32) (e % 2 ^ 32, e / 2 ^ 32 % 2 ^ 32, ctr % 2 ^ 32, 0)

/-! ### Micro-programs -/

/-- An instruction from its 64 bits (Table 5.5). -/
def posyInstrOf (v : Nat) : PosyInstr :=
  { op := bits v 63 56, dst := bits v 55 48, sa := bits v 47 40, sb := bits v 39 32, sc := bits v 31 24, pred := bits v 23 21,
    pneg := bit1 v 20, na := bit1 v 19, nb := bit1 v 18, aa := bit1 v 17, e := bit1 v 16, imm := bits v 15 0 }

/-- A directory entry (Table 6.4). -/
structure Micro where
  start : Nat := 0
  len : Nat := 0
  koff : Nat := 0
  tmp : Nat := 0
  preds : Nat := 0
  roles : Nat := 0
  valid : Bool := false
  reserved : Nat := 0
  deriving DecidableEq, Repr

def microDir (img : List Byte) (j : Nat) : Micro :=
  let v := leNat ((img.drop (16 * j)).take 16)
  { start := bits v 127 116, len := bits v 115 107, koff := bits v 106 95, tmp := bits v 94 91, preds := bits v 90 89,
    roles := bits v 88 86, valid := bit1 v 85, reserved := bits v 84 0 }

/-- Slot j of the code area. -/
def microSlot (img : List Byte) (j : Nat) : Nat := leNat ((img.drop (4096 + 8 * j)).take 8)

def Micro.code (img : List Byte) (d : Micro) : List PosyInstr :=
  (List.range d.len).map fun j => posyInstrOf (microSlot img (d.start + j))

/-- K0 to K15. -/
def Micro.consts (img : List Byte) (d : Micro) : List Word :=
  (List.range 16).map fun j => BitVec.ofNat 32 (microSlot img (d.koff + j / 2) / 2 ^ (32 * (j % 2)))

/-- Operations that exist (Table 5.6). -/
def isPosyOp (op : Nat) : Bool :=
  decide (op ≤ 0x0A) || (decide (0x10 ≤ op) && decide (op ≤ 0x16)) || op == 0x18 || op == 0x1C || op == 0x1D || op == 0x20 ||
    op == 0x21 || op == 0x30 || op == 0x31 || op == 0x38

/-- Number of sources that an operation reads (Table 5.6). -/
def sourcesOf (op : Nat) : Nat :=
  if op = 0x03 ∨ op = 0x38 then 3
  else if op = 0x01 ∨ op = 0x02 ∨ op = 0x04 ∨ op = 0x05 ∨ op = 0x06 ∨ op = 0x07 ∨ (0x10 ≤ op ∧ op ≤ 0x16) then 2
  else if op = 0x00 ∨ op = 0x1D ∨ op = 0x30 then 0
  else 1

/-- Operations that permit NA, NB and AA (R140). -/
def modifiable (op : Nat) : Bool :=
  op == 0x01 || op == 0x02 || op == 0x03 || op == 0x04 || op == 0x05 || op == 0x06 || op == 0x0A || op == 0x20 || op == 0x21 ||
    op == 0x1C || op == 0x38

/-- Source modifiers outside R140. -/
def badModifiers (i : PosyInstr) : Bool :=
  if modifiable i.op then i.nb && decide (sourcesOf i.op < 2) else i.na || i.nb || i.aa

/-- IMM outside what the operation defines (Table 5.6). That bits which an operation does not use must be 0 is the model's choice (entry 100). -/
def badImm (i : PosyInstr) : Bool :=
  match i.op with
  | 0x06 => decide (2 < i.imm)
  | 0x07 => decide (7 < i.imm)
  | 0x08 => decide (255 < i.imm) || (fmtOfCode i.imm).isNone
  | 0x18 => decide (3 < i.imm)
  | 0x1C => decide (3 < i.imm)
  | 0x1D => decide (3 < i.imm)
  | 0x30 => !(decide (i.imm ≤ 5) || i.imm == 7)
  | 0x31 => i.imm != 8
  | 0x38 => decide (255 < i.imm)
  | _ => i.imm != 0

/-- Does an instruction write a register. -/
def writesReg (op : Nat) : Bool := !(op == 0x00 || op == 0x06 || op == 0x18 || op == 0x1C || op == 0x31)

/-- Source codes that a micro-program may name (Table 6.5, R169). -/
def microSourceOk (d : Micro) (code : Nat) : Bool :=
  decide (code ≤ 3) || (decide (8 ≤ code) && decide (code < 8 + d.tmp)) || (decide (0x10 ≤ code) && decide (code ≤ 0x29))

/-- Does an instruction of a micro-program break R168 or R169. That its unused IMM bits, and the DST of a NOP, must be 0 is the model's choice
(entry 100). -/
def microInstrBad (d : Micro) (i : PosyInstr) : Bool :=
  let n := sourcesOf i.op
  !isPosyOp i.op || i.op == 0x30 || i.op == 0x31 || i.op == 0x1C || i.op == 0x1D || i.op == 0x38 || i.e || badModifiers i ||
    badImm i || decide (d.preds < i.pred) ||
    (decide (0 < n) && !microSourceOk d i.sa) || (decide (1 < n) && !microSourceOk d i.sb) || (decide (2 < n) && !microSourceOk d i.sc) ||
    (n == 0 && i.sa != 0) || (decide (n < 2) && i.sb != 0) || (decide (n < 3) && i.sc != 0) ||
    (writesReg i.op && !(i.dst == 0 || (decide (8 ≤ i.dst) && decide (i.dst < 8 + d.tmp)))) ||
    ((i.op == 0x06 || i.op == 0x18) && (i.dst == 0 || decide (d.preds < i.dst))) ||
    (i.op == 0x00 && i.dst != 0) || (i.op == 0x07 && !(i.imm == 0 || decide (8 - d.preds ≤ i.imm)))

/-- Does a valid directory entry break R169. -/
def microBad (img : List Byte) (d : Micro) : Bool :=
  let slots := (img.length - 4096) / 8
  decide (d.len = 0) || decide (256 < d.len) || decide (8 < d.tmp) || decide (2 < d.preds) || d.koff % 8 != 0 ||
    decide (slots < d.start + d.len) || decide (slots < d.koff + 8) || (d.code img).any (microInstrBad d)

/-- Temporaries of the standard library entries (Table 6.6); none for an index without one. -/
def libTmp (j : Nat) : Option Nat :=
  match j with
  | 0x00 => some 2 | 0x01 => some 0 | 0x02 => some 2 | 0x03 => some 3 | 0x04 => some 1 | 0x05 => some 1 | 0x06 => some 1
  | 0x07 => some 1 | 0x08 => some 2 | 0x09 => some 3 | 0x0A => some 3 | 0x10 => some 8
  | _ => none

/-- The directory entry that validation sees for index j of a bound bank (R169, R170). -/
def Bound.entry (b : Bound) (j : Nat) : Micro :=
  if b.std then
    match libTmp j with
    | some t => { valid := true, roles := 7, tmp := t }
    | none => {}
  else microDir b.micro j

/-- GELU from its first instruction on, and SILU's first (R171). -/
def geluHead : List PosyInstr :=
  [{ op := 0x02, dst := 8, sa := 1, sb := 1 }, { op := 0x03, dst := 8, sa := 0x11, sb := 8, sc := 0x10 }, { op := 0x02, dst := 8, sa := 8, sb := 1 }]

def siluHead : List PosyInstr := [{ op := 0x02, dst := 8, sa := 1, sb := 0x10 }]

/-- The five instructions that both end in. -/
def logisticTail (one : Nat) : List PosyInstr :=
  [{ op := 0x20, dst := 8, sa := 8 }, { op := 0x01, dst := 8, sa := 8, sb := one }, { op := 0x21, dst := 8, sa := 8 },
   { op := 0x20, dst := 8, sa := 8, na := true }, { op := 0x02, dst := 0, sa := 1, sb := 8 }]

def geluConsts : List Word := [0xC0135761#32, 0xBDD2D3E8#32, 0x3F800000#32]
def siluConsts : List Word := [0xBFB8AA3B#32, 0x00000000#32, 0x3F800000#32]

/-- What CALL runs: code with constants, or a library entry whose code the spec does not give (entry 12). -/
inductive Program where
  | code (is : List PosyInstr) (k : List Word)
  | library (j : Nat)

def Bound.program (b : Bound) (j : Nat) : Program :=
  if b.std then
    if j = 4 then .code (geluHead ++ logisticTail 0x12) geluConsts
    else if j = 5 then .code (siluHead ++ logisticTail 0x12) siluConsts
    else .library j
  else .code ((microDir b.micro j).code b.micro) ((microDir b.micro j).consts b.micro)

/-- Arithmetic and special instructions of a library entry (Table 6.6). -/
def libCost (j : Nat) : Nat × Nat :=
  match j with
  | 0x00 => (5, 1) | 0x01 => (1, 1) | 0x02 => (5, 3) | 0x03 => (14, 3) | 0x04 => (5, 3) | 0x05 => (3, 3) | 0x06 => (4, 2)
  | 0x07 => (2, 2) | 0x08 => (5, 2) | 0x09 => (18, 0) | 0x0A => (18, 0) | 0x10 => (60, 2)
  | _ => (0, 0)

/-- Pipe of an operation (Table 5.6): 0 stream, 1 arithmetic, 2 special. -/
def pipeOf (op : Nat) : Nat := if op = 0x30 ∨ op = 0x31 then 0 else if op = 0x20 ∨ op = 0x21 then 2 else 1

/-- Instructions of a pipe among some, those of called micro-programs counted in their pipes (R148). -/
def Bound.pipes (b : Bound) (is : List PosyInstr) (pipe : Nat) : Nat :=
  is.foldl (fun n i => n + (
    if i.op = 0x38 then
      match b.program i.imm with
      | .code js _ => (js.filter fun j => pipeOf j.op == pipe).length
      | .library j => if pipe = 1 then (libCost j).1 else if pipe = 2 then (libCost j).2 else 0
    else if pipeOf i.op = pipe then 1 else 0)) 0

/-- Core cycles of one chunk of a program (R148). -/
def Bound.chunkCost (b : Bound) (is : List PosyInstr) : Nat := max (max (b.pipes is 0) (b.pipes is 1)) (4 * b.pipes is 2)

/-- Operands on which a library entry depends (R170, R247): NORMAL on bits [31:8] of w0 and w1, the others on a. -/
def libArgs (ch : Chunk) (j : Nat) (a : Word) (l : Nat) : List Word :=
  if j = 0x10 then
    let w := philox (ch.elem l) ch.ctr (ch.key l)
    [BitVec.ofNat 32 (w.1 / 256), BitVec.ofNat 32 (w.2.1 / 256)]
  else [a]

/-- A library entry's result: RCP of 1.0 is 1.0 (Table 7.3); every other value is open, within the bounds that hold with the standard
tables (R170, R247, entry 12). -/
def libResult (b : Bound) (j : Nat) (args : List Word) : Word :=
  let f := Config.libFn j (b.ex2 ++ b.lg2)
  if j = 7 ∧ args = [f32One] then f32One
  else if b.ex2 == stdEx2 && b.lg2 == stdLg2 then libGuarded j f args
  else f args

end Sys2Proof.Machine
end

