-- ==== Sys2Proof/Machine/Tensor.lean ====
section
/-! DEFINITION. Bytes and elements of memories (R23, R30, R96 to R98, R109 to R111, R291, R292): reads and writes of a
protected memory, tensor addressing, reading an element with padding, writing a run of a row. -/

namespace Sys2Proof.Machine

/-- First address above device memory (R280). -/
def devTop : Nat := 0x5FA0000000

/-- What an unlisted byte of a memory that kept its contents reads as (entry 1). -/
def unlisted : Byte := 0

/-- A byte against what an unlisted address reads as: after an event that left contents undefined, a free byte (R282, R347). -/
def Mem.against (m : Mem) (a : Nat) (b : Byte) : Byte :=
  match m.fill with
  | none => b
  | some d => b ^^^ Config.freeByte d a

/-- Reads one byte. -/
def Mem.byte (m : Mem) (a : Nat) : Byte := m.against a (Cells.get unlisted a m.cells)

/-- Reads n bytes. -/
def Mem.read (m : Mem) (a n : Nat) : List Byte := (List.range n).map fun i => m.byte (a + i)

/-- The memory's bytes are in canonical form. -/
def Memory.wf (m : Mem) : Bool := Cells.wf unlisted m.cells

/-- Units (lines or words of `u` bytes) that n bytes from a touch. -/
def unitsOf (u a n : Nat) : List Nat :=
  if n = 0 then [] else (List.range ((a + n - 1) / u + 1 - a / u)).map fun i => a / u + i

/-- Does a range hold a poisoned unit (R294). -/
def Mem.poisoned (m : Mem) (u a n : Nat) : Bool := (unitsOf u a n).any fun x => NatSet.mem x m.poison

/-- Poison of unit x after a write of n bytes from a: whole writes replace it, partial ones keep it (R292); poisoned
data poisons the unit (R291, R293). -/
def Mem.markUnit (u a n : Nat) (pz : Bool) (m : Mem) (x : Nat) : Mem :=
  let whole := decide (a ≤ x * u) && decide ((x + 1) * u ≤ a + n)
  let lat := Cells.set 0 x 0 m.latent
  if pz then { m with poison := NatSet.add x m.poison, latent := lat }
  else if whole then { m with poison := NatSet.del x m.poison, latent := lat }
  else { m with latent := lat }

/-- The entries that bytes at a are listed as. -/
def Mem.coded (m : Mem) (a : Nat) : List Byte → List Byte
  | [] => []
  | b :: r => m.against a b :: m.coded (a + 1) r

/-- Writes bytes at a, with poison mark `pz`, in a memory of `u`-byte units. -/
def Mem.write (m : Mem) (u a : Nat) (bs : List Byte) (pz : Bool) : Mem :=
  let m' := (unitsOf u a bs.length).foldl (Mem.markUnit u a bs.length pz) m
  { m' with cells := Cells.setRun unlisted a (m.coded a bs) m'.cells }

/-- Units that n bytes from a touch in part: a write of them reads and corrects the unit first (R286). -/
def partUnits (u a n : Nat) : List Nat := (unitsOf u a n).filter fun x => !(decide (a ≤ x * u) && decide ((x + 1) * u ≤ a + n))

/-- Undefined contents over n bytes from a: free bytes of draw d. -/
def Mem.havoc (m : Mem) (u a n d : Nat) : Mem :=
  m.write u a ((List.range n).map fun i => Config.freeByte d (a + i)) false

/-- A sparse list with the keys [a, a + n) ÷ k replaced by those of another at b. -/
def splice {α : Type} (k a b n : Nat) (l m : List (Nat × α)) : List (Nat × α) :=
  l.filter (fun e => decide (e.1 < a / k)) ++
    (m.filter fun e => decide (b / k ≤ e.1) && decide (e.1 < (b + n) / k)).map (fun e => (e.1 - b / k + a / k, e.2)) ++
    l.filter fun e => decide ((a + n) / k ≤ e.1)

/-- Replaces n bytes at a by those of another memory at b, with poison and bad symbols; all are multiples of the unit. -/
def Mem.graft (dst src : Mem) (u a b n : Nat) : Mem :=
  { fill := dst.fill
    cells := match dst.fill, src.fill with
      | none, none => splice 1 a b n dst.cells src.cells
      | _, _ => Cells.setRun unlisted a (dst.coded a (src.read b n)) dst.cells
    poison := ((splice u a b n (dst.poison.map fun x => (x, ())) (src.poison.map fun x => (x, ()))).map fun e => e.1)
    latent := splice u a b n dst.latent src.latent }

/-- A memory whose contents an event left undefined: every byte is a free one of draw d (R347). -/
def Mem.lost (d : Nat) : Mem := { fill := some d }

/-- Bytes that n packed elements of width w take, by R23: FP6 in groups of three bytes. -/
def packedBytes (w n : Nat) : Nat := if w = 6 then cdiv n 4 * 3 else cdiv (n * w) 8

/-- Element i of a packed row of width w at address a. -/
def codeAt (m : Mem) (a w i : Nat) : Nat :=
  let b := i * w
  leNat (m.read (a + b / 8) (cdiv (b % 8 + w) 8)) / 2 ^ (b % 8) % 2 ^ w

/-- Row number over dimensions 1 to 3, dimension 1 fastest (R98). -/
def Tensor.rowNum (t : Tensor) (i1 i2 i3 : Nat) : Nat := i1 + t.e1 * (i2 + t.e2 * i3)

/-- Address of a row. -/
def Tensor.rowAddr (t : Tensor) (i1 i2 i3 : Nat) : Nat := t.base + i1 * t.s1 + i2 * t.s2 + i3 * t.s3

/-- Blocks of a row. -/
def Tensor.blocks (t : Tensor) : Nat := cdiv t.e0 32

/-- Elements stored in a row (R98): whole blocks in an MX format. -/
def Tensor.storedElems (t : Tensor) : Nat := if t.fmt.mx then t.blocks * 32 else t.e0

/-- Stored length of a row in bytes (R98). -/
def Tensor.rowBytes (t : Tensor) : Nat := packedBytes t.fmt.elem.width t.storedElems

/-- Address of the scale of block b of a row. -/
def Tensor.scaleAddr (t : Tensor) (b i1 i2 i3 : Nat) : Nat := t.scaleBase + t.rowNum i1 i2 i3 * t.blocks + b

/-- Is the index within the extents. -/
def Tensor.inside (t : Tensor) (i0 i1 i2 i3 : Nat) : Bool :=
  decide (i0 < t.e0) && decide (i1 < t.e1) && decide (i2 < t.e2) && decide (i3 < t.e3)

/-- Element code and scale code at an index, with the padding of R109 and R110. -/
def Tensor.raw (t : Tensor) (m : Mem) (i0 i1 i2 i3 : Nat) : Nat × Nat :=
  let rowIn := t.inside 0 i1 i2 i3
  let sc := if t.fmt.mx && rowIn && decide (i0 / 32 < t.blocks)
    then (m.byte (t.scaleAddr (i0 / 32) i1 i2 i3)).toNat else 127
  let code := if t.inside i0 i1 i2 i3 then codeAt m (t.rowAddr i1 i2 i3) t.fmt.elem.width i0 else t.pad
  (code, sc)

/-- Element value at an index, exactly (R30, R136). -/
def Tensor.val (t : Tensor) (m : Mem) (i0 i1 i2 i3 : Nat) : Val :=
  let r := t.raw m i0 i1 i2 i3
  readScaled t.fmt r.1 r.2

/-- Element of an integer tensor, sign-extended (R136). -/
def Tensor.int (t : Tensor) (m : Mem) (i0 i1 i2 i3 : Nat) : Int :=
  signExtend t.fmt.elem.width (t.raw m i0 i1 i2 i3).1

/-- Element as the 32-bit register value that LD forms (R136). -/
def Tensor.load (t : Tensor) (m : Mem) (i0 i1 i2 i3 : Nat) : Word :=
  if t.fmt.isInt then BitVec.ofInt 32 (t.int m i0 i1 i2 i3) else toF32 (t.val m i0 i1 i2 i3)

/-- Packs codes of width w, element 0 lowest (R23). -/
def packCodes (w : Nat) : List Nat → Nat
  | [] => 0
  | c :: r => c % 2 ^ w + 2 ^ w * packCodes w r

/-- Replaces elements i onwards of the packed row at a. -/
def putCodes (m : Mem) (u a w i : Nat) (cs : List Nat) (pz : Bool) : Mem :=
  let b0 := i * w
  let nb := cdiv (b0 % 8 + cs.length * w) 8
  let old := leNat (m.read (a + b0 / 8) nb)
  let lo := old % 2 ^ (b0 % 8)
  let hiPos := b0 % 8 + cs.length * w
  let hi := old / 2 ^ hiPos
  m.write u (a + b0 / 8) (leBytes nb (lo + 2 ^ (b0 % 8) * packCodes w cs + 2 ^ hiPos * hi)) pz

/-- How many PAD codes follow a run that ends at element e of a row of EXT0 elements (R23, R111). -/
def Tensor.tailPads (t : Tensor) (e : Nat) : Nat :=
  if e < t.e0 then 0
  else if t.fmt.mx then t.blocks * 32 - e
  else if t.fmt.elem.width = 6 then cdiv e 4 * 4 - e
  else if t.fmt.elem.width = 4 then cdiv e 2 * 2 - e
  else 0

/-- Splits a list into groups of n. -/
def groupsOf {α : Type} (n : Nat) : Nat → List α → List (List α)
  | 0, _ => []
  | _, [] => []
  | f + 1, l => l.take n :: groupsOf n f (l.drop n)

/-- Codes and block scales of a run of values that starts on a block boundary (R32, R35 to R37, R137). Integers are
narrowed with saturation. -/
def encodeRun (f : Fmt) (vs : List Word) : List Nat × List Nat :=
  if f.isInt then
    (vs.map fun v => encodeInt f.elem.width (valOfInt v.toInt 0), [])
  else if f.mx then
    let gs := groupsOf 32 (vs.length + 1) (vs.map f32)
    let scs := gs.map (blockScale f.elem)
    ((gs.zip scs).flatMap fun g => g.1.map (blockElem f.elem g.2), scs)
  else (vs.map fun v => encodeElem f.elem (f32 v), [])

/-- Writes register values to elements i0 onwards of a row, converted to the tensor's format (R137, R111, R23). -/
def Tensor.putRow (t : Tensor) (m : Mem) (i0 i1 i2 i3 : Nat) (vs : List Word) (pz : Bool) : Mem :=
  let (cs, scs) := encodeRun t.fmt vs
  let pads := List.replicate (t.tailPads (i0 + vs.length)) t.pad
  let m := putCodes m 64 (t.rowAddr i1 i2 i3) t.fmt.elem.width i0 (cs ++ pads) pz
  if t.fmt.mx then
    m.write 64 (t.scaleAddr (i0 / 32) i1 i2 i3) (scs.map fun s => BitVec.ofNat 8 s) pz
  else m

/-- Bytes that putting a run of values into a row of a tensor writes, as the memory stands: address and data. -/
def rowWrites (m : Mem) (t : Tensor) (col i1 i2 i3 : Nat) (vs : List Word) : List (Nat × List Byte) :=
  let m' := t.putRow m col i1 i2 i3 vs false
  let w := t.fmt.elem.width
  let n := vs.length + t.tailPads (col + vs.length)
  let a := t.rowAddr i1 i2 i3
  let lo := a + col * w / 8
  let len := cdiv (col * w % 8 + n * w) 8
  [(lo, m'.read lo len)] ++
    (if t.fmt.mx then
      let sa := t.scaleAddr (col / 32) i1 i2 i3
      [(sa, m'.read sa (cdiv vs.length 32))] else [])

/-- Writes made in order. -/
def Mem.puts (m : Mem) (ws : List (Nat × List Byte)) : Mem := ws.foldl (fun m w => m.write 64 w.1 w.2 false) m

/-- All index triples of dimensions 1 to 3, dimension 1 fastest. -/
def rowIndices (e1 e2 e3 : Nat) : List (Nat × Nat × Nat) :=
  (List.range e3).flatMap fun k => (List.range e2).flatMap fun j => (List.range e1).map fun i => (i, j, k)

/-- Byte ranges (address, length) that a tensor's rows and scales take: its read or write set (R352). -/
def Tensor.ranges (t : Tensor) : List (Nat × Nat) :=
  (rowIndices t.e1 t.e2 t.e3).map (fun r => (t.rowAddr r.1 r.2.1 r.2.2, t.rowBytes)) ++
  (if t.fmt.mx then [(t.scaleBase, t.e1 * t.e2 * t.e3 * t.blocks)] else [])

end Sys2Proof.Machine
end

