-- ==== Sys2Proof/Machine/Posy.lean ====
section
/-! DEFINITION. Execution of posies (05 R124, R128, R133 to R145, R152): one instruction over a chunk, CALL, one sweep of a
chunk, one row. -/

namespace Sys2Proof.Machine

/-- A conversion to a storage format and back, block by block (Table 5.6 RND, R137); inactive lanes do not shape scales. -/
def rndLanes (f : Fmt) (act : Nat → Bool) (a : Nat → Word) : List Word :=
  let vs := lanes.map fun l => if act l then a l else 0
  let (cs, scs) := encodeRun f vs
  lanes.map fun l =>
    let c := cs.getD l 0
    if f.isInt then BitVec.ofInt 32 (signExtend f.elem.width c) else toF32 (readScaled f c (scs.getD (l / 32) 127))

/-- Result of an arithmetic or special operation in one lane (Table 5.6). -/
def laneOp (b : Bound) (op : Nat) (x y z : Word) : Word :=
  match op with
  | 0x01 => fadd x y
  | 0x02 => fmul x y
  | 0x03 => fma x y z
  | 0x04 => fmin x y
  | 0x05 => fmax x y
  | 0x09 => itof x
  | 0x0A => ftoi x
  | 0x10 => x + y
  | 0x11 => x * y
  | 0x12 => BitVec.ofNat 32 (x.toNat * y.toNat / 2 ^ 32)
  | 0x13 => x ^^^ y
  | 0x14 => x &&& y
  | 0x15 => x <<< (y.toNat % 32)
  | 0x16 => x >>> (y.toNat % 32)
  | 0x20 => ex2 b.ex2 x
  | 0x21 => lg2 b.lg2 x
  | _ => 0

/-- Operations whose NaN result is produced (R50). -/
def producesNan (op : Nat) : Bool := (decide (1 ≤ op) && decide (op ≤ 5)) || op == 0x20 || op == 0x21

/-- What an instruction leaves: the engine, the lanes that ST stored, and the first NaN it produced. -/
structure StepOut where
  y : VEng
  stored : Option (List Word)
  nan : Option LaneNan

/-- One instruction other than CALL (R140, R134, R141, R138, R136, R137). -/
def stepOne (b : Bound) (p : Posy) (ch : Chunk) (cc : Option Call) (i : PosyInstr) (y : VEng) : StepOut :=
  let a := fun l => modify i.aa i.na (source cc p.consts ch y i.sa l)
  let bb := fun l => modify false i.nb (source cc p.consts ch y i.sb l)
  let c := fun l => source cc p.consts ch y i.sc l
  let w := writes cc ch y i
  let d := destReg cc i.dst
  match i.op with
  | 0x00 => { y := y, stored := none, nan := none }
  | 0x06 => { y := y.putPred ch (predNum cc i.dst) w (fun l => fcmp i.imm (a l) (bb l)), stored := none, nan := none }
  | 0x18 => { y := y.putPred ch (predNum cc i.dst) w (fun l => maskBit (i.imm % 4) (ch.row l) (ch.col l) (a l)), stored := none, nan := none }
  | 0x07 => { y := y.put ch d w (fun l => if y.pred ch (i.imm % 8) l then a l else bb l), stored := none, nan := none }
  | 0x08 =>
    match fmtOfCode (i.imm % 256) with
    | none => { y := y, stored := none, nan := none }
    | some f =>
      let r := rndLanes f ch.act a
      let g := fun l => r.getD l 0
      { y := y.put ch d w g, stored := none, nan := if f.isInt then none else firstNan w g a (fun _ => 0) (fun _ => 0) true }
  | 0x1C =>
    let k := p.kinds.getD (i.imm % 4) 0
    let v := statReduce k w a (y.s.getD (i.imm % 4) 0)
    { y := { y with s := y.s.set (i.imm % 4) v }, stored := none, nan := none }
  | 0x1D =>
    let g := match ch.stat with
      | some f => f (i.imm % 4)
      | none => fun _ => y.s1.getD (i.imm % 4) 0
    { y := y.put ch d w g, stored := none, nan := none }
  | 0x30 =>
    let g := ch.ld i.imm
    { y := y.put ch d w g, stored := none
      nan := if ch.ldFloat i.imm then firstNan w g g (fun _ => 0) (fun _ => 0) true else none }
  | 0x31 => { y := y, stored := some (lanes.map a), nan := if ch.outNan then firstNan w a a (fun _ => 0) (fun _ => 0) true else none }
  | op =>
    let g := fun l => laneOp b op (a l) (bb l) (c l)
    { y := y.put ch d w g, stored := none
      nan := if producesNan op then
        firstNan w g a (if sourcesOf op < 2 then fun _ => 0 else bb) (if sourcesOf op < 3 then fun _ => 0 else c) false else none }

/-- Runs the code of a micro-program; the first NaN is kept. -/
def runMicro (b : Bound) (p : Posy) (ch : Chunk) (cc : Call) : List PosyInstr → VEng → Option LaneNan → StepOut
  | [], y, n => { y := y, stored := none, nan := n }
  | i :: r, y, n =>
    let o := stepOne b p ch (some cc) i y
    runMicro b p ch cc r o.y (n <|> o.nan)

/-- A library entry whose code is open: D and its temporaries (entry 12). -/
def runLibrary (b : Bound) (ch : Chunk) (cc : Call) (d j : Nat) (y : VEng) : StepOut :=
  let w := fun l => ch.act l && cc.guard l
  let args := fun l => libArgs ch j (cc.a l) l
  let y := (List.range ((libTmp j).getD 0)).foldl (fun y t =>
    y.put ch (56 + t) w (fun l => Config.libReg j t (b.ex2 ++ b.lg2) (args l))) y
  let g := fun l => libResult b j (args l)
  { y := y.put ch d w g, stored := none, nan := firstNan w g cc.a (fun _ => 0) (fun _ => 0) false }

/-- One posy instruction (R140), CALL included (R168). -/
def stepInstr (b : Bound) (p : Posy) (ch : Chunk) (i : PosyInstr) (y : VEng) : StepOut :=
  if i.op = 0x38 then
    let k : Call := { d := i.dst, a := fun l => modify i.aa i.na (srcPosy p.consts ch y i.sa l),
                      b := fun l => modify false i.nb (srcPosy p.consts ch y i.sb l), c := fun l => srcPosy p.consts ch y i.sc l,
                      k := [], guard := fun l => y.pred ch i.pred l != i.pneg }
    match b.program (i.imm % 256) with
    | .code is ks => runMicro b p ch { k with k := ks } is y none
    | .library j => runLibrary b ch k i.dst j y
  else stepOne b p ch none i y

/-- Stage of instruction n (R142): the stage ends before it. -/
def stageOf (code : List PosyInstr) (n : Nat) : Nat := ((code.take n).filter fun i => i.e).length

/-- Where a row's first NaN arose: chunk, stage, lane and inputs. -/
structure RowNan where
  chunk : Nat
  stage : Nat
  lane : LaneNan

/-- Runs instructions from number n over chunk number k. -/
def runSweep (b : Bound) (p : Posy) (ch : Chunk) (k : Nat) : Nat → List PosyInstr → VEng → Option (List Word) → Option RowNan →
    VEng × Option (List Word) × Option RowNan
  | _, [], y, st, nn => (y, st, nn)
  | n, i :: r, y, st, nn =>
    let o := stepInstr b p ch i y
    let nn := match nn, o.nan with
      | none, some x => some { chunk := k, stage := stageOf p.code n, lane := x }
      | nn, _ => nn
    runSweep b p ch k (n + 1) r o.y (o.stored <|> st) nn

/-- What a row leaves: the engine, the lanes stored for each chunk, the first NaN. -/
structure RowOut where
  y : VEng
  stored : List (List Word)
  nan : Option RowNan

/-- One sweep over the chunks of a row, in order. -/
def runChunks (b : Bound) (p : Posy) (from_ : Nat) (code : List PosyInstr) : Nat → List Chunk → RowOut → RowOut
  | _, [], o => o
  | k, ch :: r, o =>
    let (y, st, nn) := runSweep b p ch k from_ code o.y none o.nan
    runChunks b p from_ code (k + 1) r { y := y, stored := o.stored ++ [st.getD []], nan := nn }

/-- One row of a program: the slots start afresh, then one sweep or two (R138, R145). -/
def runRow (b : Bound) (p : Posy) (chs : List Chunk) (y : VEng) : RowOut :=
  let y := { y with s := p.kinds.map statStart, s1 := p.kinds.map statStart }
  if p.split = 0 then runChunks b p 0 p.code 0 chs { y := y, stored := [], nan := none }
  else
    let o := runChunks b p 0 (p.code.take p.split) 0 chs { y := y, stored := [], nan := none }
    runChunks b p p.split (p.code.drop p.split) 0 chs { y := { o.y with s1 := o.y.s, v := [], p := [] }, stored := [], nan := o.nan }

/-! ### Streams (R131, R136, R504) -/

/-- Bit (i0) of a mask row, with PAD outside the extents (R504). -/
def Tensor.maskBitAt (t : Tensor) (m : Mem) (i0 i1 i2 i3 : Nat) : Nat :=
  if t.inside i0 i1 i2 i3 then (m.byte (t.rowAddr i1 i2 i3 + i0 / 8)).toNat / 2 ^ (i0 % 8) % 2 else t.pad % 2

/-- An element of an extra stream at the lane's coordinates (R136). -/
def Stream.read (q : Stream) (m : Mem) (col row bat d3 : Nat) : Word :=
  if q.maskBits then BitVec.ofNat 32 (q.t.maskBitAt m col row bat d3)
  else match q.shape with
    | 1 => q.t.load m col 0 0 0
    | 2 => q.t.load m row bat 0 0
    | _ => q.t.load m col row bat d3

/-- Extra stream of slot i. -/
def Posy.stream? (p : Posy) (i : Nat) : Option Stream := p.streams.find? fun q => q.slot == i

/-- Is a stream of floating-point elements. -/
def Stream.isFloat (q : Stream) : Bool := !q.maskBits && !q.t.fmt.isInt

/-- Element index of the tensor that a posy writes (R133), or the image element index inside a step list (R246). -/
def elemIndex (out : Tensor) (inList : Bool) (col row bat d3 : Nat) : Nat :=
  col + out.e0 * (row + out.e1 * ((if inList then 0 else bat) + out.e2 * d3))

/-- What a posy of a command shares over all its chunks: bound banks, step-list membership, Philox key by batch index and
stream number (R245, R505), and the draw of never-written registers. -/
structure PosyEnv where
  bind : Bound
  inList : Bool := false
  key : Nat → Nat := fun _ => 0
  ctr : Nat := 0
  draw : Nat := 0

/-- Does writing a NaN in this format store a NaN (R32, R36): MX formats by their scale, plain ones by their code. -/
def Fmt.storesNan (f : Fmt) : Bool := !f.isInt && (f.mx || f.elem.nanCode != 0)

/-- A chunk by coordinates of its lanes, n active lanes; `res` reads RES, RESP and ACT (slots 0, 1, 7) by lane. -/
def mkChunkBy (e : PosyEnv) (p : Posy) (out : Tensor) (m : Mem) (row col : Nat → Nat) (bat d3 n : Nat)
    (res : Nat → Nat → Word) (resFloat : Bool) (stat : Option (Nat → Nat → Word)) : Chunk :=
  { act := fun l => decide (l < n)
    row := row
    col := col
    bat := fun _ => bat
    elem := fun l => elemIndex out e.inList (col l) (row l) bat d3
    key := fun _ => e.key bat
    ctr := e.ctr
    ld := fun slot l =>
      if 2 ≤ slot ∧ slot ≤ 5 then
        match p.stream? (slot - 2) with
        | some q => q.read m (col l) (row l) bat d3
        | none => 0
      else res slot l
    ldFloat := fun slot =>
      if 2 ≤ slot ∧ slot ≤ 5 then
        match p.stream? (slot - 2) with
        | some q => q.isFloat
        | none => false
      else resFloat
    stat := stat
    outNan := out.fmt.storesNan
    v0 := fun r l => Config.freeReg e.draw r l
    p0 := fun r l => Config.freePred e.draw r l }

/-- A chunk of consecutive columns from col0 of one row; `res` and `stat` read by column. -/
def mkChunk (e : PosyEnv) (p : Posy) (out : Tensor) (m : Mem) (row bat d3 col0 n : Nat)
    (res : Nat → Nat → Word) (resFloat : Bool) (stat : Option (Nat → Nat → Word)) : Chunk :=
  mkChunkBy e p out m (fun _ => row) (fun l => col0 + l) bat d3 n (fun slot l => res slot (col0 + l)) resFloat (stat.map fun f slot l => f slot (col0 + l))

/-- Starts of the chunks that cover columns [lo, hi), with their active lanes. -/
def chunkStarts (lo hi : Nat) : List (Nat × Nat) :=
  (List.range (cdiv (hi - lo) 128)).map fun k => (lo + 128 * k, min 128 (hi - lo - 128 * k))

/-! ### Values through a micro-program (ATTEND, WUPD, NOISE) -/

/-- Result of entry j on an operand of each lane of a chunk, with the first NaN that it produces (R168, R198, R247, R270). -/
def chunkCall (b : Bound) (ch : Chunk) (j : Nat) (a : Nat → Word) : (Nat → Word) × Option LaneNan :=
  match b.program j with
  | .code is ks =>
    let k : Call := { d := 0, a := a, b := fun _ => 0, c := fun _ => 0, k := ks, guard := fun _ => true }
    let o := runMicro b { kind := 3, code := [] } ch k is {} none
    (o.y.reg ch 0, o.nan)
  | .library n =>
    let r := (List.range 128).map fun l => libResult b n (libArgs ch n (a l) l)
    let g := fun l => r.getD l 0
    (g, firstNan ch.act g a (fun _ => 0) (fun _ => 0) false)

/-- A chunk of a fixed sequence: n lanes of a row from column c0. -/
def seqChunk (e : PosyEnv) (out : Tensor) (i : Nat × Nat × Nat) (c0 n : Nat) : Chunk :=
  mkChunk e { kind := 3, code := [] } out {} i.1 i.2.1 i.2.2 c0 n (fun _ _ => 0) false none

end Sys2Proof.Machine
end

