-- ==== Sys2Proof/Machine/Tiles.lean ====
section
/-! DEFINITION. Tiles, passes and rows (04 R95, R102 to R107), operands of the lane rows (03 R55 to R66, 04 R109, R110) and
a dot product (02 R39 to R43), with the NaN that it may produce (02 R503). -/

namespace Sys2Proof.Machine

/-! ### Tiles -/

/-- Ranges of the seven dimensions, by code (Table 4.2). -/
abbrev Box := List (Nat × Nat)

/-- Tiles of size t of one range (R95). -/
def cuts (t : Nat) (r : Nat × Nat) : List (Nat × Nat) :=
  (List.range (cdiv (r.2 - r.1) t)).map fun i => (r.1 + i * t, min r.2 (r.1 + (i + 1) * t))

/-- Loop order, outermost first: dimensions that ORDER does not list stand outside, but M, which then is innermost, so
that pair mode holds wherever PAIR does not reject it (R102, R105, R125; entry 25). -/
def fullOrder (order : List Nat) : List Nat :=
  ([6, 5, 4, 3, 2, 1].filter fun d => !order.contains d) ++ order ++ (if order.contains 0 then [] else [0])

/-- Tiles of a level inside a box, in the level's order (R103). -/
def subTiles (sizes order : List Nat) (b : Box) : List Box :=
  (fullOrder order).foldl (fun bs d => bs.flatMap fun x => (cuts (sizes.getD d 1) (x.getD d (0, 1))).map fun r => x.set d r) [b]

def Level.sizes (l : Level) : List Nat := [l.tm, l.tn, l.tk, l.tb, l.ts0, l.ts1, l.ts2]

/-- Dies of T3 tiles, in rotation (R103). -/
def Level.dieOf (l : Level) (home i : Nat) : Nat :=
  let ds := (List.range 4).filter fun d => bit1 l.dies d
  if ds.isEmpty then home else ds.getD (i % ds.length) home

/-- Pairs a list with its positions. -/
def numbered {α : Type} (l : List α) : List (Nat × α) := (List.range l.length).zip l

/-- The tile commands of a command in dispatch order: box and home die (R103). -/
def tileBoxes (t3 t2 : Level) (home : Nat) (full : Box) : List (Box × Nat) :=
  (numbered (subTiles t3.sizes t3.order full)).flatMap fun x =>
    (subTiles t2.sizes t2.order x.2).map fun b => (b, t3.dieOf home x.1)

/-- Passes of a tile command, in T1 order. -/
def passBoxes (t1 : Level) (b : Box) : List Box := subTiles t1.sizes t1.order b

/-- Rows of a pass, in accumulator order: values of M, B, S0, S1, S2 (R105). -/
def passRows (order : List Nat) (b : Box) : List Box :=
  let row : Box := b.set 1 (0, 1) |>.set 2 (0, 1)
  subTiles [1, 1, 1, 1, 1, 1, 1] (order.filter fun d => d != 1 && d != 2) row

def Box.lo (b : Box) (d : Nat) : Nat := (b.getD d (0, 1)).1
def Box.hi (b : Box) (d : Nat) : Nat := (b.getD d (0, 1)).2

def Box.tile (b : Box) : Tile :=
  { m0 := b.lo 0, m1 := b.hi 0, n0 := b.lo 1, n1 := b.hi 1, k0 := b.lo 2, k1 := b.hi 2, b0 := b.lo 3, b1 := b.hi 3 }

def Tile.box (t : Tile) : Box := [(t.m0, t.m1), (t.n0, t.n1), (t.k0, t.k1), (t.b0, t.b1), (0, 1), (0, 1), (0, 1)]

/-- The whole of a MATMUL: M, N, K, B. -/
def TileBlock.full (tb : TileBlock) : Box :=
  [(0, tb.act.e1), (0, tb.wt.e1), (0, tb.act.e0), (0, tb.act.e2), (0, 1), (0, 1), (0, 1)]

/-- Does the command split K, and into how many parts (R107). -/
def TileBlock.parts (tb : TileBlock) : Nat := cdiv tb.act.e0 tb.t2.tk

/-! ### Operands as the lane rows see them -/

/-- The format in core memory: FP6 widened (R24). -/
def Fmt.core (f : Fmt) : Fmt := { f with elem := f.elem.widened }

/-- Element and scale codes in core memory at an index, with padding (R24, R109, R110). -/
def Tensor.coreRaw (t : Tensor) (m : Mem) (i0 i1 i2 i3 : Nat) : Nat × Nat :=
  let r := t.raw m i0 i1 i2 i3
  (widenFp6 t.fmt.elem r.1, r.2)

/-- A codes-and-scales pair as an exact value. -/
def coreVal (f : Fmt) (r : Nat × Nat) : Val := readScaled f.core r.1 r.2

/-- An element without its scale, as FP32 (R503); one of a block whose scale is 0xFF reads as NaN (R33). -/
def elemF32 (f : Fmt) (r : Nat × Nat) : Word :=
  toF32 (if f.mx then (if r.2 = 0xFF then .nan else mxElem f.core.elem r.1) else decodeElem f.core.elem r.1)

/-- A lane's accumulator within a pass: value, the group and inputs of its first NaN, saturation. -/
structure AccOut where
  acc : Word
  nan : Option (Nat × Nat × Word × Word × Word)
  sat : Bool

/-- Sees a product as R503 does: activation and weight elements, the scale code when a block scale is 0xFF, the product. -/
def productOf (fa fw : Fmt) (a w : Nat × Nat) : Word × Word × Option Nat × Val :=
  let sc := if (fa.mx && a.2 == 0xFF) || (fw.mx && w.2 == 0xFF) then some 0xFF else none
  (elemF32 fa a, elemF32 fw w, sc, (coreVal fa a).mul (coreVal fw w))

/-- One dot group into an accumulator (R40 to R43), with its NaN record (R50, R503): K index, cause, INPUT_A, B, C. -/
def groupInto (mode : Mode) (fa fw : Fmt) (k : Nat) (as ws : List (Nat × Nat)) (o : AccOut) : AccOut :=
  if mode.isInt then
    let ps := (as.zip ws).map fun p => signExtend fa.elem.width p.1.1 * signExtend fw.elem.width p.2.1
    let r := accInt o.acc ps
    { o with acc := r.1, sat := o.sat || r.2 }
  else
    let ps := (as.zip ws).map fun p => productOf fa fw p.1 p.2
    let r := accFloat o.acc (ps.map fun p => p.2.2.2)
    let n := if isNaN32 r then
        let c := dotCause o.acc ps
        some (k, c.1, c.2.1, c.2.2, shown o.acc)
      else none
    { o with acc := r, nan := o.nan <|> n }

/-- Groups of a reduction over [k0, k1) in ascending K (R60, R66): f groups from K index k. -/
def dotGo (mode : Mode) (fa fw : Fmt) (a w : Nat → Nat × Nat) : Nat → Nat → AccOut → AccOut
  | 0, _, o => o
  | f + 1, k, o =>
    let ks := (List.range mode.g).map fun j => k + j
    dotGo mode fa fw a w f (k + mode.g) (groupInto mode fa fw k (ks.map a) (ks.map w) o)

/-- An output of a pass before its epilogue: operands by K index. -/
def dotRange (mode : Mode) (fa fw : Fmt) (a w : Nat → Nat × Nat) (k0 k1 : Nat) : AccOut :=
  dotGo mode fa fw a w (cdiv (k1 - k0) mode.g) k0 { acc := mode.start, nan := none, sat := false }

/-! ### Groups in flight (R67, R72, R87, R223) -/

/-- Coordinates of lane l of a result row. -/
def LaneAt.coord (x : LaneAt) (l : Nat) : List Nat :=
  if x.pages.isEmpty then x.base.set x.dim (x.base.getD x.dim 0 + l) else x.base.set x.dim (x.span * x.pages.getD (l / x.span) 0 + l % x.span)

/-- The record of a NaN that a pruned group produced (R223): the activation is the PAD zero, the weight the first that is an
infinity, a NaN or of a block whose scale is 0xFF. -/
def prunedNan (fa fw : Fmt) (pad : Nat) (ws : List (Nat × Nat)) (x : Nat × Nat × Word × Word × Word) : Nat × Nat × Word × Word × Word :=
  match ws.find? fun w => (coreVal fw w).isNaN || (coreVal fw w).isInf with
  | some w => (x.1, if (f32 (elemF32 fw w)).isInf && !(fw.mx && w.2 == 0xFF) then 1 else 2, elemF32 fa (pad, 127), elemF32 fw w, x.2.2.2.2)
  | none => x

/-- Lane l's accumulator after a group, with its first NaN (R40 to R43, R57, R476). -/
def laneUpdate (y : Core) (i : Issued) (l : Nat) : AccOut :=
  let b := y.banks.getD i.bank {}
  let width := i.fw.core.elem.width
  let field := Cells.get 0 (32 * l + i.entry) b.elems
  let sc := Cells.get 0 (32 * l + i.entry) b.scales
  let ws := (List.range i.mode.g).map fun j => (field / 2 ^ (width * j) % 2 ^ width, sc)
  let old := if i.first then i.mode.start else Cells.get 0 (l * 64 + i.row) y.acc
  let acc := if i.inject = some l then f32NaN else old
  let o := groupInto i.mode i.fa i.fw i.kIndex (i.chunk.map fun a => (a, i.scale)) ws { acc := acc, nan := none, sat := false }
  if i.pruned then { o with nan := o.nan.map (prunedNan i.fa i.fw (i.chunk.headD 0) ws) } else o

/-- ACCSCALE of a lane (R72). -/
def laneScale (y : Core) (i : Issued) (f : Word) (l : Nat) : AccOut :=
  let a := Cells.get 0 (l * 64 + i.row) y.acc
  let r := fmul a f
  { acc := r, nan := if isNaN32 r then some (i.kIndex, if isNaN32 a || isNaN32 f then 2 else 1, shown a, shown f, 0) else none, sat := false }

/-- What a group or an ACCSCALE gives each lane. -/
def Core.lanesOf (y : Core) (i : Issued) : List AccOut :=
  (List.range 1024).map fun l => match i.factor with | some f => laneScale y i f l | none => laneUpdate y i l

/-- The oldest group in flight updates its accumulators; a row that is final is noted for its copy (R69). -/
def Core.applied (y : Core) (i : Issued) (os : List AccOut) : Core :=
  { y with
    acc := (numbered os).foldl (fun a x => Cells.set 0 (x.1 * 64 + i.row) x.2.acc a) y.acc
    pipe := y.pipe.drop 1
    final := match i.final with | some (line, pass, area) => y.final ++ [{ who := i.who, row := i.row, line := line, pass := pass, area := area }] | none => y.final }

/-- The first NaN of a tile column among some lanes, with its lane (R50, R52, R58). -/
def Issued.nanOf (i : Issued) (os : List AccOut) : Option (Nat × (Nat × Nat × Word × Word × Word)) :=
  (numbered (os.take i.cols)).findSome? fun x => x.2.nan.map fun n => (x.1, n)

/-- The groups in flight all update their accumulators, in order (R87): the core, saturation, and the first NaN with its
group. -/
def Core.drained (y : Core) : Core × Bool × Option (Issued × Nat × (Nat × Nat × Word × Word × Word)) :=
  y.pipe.foldl (fun (acc : Core × Bool × Option (Issued × Nat × (Nat × Nat × Word × Word × Word))) i =>
    let os := acc.1.lanesOf i
    (acc.1.applied i os, acc.2.1 || os.any (fun o => o.sat), acc.2.2 <|> (i.nanOf os).map fun n => (i, n.1, n.2))) (y, false, none)

end Sys2Proof.Machine
end

