-- ==== Sys2Proof/Machine/Landing.lean ====
section
/-! DEFINITION. The core slot of a landing area (14 R378, R379, Table 14.9, 03 R88): what a save writes there and a restore
reads back. The control area, whose layout the spec leaves to the part, stays with the model's record of the saved core. -/

namespace Sys2Proof.Machine

/-- The draw that gives unwritten registers of core k's vector engine their values. -/
def coreDraw (k : Nat) : Nat := 2 ^ 64 + k

/-- Offset of the core slot of core k in a landing area (R378), and its size without the control area. -/
def slotOffset (k : Nat) : Nat := 0x400000 + k % 64 * 0x360000
def slotBytes : Nat := 0x358000

/-- Bytes of a sparse array of little-endian words of w bytes, from a on. -/
def spread (w a : Nat) (l : List (Nat × Nat)) (out : List (Nat × Byte)) : List (Nat × Byte) :=
  l.foldl (fun o e => Cells.setRun 0 (a + w * e.1) (leBytes w e.2) o) out

/-- The sparse array of little-endian words of w bytes that listed bytes form. -/
def gather (w : Nat) (l : List (Nat × Byte)) : List (Nat × Nat) :=
  l.foldr (fun e acc =>
    let v := e.2.toNat * 256 ^ (e.1 % w)
    match acc with
    | (k, x) :: r => if k = e.1 / w then (k, x + v) :: r else (e.1 / w, v) :: acc
    | [] => [(e.1 / w, v)]) []

/-- Bytes of n from a that are not zero, by offset. -/
def Mem.listed (m : Mem) (a n : Nat) : List (Nat × Byte) :=
  match m.fill with
  | none => splice 1 0 a n [] m.cells
  | some _ => (numbered (m.read a n)).filter fun e => e.2 != 0

/-- A word or line of `v` bytes that a unit of `u` bytes lies in or holds, one of them poisoned. -/
def regroup (u v : Nat) (l : List Nat) : List Nat :=
  l.foldl (fun o x => (unitsOf v (x * u) u).foldl (fun o z => NatSet.add z o) o) []

/-- What core k's save writes into its slot (Table 14.9): regions of its memory, its banks that are not empty, accumulators and
vector registers, with poison of core memory by landing line (R293). -/
def Core.slotImage (y : Core) (k : Nat) : Mem :=
  let bank := fun (b : Nat) => y.banks.getD b {}
  let regs := (List.range 64).flatMap fun r =>
    let v := Cells.get [] r y.veng.v
    (List.range 128).map fun l => (128 * r + l, (v.getD l (Config.freeReg (coreDraw k) r l)).toNat)
  { cells :=
      spread 4 0x350000 regs <| spread 4 0x310000 (y.acc.map fun e => (e.1, e.2.toNat)) <|
      spread 1 0x308000 (bank 1).scales <| spread 1 0x300000 (bank 0).scales <|
      spread 16 0x280000 (bank 1).elems <| spread 16 0x200000 (bank 0).elems <| y.mem.listed 0 0x200000
    poison := regroup 32 64 y.mem.poison }

/-- The parts of a slot that the save writes: all but the fields of empty banks (R88). -/
def Core.slotParts (y : Core) : List (Nat × Nat) :=
  [(0, 0x200000)] ++
    ((List.range 2).filter fun b => (y.banks.getD b {}).owner.isSome).flatMap (fun b => [(0x200000 + b * 0x80000, 0x80000), (0x300000 + b * 0x8000, 0x8000)]) ++
    [(0x310000, 0x48000)]

/-- Device memory after core k's slot at address a is written. -/
def Mem.landed (m : Mem) (y : Core) (k a : Nat) : Mem :=
  y.slotParts.foldl (fun m p => m.graft (y.slotImage k) 64 (a + p.1) p.1 p.2) m

/-- The control area alone of a saved core: what its slot holds is no longer here. -/
def Core.control (y : Core) : Core :=
  { y with mem := {}, acc := [], veng := { y.veng with v := [] }, banks := y.banks.map fun b => { b with elems := [], scales := [] } }

/-- A saved core as its slot at address a of device memory holds it. -/
def Core.fromSlot (y : Core) (m : Mem) (a : Nat) : Core :=
  { y with
    mem := { cells := m.listed a 0x200000
             poison := (regroup 64 32 m.poison).filterMap fun x => if a / 32 ≤ x ∧ x < a / 32 + 0x10000 then some (x - a / 32) else none }
    acc := (gather 4 (m.listed (a + 0x310000) 0x40000)).map fun e => (e.1, BitVec.ofNat 32 e.2)
    veng := { y.veng with v := (List.range 64).map fun r => (r, (List.range 128).map fun l => BitVec.ofNat 32 (leNat (m.read (a + 0x350000 + 512 * r + 4 * l) 4))) }
    banks := (numbered y.banks).map fun b =>
      if b.2.owner.isNone then b.2
      else { b.2 with elems := gather 16 (m.listed (a + 0x200000 + b.1 * 0x80000) 0x80000)
                      scales := gather 1 (m.listed (a + 0x300000 + b.1 * 0x8000) 0x8000) } }

end Sys2Proof.Machine
end

