-- ==== Sys2Proof/Machine/State.lean ====
section
/-! DEFINITION. The state of the block, as plain data, its reset value, and the reasons a step can stop. Reset is the
instant at which the device is ready in A0 after PERST_N (00 Reset, R435, R436): the Reset columns of spec file 20, and
the values named in notes/assumptions/ where the spec gives none. -/

namespace Sys2Proof.Machine

/-- Packets and pins that leave the part. -/
inductive Tx where
  /-- A write of host memory (13, R342); `ro` Relaxed Ordering allowed; `poison` the EP bit (R294). -/
  | hostWrite (addr : Nat) (data : List Byte) (ro poison : Bool) (pasid : Option Nat)
  /-- A read of host memory. -/
  | hostRead (addr n : Nat) (pasid : Option Nat)
  /-- An MSI-X message (R341). -/
  | msix (vector : Nat)
  /-- A successful completion with data, and its EP bit. -/
  | cpl (data : List Byte) (ep : Bool)
  /-- A successful completion without data. -/
  | cplDone
  /-- Unsupported Request. -/
  | unsupported
  /-- Configuration Request Retry Status (R436). -/
  | retryStatus
  /-- Latency tolerance message; none reports no requirement (R484). -/
  | ltr (ticks : Option Nat)
  /-- Uncorrectable Internal Error through AER (R459). -/
  | aer
  /-- A translation invalidation completed (R481). -/
  | invalDone
  /-- THERMTRIP_N asserted (R430). -/
  | thermtrip
  /-- An SPDM response (R448): transport, response code, payload. -/
  | spdm (t : Transport) (code : Nat) (payload : List Byte)
  /-- A sideband answer; none when the address is not acknowledged (R487). -/
  | sideband (data : Option (List Byte))
  /-- The register selected on the test access port (R488). -/
  | tdo (reg : Nat)
  /-- A Rolig request: port, destination device, address, bytes read or written, atomic add (R402, R405). -/
  | roligRead (port dst addr n : Nat)
  | roligWrite (port dst addr : Nat) (data : List Byte) (poison : Bool)
  | roligAdd (port dst addr : Nat) (inc : Nat)
  /-- Answers to requests of another device. -/
  | roligAck (dst : Nat) (data : List Byte) (poison : Bool)
  | roligRefuse (dst : Nat)
  /-- An AVSBus target in 0.1 mV (R432). -/
  | avs (rail target : Nat)
  /-- Sent on a port that trained: board ID, port number, TOPO, SIZE and TB_MASTER (R412). -/
  | portHello (port boardId settings : Nat)
  /-- A flit sent again (R399). -/
  | replay (port : Nat)
  deriving DecidableEq, Repr

/-- The bytes of payload and the EP bit of a packet that goes to the host (R461); none for what goes elsewhere (entry 96). -/
def Tx.tlp : Tx → Option (Nat × Bool)
  | .hostWrite _ d _ p _ => some (d.length, p)
  | .hostRead _ _ _ => some (0, false)
  | .msix _ => some (4, false)
  | .cpl d p => some (d.length, p)
  | .cplDone => some (0, false)
  | .unsupported => some (0, false)
  | .retryStatus => some (0, false)
  | .ltr _ => some (0, false)
  | .aer => some (0, false)
  | .invalDone => some (0, false)
  | .thermtrip => none
  | .spdm _ _ _ => none
  | .sideband _ => none
  | .tdo _ => none
  | .roligRead _ _ _ _ => none
  | .roligWrite _ _ _ _ _ => none
  | .roligAdd _ _ _ _ => none
  | .roligAck _ _ _ => none
  | .roligRefuse _ => none
  | .avs _ _ => none
  | .portHello _ _ _ => none
  | .replay _ => none

/-- Host window entry (Table 19.2). -/
structure HWin where
  base : Nat
  limit : Nat
  pasid : Nat
  pasidEn : Bool
  prefetch : Bool
  read : Bool
  write : Bool
  deriving DecidableEq, Repr

/-- Context block header (Table 14.1). -/
structure CtxBlock where
  cqBase : Nat
  dbAddr : Nat
  land : List Nat
  nanLine : Nat
  dlmBase : Nat
  hwinAddr : Nat
  cseq0 : Nat
  slice : Nat
  delay : Nat
  dbaOff : Nat
  dbaLen : Nat
  slots : Nat
  bcoreFirst : Nat
  bcoreCount : Nat
  vector : Nat
  count : Nat
  logNc : Nat
  logDlm : Nat
  prio : Nat
  home : Nat
  relaxed : Bool
  bounded : Bool
  nanEn : Bool
  tblRight : Bool
  deriving DecidableEq, Repr

/-- A submission ring (R326, R331, R344, R345): E, the accepted tail, the bad value of the previous poll, the pause and
the RESUME byte it recorded (none until the device has read it). -/
structure Ring where
  en : Bool := false
  codec : Bool := false
  base : Nat := 0
  logN : Nat := 6
  e : Word := 0
  tail : Word := 0
  bad : Option Word := none
  paused : Bool := false
  resumeByte : Option Nat := none
  deriving DecidableEq, Repr

/-- Life of a fetched descriptor: `written t` waits for its record (R340), `trapped` waits for RESUME or DESTROY. -/
inductive Phase where
  | fetched
  | badSeq
  | rejected (code item detail : Nat)
  | checked
  | started
  | written (t : Tick)
  | trapped
  deriving DecidableEq, Repr

/-- Progress of a step list (R233, R259): executions started and done, pin copies done, steps complete,
T_0, steps checked; `moved` counts the rows begun of each execution that is a FERRY, and of a FERRY command as
execution 0; `tiles` holds, for each started execution that has tile commands, those left to place and how many are not done
(R237). -/
structure StepProg where
  start : Tick := 0
  pinned : Bool := false
  started : List Nat := []
  done : List Nat := []
  stepsDone : Nat := 0
  moved : List (Nat × Nat) := []
  tiles : List (Nat × List Nat × Nat) := []
  checkedSteps : List Nat := []
  deadlineChecked : Bool := false
  deriving DecidableEq, Repr

/-- A fetched descriptor that has no final record yet (R328, R332, R339); `copy` counts its bytes in the copy area (R380). -/
structure Cmd where
  uid : Nat
  ring : Nat
  seq : Word
  tag : Word
  opcode : Nat
  irq : Bool
  desc : Nat
  poisoned : Bool
  phase : Phase
  job : Option Job
  banks : List Nat
  copy : Nat := 0
  disarm : Bool := false
  sat : Bool := false
  dlmiss : Bool := false
  recStep : Nat := 0x7FF
  recStage : Nat := 0
  unplaced : List Nat := []
  tilesDone : Nat := 0
  steps : StepProg := {}
  deriving DecidableEq, Repr

/-- A stopped core's slot in the landing (Table 14.9): the state of the core that the save holds. -/
structure Saved where
  core : Nat
  state : Core
  deriving DecidableEq, Repr

/-- What a producing operation reports to the first-NaN trap (Table 2.7). -/
structure NanSite where
  inA : Word := 0
  inB : Word := 0
  inC : Word := 0
  kIndex : Nat := 0xFFFFFFFF
  coord : List Nat := [0, 0, 0, 0]
  core : Nat := 0
  site : Nat
  unit : Nat := 0
  cause : Nat
  deriving DecidableEq, Repr

/-- A NaN that groups in flight produced while their context was being saved (R53): its command and execution. -/
structure LateNan where
  uid : Nat
  exec : Option Nat
  site : NanSite
  deriving DecidableEq, Repr

/-- A T3 slot of a die buffer that is not FREE (R100, R103, R116): number of its fill on its die, and the bytes that it takes. -/
structure BufSlot where
  uid : Nat
  exec : Option Nat
  operand : Operand
  fill : Nat
  die : Nat
  off : Nat
  size : Nat
  deriving DecidableEq, Repr

/-- A context (14). -/
structure Ctx where
  live : Bool := false
  halted : Bool := false
  torn : Bool := false
  preempted : Bool := false
  saving : Bool := false
  blk : Option CtxBlock := none
  hwins : List HWin := []
  rings : List Ring := []
  cmds : List Cmd := []
  fetchPtr : Nat := 0
  nextCseq : Word := 0
  cqHead : Word := 0
  reserved : Nat := 0
  irqCount : Nat := 0
  irqOldest : Option Tick := none
  lineDirty : Bool := false
  armed : Bool := false
  debt : Nat := 0
  sliceStart : Option Tick := none
  sliceLen : Nat := 0
  dseq : Nat := 0
  savedCores : List Saved := []
  lateNan : Option LateNan := none
  bufSlots : List BufSlot := []
  savedAt : Tick := 0
  teardown : Option (Nat × Nat × Option Nat) := none
  dbgStopped : Bool := false
  nextUid : Nat := 0
  deriving DecidableEq, Repr

/-- A running management descriptor (R349). -/
structure MgmtDesc where
  seq : Word
  opcode : Nat
  desc : Nat
  start : Tick
  waiting : Bool := false
  deriving DecidableEq, Repr

/-- The management ring (R348 to R350). -/
structure Mgmt where
  active : Bool := false
  base : Nat := 0
  logN : Nat := 4
  e : Word := 0
  tail : Word := 0
  mseq : Word := 0
  cqHead : Word := 0
  wins : List HWin := []
  fetched : Option MgmtDesc := none
  running : Option MgmtDesc := none
  paused : Bool := false
  resumeByte : Option Nat := none
  bad : Option Word := none
  dropped : Nat := 0
  reserved : Nat := 0
  irq : Bool := false
  lineDirty : Bool := false
  deriving DecidableEq, Repr

/-- The reference picture last decoded (R317): its size and the samples of its planes, by plane, row and place in the row. -/
structure RefPic where
  w : Nat
  h : Nat
  planes : List (List (List Nat))
  deriving DecidableEq, Repr

/-- An open codec session (R307): units run, position in the refresh cycle (R319), frames since the last key picture
(R320), whether units are discarded until a sequence header and a key picture arrive (R316), and the reference picture last decoded. -/
structure Session where
  num : Nat
  ctx : Nat
  ring : Nat
  blk : SessionBlock
  units : Nat := 0
  refresh : Nat := 0
  sinceKey : Nat := 0
  discarding : Bool := false
  ref : Option RefPic := none
  deriving DecidableEq, Repr

/-- A media engine (R305, R427): the unit it runs and since when; idle, since when and how long its last unit ran. -/
structure Engine where
  unit : Option (Nat × Nat) := none
  started : Tick := 0
  idleFrom : Tick := 0
  lastRun : Nat := 0
  deriving DecidableEq, Repr

/-- Staged and live values of the SA registers (R453). `board` holds TB_MASTER, SIZE and TOPO in their places. -/
structure Cfg where
  pwrLimit : Word
  memMap : Word
  bound : Word
  board : Word
  mu : List Word
  scrub : List Word
  deriving DecidableEq, Repr

/-- A pending CFG_APPLY (R456): its instant, the copied set, whether the commit was decided. -/
structure Shadow where
  time : Tick
  cfg : Cfg
  decided : Bool
  deriving DecidableEq, Repr

/-- A pending SNAPSHOT (R463). -/
structure Snap where
  time : Tick
  seq : Word
  groups : Nat
  addr : Nat
  host : Bool
  deriving DecidableEq, Repr

/-- Power manager and timebase (16). Temperatures in 1/8 °C, samples in units of 0.125 W. -/
structure Power where
  cur : Nat := 0
  target : Nat := 0
  exiting : Bool := false
  idleFrom : Tick := 0
  maxDepth : Nat := 3
  latTol : Word := 0x3E8
  powerCap : Nat := 0
  thermalCap : List Nat := [0, 0, 0, 0]
  avsFault : List Nat := []
  avsClearAt : Option Tick := none
  avsHeld : Bool := false
  lastPowerMove : Option Tick := none
  lowFrom : Option Tick := none
  coolFrom : List (Option Tick) := [none, none, none, none]
  samples : List Nat := []
  avg : Nat := 0
  rails : List (Nat × Nat) := [(0, 0), (0, 0), (0, 0), (0, 0), (0, 0), (0, 0)]
  targets : List Nat := [8000, 8000, 8000, 8000, 8000]
  temps : List (Int × Int) := [(0, 0), (0, 0), (0, 0), (0, 0), (0, 0)]
  doubleRefresh : List Bool := [false, false, false, false]
  hot : Bool := false
  lastThrottle : Option Tick := none
  lastThermal : Option Tick := none
  throttlePending : Bool := false
  thermalPending : List Nat := []
  ptmLock : Bool := false
  ptmOffset : Int := 0
  slew : Int := 0
  a4Stop : Option Tick := none
  polls : Nat := 0
  ltrSent : Option Nat := none
  deriving DecidableEq, Repr

/-- Error registers of one die (Tables 11.5 to 11.9), its scrubber, and the scrub positions in the reserved area whose lines hold
poison (R290). -/
structure Die where
  corr : Nat := 0
  uncorr : Nat := 0
  logLo : Word := 0
  logHi : Word := 0
  scrubPos : Nat := 0
  scrubBad : List Nat := []
  deriving DecidableEq, Repr

/-- A Rolig port (Table 15.6); `settings` are the bits [15:6] of LNK_BOARD that the peer sent (R412), `links` its own link groups (entry 94). -/
structure Port where
  state : Nat := 0
  width : Nat := 0
  downs : Nat := 0
  peer : Nat := 0
  peerPort : Nat := 0
  settings : Nat := 0
  links : List (Nat × Bool) := []
  fails : Nat := 0
  replays : Nat := 0
  deriving DecidableEq, Repr

/-- A route register (Table 15.7). -/
structure Route where
  valid : Bool := false
  via : Nat := 0
  ports : Nat := 0
  deriving DecidableEq, Repr

/-- Who asks for something outside: a command, or an execution of its step list; the step and stage that the record of its fault
carries (R258), and whether it is a collective phase (R410). -/
structure Asker where
  ctx : Nat
  uid : Nat
  exec : Option Nat := none
  stage : Option (Nat × Nat) := none
  phase : Bool := false
  deriving DecidableEq, Repr

/-- What an answer brings: bytes for device memory, the acknowledgement of a write, or that of an atomic add (R406). -/
inductive Answer where
  | data | written | added
  deriving DecidableEq, Repr

/-- A request waiting outside: a read of host memory (R480) or a Rolig request (R406), with the device memory that its bytes go to;
`slip` is the slipway that advances when it is the transfer's last, `last` ends the command, `row` counts the rows of the
chain before it (R120). -/
structure Outstanding extends Asker where
  dst : Nat
  n : Nat
  kind : Answer
  dev : Nat
  issued : Tick
  last : Bool
  slip : Option (Nat × Nat) := none
  row : Nat := 0
  deriving DecidableEq, Repr

/-- A write that a core ferry has sent and its home memory has not accepted (R283): command, execution, core, address, bytes, poison,
the output slot that it is the last to drain, and whether it is a tile command's last write. -/
structure Pending where
  ctx : Nat
  uid : Nat
  exec : Option Nat := none
  core : Nat := 0
  out : Option Nat := none
  addr : Nat
  data : List Byte
  poison : Bool
  last : Bool
  deriving DecidableEq, Repr

/-- PCI Express link (19): register fields, DL_Active, streams in Secure state that cover the host. -/
structure Link where
  pcieStatus : Word := 0
  bar2Units : Nat := 0
  dlActive : Bool := true
  ide : List (Nat × Bool) := []
  deriving DecidableEq, Repr

/-- SPDM responder (R448 to R451): the request being signed, the finished response, and chunked transfer. -/
structure Spdm where
  signing : Option (Transport × Nat) := none
  ready : Option (Transport × Nat) := none
  chunk : Option (Transport × Nat × Nat) := none
  session : Option Transport := none
  deriving DecidableEq, Repr

/-- Stages of the whole device (R435, R430, R493): held in reset, booting, recovery, ready, in FLR, stopped. -/
inductive Life where
  | held | booting | ready | flr | recovery | stopped
  deriving DecidableEq, Repr

/-- Boot and security state (17). -/
structure Boot where
  life : Life := .ready
  perstN : Bool := true
  pwrgd : Bool := true
  thermtripN : Bool := true
  stage : Nat := 1
  failA : Nat := 0
  failB : Nat := 0xF
  slot : Bool := false
  cfgGen : Nat := 0
  cfgDefault : Bool := false
  rsaSlot : Nat := 0
  slhSlot : Nat := 0
  pkg : Nat := 0
  fwVersion : Word := 0x01000000
  imageSvn : Nat := 0
  svnTarget : Option Nat := none
  recLo : Word := 0
  recHi : Word := 0
  fired : Bool := false
  heartbeat : Nat := 0
  lastBeat : Tick := 0
  otp : List (Nat × Byte) := []
  /-- The wrapped-key area of the flash (R449): bytes that are not zero. -/
  wrapped : List (Nat × Byte) := []
  boardId : Nat := 0
  sbMode : Bool := false
  ideRequired : Bool := false
  debugPermit : Bool := false
  testPermit : Bool := false
  spdmSideband : Bool := false
  i3cAddr : Nat := 0x30
  bar2Size : Nat := 0
  imageGood : List Bool := [true, true]
  deriving DecidableEq, Repr

/-- Debug and test registers (Tables 18.6 to 18.16). -/
structure Dbg where
  dbgEn : Bool := false
  err : Bool := false
  ctx : Nat := 0
  sel : Word := 0
  tstEn : Bool := false
  handshake : Word := 0
  credit : Word := 0
  delay : Word := 0
  eccLo : Word := 0
  eccHi : Word := 0
  eccCtrl : Word := 0
  eccArmed : Bool := false
  /-- TST_ECC_ADDR as the armed injection took it (R497). -/
  armLo : Word := 0
  armHi : Word := 0
  nan : Word := 0
  nanArmed : Bool := false
  deriving DecidableEq, Repr

/-- Table banks (R157 to R169): the image that each bank of EX2, LG2 and the micro-program store holds (empty list: the
bank is empty), whether a micro-program bank holds the standard library, whose image the spec does not give (R170), and
the active bank of each. After reset bank 0 holds the standard contents and is active (R166). `bad` lists the images in
the reserved area that hold a poisoned line, as 2 × table + bank (R165, R279). -/
structure Tables where
  ex2 : List (List Byte) := [stdEx2, []]
  lg2 : List (List Byte) := [stdLg2, []]
  micro : List (List Byte) := [[], []]
  microStd : List Bool := [true, false]
  active : List Nat := [0, 0, 0]
  bad : List Nat := []
  deriving DecidableEq, Repr

/-- The state of the block. -/
structure State where
  pending : List Instr
  now : Tick
  tbValid : Bool
  free : Nat
  tx : List Tx
  /-- Packets that left before the counters were last reset (R460, R461). -/
  txFrom : Nat
  -- registers of BAR0 kept as such
  cbLo : Word
  cbHi : Word
  opBusy : Bool
  opCtx : Nat
  opResult : Nat
  opHeld : Option Word
  /-- The address of the context block as CTX_OP took it (R497). -/
  opCb : Nat
  mgmtLo : Word
  mgmtHi : Word
  mgmtCtrl : Word
  hostToken : Word
  msix : List (Nat × Word)
  pba : List Nat
  applyTime : Tick
  hiApply : Option Word
  hiTel : Option Word
  cfgClean : Bool
  cfgConflicts : Nat
  inBase : Word
  inLimit : Word
  inPeers : Nat
  inRefused : Nat
  boardStatus : Nat
  synced : Bool
  -- groups
  staged : Cfg
  cfg : Cfg
  shadow : Option Shadow
  snap : Option Snap
  mem : Mem
  dieBuf : List Mem
  hubMem : Mem
  cores : List Core
  tables : Tables
  ctxs : List Ctx
  mgmt : Mgmt
  arb : List (Nat × Nat)
  sessions : List Session
  engines : List Engine
  power : Power
  dies : List Die
  ports : List Port
  routes : List Route
  reads : List Outstanding
  remote : List Outstanding
  writes : List Pending
  link : Link
  spdm : Spdm
  boot : Boot
  dbg : Dbg
  jtag : Nat
  counters : List (Nat × Nat)
  deriving DecidableEq, Repr

/-- Why a step stops with a fault. -/
inductive Fault where
  /-- MEMORY_READ of an address that its memory does not have (R280, Table 11.4): no agent of the part can issue it.
  Safe: the model stops where the part has no such access. -/
  | absentAddress
  deriving DecidableEq, Repr

/-- Why a step refuses a command. -/
inductive Refusal where
  /-- An arm of the dispatcher whose command has no meaning yet. Safe. -/
  | notModelled (mnemonic : String)
  deriving DecidableEq, Repr

/-- The Reset column of the SA registers (Tables 16.11, 11.2, 14.12, 15.3, 3.3, 11.5). -/
def Cfg.reset : Cfg :=
  { pwrLimit := 0xC80, memMap := 0, bound := 0, board := 0, mu := [0, 0, 0, 0], scrub := [0x18, 0x18, 0x18, 0x18] }

/-- OTP at reset (R443 to R445): generation 0 written with I3C address 0x30, its CRC-32, and slot 0 of each scheme
programmed. DESIGN CHOICE, entry 6. -/
def Boot.resetOtp : List (Nat × Byte) :=
  [(0, 0x01#8), (9, 0x30#8), (508, 0x56#8), (509, 0x62#8), (510, 0xF1#8), (511, 0x3C#8), (2096, 0xFF#8), (2352, 0xFF#8)]

/-- The machine right after reset: ready in A0 (00, R436). -/
def State.reset : State where
  pending := []
  now := 0
  tbValid := true
  free := 0
  tx := []
  txFrom := 0
  cbLo := 0
  cbHi := 0
  opBusy := false
  opCtx := 0
  opResult := 0
  opHeld := none
  opCb := 0
  mgmtLo := 0
  mgmtHi := 0
  mgmtCtrl := 0
  hostToken := 0
  msix := []
  pba := []
  applyTime := 0
  hiApply := none
  hiTel := none
  cfgClean := false
  cfgConflicts := 0
  inBase := 0
  inLimit := 0
  inPeers := 0
  inRefused := 0
  boardStatus := 0
  synced := false
  staged := Cfg.reset
  cfg := Cfg.reset
  shadow := none
  snap := none
  mem := {}
  dieBuf := [{}, {}, {}, {}]
  hubMem := {}
  cores := List.replicate 256 {}
  tables := {}
  ctxs := List.replicate 64 {}
  mgmt := {}
  arb := []
  sessions := []
  engines := List.replicate 36 {}
  power := {}
  dies := [{}, {}, {}, {}]
  ports := List.replicate 12 {}
  routes := List.replicate 16 {}
  reads := []
  remote := []
  writes := []
  link := {}
  spdm := {}
  boot := { otp := Boot.resetOtp }
  dbg := {}
  jtag := 0
  counters := []

end Sys2Proof.Machine
end

