-- ==== Sys2Proof/Machine/Ops.lean ====
section
/-! DEFINITION. The shared operations over the state: who may act, memory with errors and injections, packets,
messages, completion records and status lines (13), the save of a context (14 R378), teardown (14 R385), the NaN trap
record (02 R51) and deadline-miss records (14 R394). -/

namespace Sys2Proof.Machine

/-! ### Access -/

def State.ctx (s : State) (c : Nat) : Ctx := s.ctxs.getD c {}
def State.setCtx (s : State) (c : Nat) (x : Ctx) : State := { s with ctxs := s.ctxs.set c x }
def State.core (s : State) (k : Nat) : Core := s.cores.getD k {}
def State.setCore (s : State) (k : Nat) (x : Core) : State := { s with cores := s.cores.set k x }
def State.die (s : State) (d : Nat) : Die := s.dies.getD d {}
def State.setDie (s : State) (d : Nat) (x : Die) : State := { s with dies := s.dies.set d x }

/-- Sends a packet. -/
def State.send (s : State) (p : Tx) : State := { s with tx := s.tx ++ [p] }

/-- Takes a draw number for a free value (entry 2). -/
def State.drawn (s : State) : State := { s with free := s.free + 1 }

/-- Adds n to the counter at a catalogue index, modulo 2^64 (R460, R461). -/
def State.count (s : State) (i n : Nat) : State :=
  { s with counters := Cells.set 0 i ((Cells.get 0 i s.counters + n) % 2 ^ 64) s.counters }

/-- A counter as it stands: those of the packets sent follow from the packets (R461). -/
def State.counterNow (s : State) (i : Nat) : Nat :=
  let sent := (s.tx.drop s.txFrom).filterMap Tx.tlp
  (Cells.get 0 i s.counters +
    (if i = 9577 then sent.length
     else if i = 9579 then sent.foldl (fun n p => n + p.1) 0
     else if i = 9583 then (sent.filter fun p => p.2).length
     else 0)) % 2 ^ 64

/-- The control section runs: ready, not fired (R436, R459, R430). -/
def State.up (s : State) : Bool := s.boot.life == .ready && !s.boot.fired

/-- A stream that covers the host is in the Secure state (R452). -/
def State.ideSecure (s : State) : Bool := s.link.ide.any (fun x => x.2)

/-- Requests to host memory may be sent (R347, R452, R459). -/
def State.hostUp (s : State) : Bool := s.up && s.link.dlActive && (!s.boot.ideRequired || s.ideSecure)

/-- The device can dispatch: in A0 and not leaving another state (R418, R422). -/
def State.awake (s : State) : Bool := s.up && s.power.cur == 0 && !s.power.exiting

/-- Sends a packet to the host when requests may be sent. -/
def State.toHost (s : State) (p : Tx) : State := if s.hostUp then s.send p else s

/-- A context that owns work: it exists and is not torn down. -/
def Ctx.alive (x : Ctx) : Bool := x.live && !x.torn

/-- A context whose commands may advance: alive, not halted, pre-empted or being stopped by debug. -/
def Ctx.runs (x : Ctx) : Bool := x.alive && !x.halted && !x.saving && !x.dbgStopped

/-- A bounded context (R388). -/
def Ctx.bounded (x : Ctx) : Bool :=
  match x.blk with
  | some b => b.bounded
  | none => false

/-- Relaxed ordering (R357). -/
def Ctx.relaxed (x : Ctx) : Bool :=
  match x.blk with
  | some b => b.relaxed
  | none => false

/-- The i-th fetched descriptor. -/
def Ctx.cmd? (x : Ctx) (i : Nat) : Option Cmd := x.cmds[i]?

/-- Replaces the command with the same uid. -/
def Ctx.putCmd (x : Ctx) (m : Cmd) : Ctx := { x with cmds := x.cmds.map fun y => if y.uid = m.uid then m else y }

/-- The command with a uid. -/
def Ctx.byUid (x : Ctx) (u : Nat) : Option Cmd := x.cmds.find? (fun y => y.uid == u)

/-- Ring r of a context. -/
def Ctx.ring (x : Ctx) (r : Nat) : Ring := x.rings.getD r {}
def Ctx.setRing (x : Ctx) (r : Nat) (y : Ring) : Ctx := { x with rings := x.rings.set r y }

/-! ### Wake events (R422) -/

/-- A wake event takes the device to A0: from a deeper state its exit starts. An access counts against idleness. -/
def State.wake (s : State) : State :=
  if s.power.cur = 0 then { s with power := { s.power with idleFrom := s.now } }
  else if s.power.exiting then s
  else
    let s := s.count 9980 1
    { s with power := { s.power with exiting := true, idleFrom := s.now } }

/-! ### Device addresses (R281) -/

/-- Die of a device address and offset within the die's share. -/
def shareOf (mode a : Nat) : Nat × Nat :=
  match mode with
  | 0 => (a / 0x17E8000000, a % 0x17E8000000)
  | 1 => (a / 4096 % 4, a / 16384 * 4096 + a % 4096)
  | _ => (a / 2097152 % 4, a / 8388608 * 2097152 + a % 2097152)

/-- The device address of an offset in a die's share. -/
def addrOf (mode die o : Nat) : Nat :=
  match mode with
  | 0 => die * 0x17E8000000 + o
  | 1 => o / 4096 * 16384 + die * 4096 + o % 4096
  | _ => o / 2097152 * 8388608 + die * 2097152 + o % 2097152

/-- Die, stack, channel and channel offset of a device address. -/
def homeOf (mode a : Nat) : Nat × Nat × Nat × Nat :=
  let (d, o) := shareOf mode a
  let u := o / 256
  (d, d * 6 + u % 6, u / 6 % 32, u / 192 * 256 + o % 256)

/-- The home of an address under the live interleave. -/
def State.home (s : State) (a : Nat) : Nat × Nat × Nat × Nat := homeOf (s.cfg.memMap.toNat % 4) a

/-! ### Links inside the package (R14, R461) -/

/-- Link direction from one die to its neighbour, 4 standing for the hub die: bridges 0–1, 0–2, 1–3 and 2–3, then hub links. -/
def linkDir (a b : Nat) : Nat :=
  if a = 4 then 8 + 2 * b
  else if b = 4 then 9 + 2 * a
  else 2 * [(0, 1), (0, 2), (1, 3), (2, 3)].idxOf (min a b, max a b) + (if a < b then 0 else 1)

/-- Link directions that traffic crosses: between diagonal dies the quadrant column changes first (R14). -/
def route (a b : Nat) : List Nat :=
  if a = b then []
  else if a = 4 ∨ b = 4 ∨ a + b ≠ 3 then [linkDir a b]
  else
    let mid := if a % 2 = 0 then a + 1 else a - 1
    [linkDir a mid, linkDir mid b]

/-- n bytes go from die a to die b. -/
def State.carry (s : State) (a b n : Nat) : State := (route a b).foldl (fun s d => s.count (9328 + 2 * d) n) s

/-- A range of device memory by the 256-byte granules that a channel holds whole (R281): home die, bytes, the first counter of the
channel, lines. -/
def State.homePieces (s : State) (a n : Nat) : List (Nat × Nat × Nat × Nat) :=
  (List.range (if n = 0 then 0 else (a + n - 1) / 256 + 1 - a / 256)).map fun i =>
    let lo := max a (256 * (a / 256 + i))
    let hi := min (a + n) (256 * (a / 256 + i + 1))
    let h := s.home lo
    (h.1, hi - lo, 4720 + 6 * (h.2.1 * 32 + h.2.2.1), (hi - 1) / 64 + 1 - lo / 64)

/-- Ranges of device memory are read and go to a die, 4 standing for the hub die. -/
def State.carryFrom (s : State) (rs : List (Nat × Nat)) (die : Nat) : State :=
  rs.foldl (fun s r => (s.homePieces r.1 r.2).foldl (fun s x => (s.carry x.1 die x.2.1).count x.2.2.1 x.2.2.2) s) s

/-- Bytes of a die are written to a range of device memory. -/
def State.carryTo (s : State) (die a n : Nat) : State :=
  (s.homePieces a n).foldl (fun s x => (s.carry die x.1 x.2.1).count (x.2.2.1 + 1) x.2.2.2) s

/-- One of the eight die ferries of a die moves n bytes; which one is open (entry 92). -/
def State.dieFerry (s : State) (die n : Nat) : State :=
  let f := 4608 + 3 * (8 * die + Config.freeNat s.free % 8)
  ((s.count f n).count (f + 1) (cdiv n 64)).drawn

/-- Bytes of one range of device memory go to another, each from its home to its new home (R14). -/
def State.carryCopy (s : State) (a b n : Nat) : State :=
  ((s.homePieces a n).foldl (fun (acc : State × Nat) p =>
    ((acc.1.homePieces (b + acc.2) p.2.1).foldl (fun s q => (s.carry p.1 q.1 q.2.1).count (q.2.2.1 + 1) q.2.2.2) (acc.1.count p.2.2.1 p.2.2.2),
      acc.2 + p.2.1)) (s, 0)).1

/-- A packet of the host arrives, with n bytes of payload (R461). -/
def State.received (s : State) (n : Nat) : State := if s.up then (s.count 9576 1).count 9578 n else s

/-- A read of host memory is answered; one that failed counts nothing (entry 96). -/
def State.fetched (s : State) : HostData → State
  | .ok d _ => s.received d.length
  | .failed => s

/-! ### Host writes -/

/-- A write of the part's own structures to host memory: never relaxed, no PASID (R342, R481). -/
def State.hostStruct (s : State) (addr : Nat) (data : List Byte) : State :=
  s.toHost (.hostWrite addr data false false none)

/-- Word i of the MSI-X table (R495): vector control words reset to masked. -/
def State.msixWord (s : State) (i : Nat) : Word := Cells.get (if i % 4 = 3 then 1 else 0) i s.msix

/-- Sends an MSI-X message, or sets its pending bit while masked (R341, R495). -/
def State.sendMsix (s : State) (v : Nat) : State :=
  if !s.hostUp then s
  else if (s.msixWord (v * 4 + 3)).toNat % 2 = 1 then { s with pba := NatSet.add v s.pba }
  else (s.send (.msix v)).count 9582 1

/-! ### Management messages (R350, Table 13.9) -/

/-- The management status line (R348, Table 13.8). -/
def State.mgmtLine (s : State) : State :=
  let g := s.mgmt
  let v := s.now.toNat * 2 ^ 448 + b2n g.active * 2 ^ 328 + b2n (g.paused && g.resumeByte.isSome) * 2 ^ 320 + g.cqHead.toNat * 2 ^ 288 + g.mseq.toNat * 2 ^ 256 + g.e.toNat
  { s.hostStruct (g.base + 64) (leBytes 64 v) with mgmt := { s.mgmt with lineDirty := false } }

/-- The 256 bits of a message (Table 13.9). -/
def msgBits (mseq ref : Nat) (time : Nat) (kind ctx ring : Nat) (mg : Bool) (dropped code detail : Nat) : Nat :=
  mseq * 2 ^ 224 + ref * 2 ^ 192 + time * 2 ^ 128 + kind * 2 ^ 120 + ctx * 2 ^ 114 + ring * 2 ^ 111 + b2n mg * 2 ^ 110 +
    dropped * 2 ^ 96 + code * 2 ^ 80 + detail

/-- Writes a message into its slot, then the status line, then the interrupt (R341, R350). -/
def State.putMessage (s : State) (kind ref ctx ring : Nat) (mg : Bool) (code detail : Nat) : State :=
  let g := s.mgmt
  let n := 2 ^ g.logN
  let v := msgBits g.mseq.toNat (ref % 2 ^ 32) s.now.toNat kind ctx ring mg (min g.dropped 16383) code (detail % 2 ^ 64)
  let s := s.hostStruct (g.base + 4096 + 64 * n + 32 * (g.mseq.toNat % n)) (leBytes 32 v)
  let s := { s with mgmt := { g with mseq := g.mseq + 1, dropped := 0 } }
  s.mgmtLine.sendMsix (bits s.mgmtCtrl.toNat 18 8)

/-- Free message slots beyond the reserved ones. -/
def Mgmt.room (g : Mgmt) : Bool := decide ((g.mseq - g.cqHead).toNat + g.reserved < 2 ^ g.logN)

/-- A message of an event: dropped and counted when the ring is full (R350). -/
def State.message (s : State) (kind ref ctx ring : Nat) (mg : Bool) (code detail : Nat) : State :=
  if !s.mgmt.active then s
  else if s.mgmt.room then s.putMessage kind ref ctx ring mg code detail
  else { s with mgmt := { s.mgmt with dropped := min (s.mgmt.dropped + 1) 16383 } }

/-- MGMT_DONE of the running descriptor, in its reserved slot (R349, R350). -/
def State.mgmtDone (s : State) (code detail : Nat) : State :=
  match s.mgmt.running with
  | none => s
  | some d =>
    let s := { s with mgmt := { s.mgmt with running := none, reserved := s.mgmt.reserved - 1 } }
    s.putMessage 0x01 d.seq.toNat 0 0 false code detail

/-! ### Memory errors (R287, R291, R297, R298, R351) -/

/-- Adds a corrected event of a die, saturating. -/
def State.corrected (s : State) (d : Nat) : State :=
  s.setDie d { s.die d with corr := min ((s.die d).corr + 1) 0xFFFF }

/-- The log words of an event (Tables 11.8, 11.9). -/
def logWords (source addr stack ch core : Nat) (ctx : Option Nat) : Word × Word :=
  let lo := addr % 2 ^ 32 / 64 * 64 + source * 8 + 1
  let hi := stack * 2 ^ 27 + ch * 2 ^ 22 + (ctx.getD 0) * 2 ^ 16 + b2n ctx.isSome * 2 ^ 15 + core * 2 ^ 7 + addr / 2 ^ 32 % 128
  (BitVec.ofNat 32 lo, BitVec.ofNat 32 hi)

/-- An uncorrectable event or parity error: counted, logged when VALID is 0, and reported (R297, R298, R351). -/
def State.memError (s : State) (d source addr stack ch core : Nat) (ctx : Option Nat) : State :=
  let y := s.die d
  let w := logWords source addr stack ch core ctx
  let y := { y with uncorr := min (y.uncorr + 1) 0xFFFF }
  let y := if y.logLo.toNat % 2 = 1 then y else { y with logLo := w.1, logHi := w.2 }
  let s := s.setDie d y
  s.message 0x02 0 (ctx.getD 0) (d % 4) false 0 (y.logHi.toNat * 2 ^ 32 + y.logLo.toNat)

/-! ### Reads of protected units (R284 to R287, R291) -/

/-- What a read of a unit with n bad symbols finds (R284 to R287, R291). -/
inductive Found where
  | good
  | fixed
  | bad
  | wrong (report : Bool)
  deriving DecidableEq, Repr

/-- RS(72,64) lines correct 2 symbols and detect 3 or 4; RS(36,32) words correct 2; the rest may be found bad, miscorrected, or in
a word delivered without report. -/
def found (line : Bool) (n draw : Nat) : Found :=
  if n = 0 then .good
  else if n ≤ 2 then .fixed
  else if line && decide (n ≤ 4) then .bad
  else if !Config.miscorrected (2 * draw) then .bad
  else .wrong (line || Config.miscorrected (2 * draw + 1))

/-- Unit of a memory in bytes, and whether it exists at an address (R280, Table 11.4). -/
def memUnit : MemTarget → Nat
  | .dram => 64
  | .dieBuf _ => 64
  | .core _ => 32
  | .hub => 32

def memHas (t : MemTarget) (a : Nat) : Bool :=
  match t with
  | .dram => decide (a < devTop)
  | .dieBuf d => decide (d < 4) && decide (a < 0x2000000)
  | .core k => decide (k < 256) && decide (a < 0x200000)
  | .hub => true

/-- The memory itself. -/
def State.memOf (s : State) : MemTarget → Mem
  | .dram => s.mem
  | .dieBuf d => s.dieBuf.getD d {}
  | .core k => (s.core k).mem
  | .hub => s.hubMem

def State.setMem (s : State) (t : MemTarget) (m : Mem) : State :=
  match t with
  | .dram => { s with mem := m }
  | .dieBuf d => { s with dieBuf := s.dieBuf.set d m }
  | .core k => s.setCore k { s.core k with mem := m }
  | .hub => { s with hubMem := m }

/-- Die that counts the events of a memory (R297). -/
def State.countDie (s : State) (t : MemTarget) (a : Nat) : Nat :=
  match t with
  | .dram => (s.home a).1
  | .dieBuf d => d
  | .core k => k / 64
  | .hub => 0

/-- Per-unit counter of corrected (j = 2) or uncorrectable (j = 3) events (Table 18.1). -/
def State.errCounter (s : State) (t : MemTarget) (a j : Nat) : State :=
  match t with
  | .dram => let h := s.home a; s.count (4720 + 6 * (h.2.1 * 32 + h.2.2.1) + j) 1
  | .dieBuf d => s.count (4704 + 4 * d + j) 1
  | _ => s

/-- The event of an uncorrectable unit: counted, logged, reported (R297, R298, R351). -/
def State.badEvent (s : State) (t : MemTarget) (a : Nat) (ctx : Option Nat) : State :=
  let s := s.errCounter t a 3
  match t with
  | .dram => let h := s.home a; s.memError h.1 0 a h.2.1 h.2.2.1 0 ctx
  | .dieBuf d => s.memError d 2 a 0 0 0 ctx
  | .core k => s.memError (k / 64) 3 a 0 0 k ctx
  | .hub => s.memError 0 3 a 0 0 0xFF ctx

/-- A read of unit x (R286, R287, R291) with nsym further bad symbols: it is corrected and written back, or poisoned; `victim` is
the context that the event tears down. A poisoned unit stays so, and is found uncorrectable again with more than 2 bad symbols. -/
def State.unitRead (s : State) (m : MemTarget) (x nsym : Nat) (victim : Option Nat) : State :=
  let u := memUnit m
  let mem := s.memOf m
  let n := Cells.get 0 x mem.latent + nsym
  let clean := { mem with latent := Cells.set 0 x 0 mem.latent }
  let victim := match victim with | some c => if (s.ctx c).alive then some c else none | none => none
  if NatSet.mem x mem.poison then (if n ≤ 2 then s else (s.setMem m clean).badEvent m (x * u) victim)
  else match found (u == 64) n s.free with
    | .good => s
    | .fixed => ((s.setMem m clean).errCounter m (x * u) 2).corrected (s.countDie m (x * u))
    | .bad => ({ s.setMem m { clean with poison := NatSet.add x clean.poison } with free := s.free + 1 }).badEvent m (x * u) victim
    | .wrong report =>
      let s := { s.setMem m (clean.havoc u (x * u) u s.free) with free := s.free + 1 }
      if report then (s.errCounter m (x * u) 2).corrected (s.countDie m (x * u)) else s

/-- Units of a memory among some ranges that hold bad symbols are read, before their data goes anywhere; `victim` as above. -/
def State.settleIn (s : State) (m : MemTarget) (rs : List (Nat × Nat)) (victim : Option Nat) : State :=
  let u := memUnit m
  ((s.memOf m).latent.filter fun x => rs.any fun r => overlap (u * x.1) u r.1 r.2).foldl (fun s x => s.unitRead m x.1 0 victim) s

/-- The same of device memory. -/
def State.settle (s : State) (rs : List (Nat × Nat)) (victim : Option Nat := none) : State := s.settleIn .dram rs victim

/-! ### Writes of device memory, die buffers and core memory -/

/-- The armed ECC injection names unit x of memory `target` (0 device line, 1 die-buffer line, 2 core word), in die or
core `who`, by the address that stood when it was armed (R475, R497, Table 18.14). -/
def State.eccHits (s : State) (target who : Nat) (u a n : Nat) : Option Nat :=
  let at_ := s.dbg.armHi.toNat % 128 * 2 ^ 32 + s.dbg.armLo.toNat
  let off := s.dbg.armLo.toNat
  let x := if target = 0 then at_ / u else off / u
  let whoOk := if target = 0 then true else if target = 1 then s.dbg.armHi.toNat % 4 == who else s.dbg.armHi.toNat % 256 == who
  if s.dbg.tstEn && s.dbg.eccArmed && bits s.dbg.eccCtrl.toNat 16 15 == target && whoOk && (unitsOf u a n).any (· == x)
  then some x else none

/-- Symbols that the injection inverts. -/
def State.eccSyms (s : State) : Nat := bits s.dbg.eccCtrl.toNat 7 4

/-- A write of a memory: units that it covers in part are read first (R286), and an armed injection takes effect (R475). -/
def State.memWrite (s : State) (m : MemTarget) (target who a : Nat) (bs : List Byte) (pz : Bool) : State :=
  let u := memUnit m
  let s := if (s.memOf m).latent.isEmpty then s else s.settleIn m ((partUnits u a bs.length).map fun x => (x * u, u)) none
  let w := (s.memOf m).write u a bs pz
  match s.eccHits target who u a bs.length with
  | none => s.setMem m w
  | some x => { s.setMem m { w with latent := Cells.set 0 x s.eccSyms w.latent } with dbg := { s.dbg with eccArmed := false } }

/-- A write of device memory reaches its home (R283, R292). -/
def State.devWrite (s : State) (a : Nat) (bs : List Byte) (pz : Bool) : State := s.memWrite .dram 0 0 a bs pz

/-- The hub die writes device memory (R14, R283). -/
def State.hubWrite (s : State) (a : Nat) (bs : List Byte) (pz : Bool) : State := (s.carryTo 4 a bs.length).devWrite a bs pz

/-- A write of a die buffer. -/
def State.bufWrite (s : State) (d a : Nat) (bs : List Byte) (pz : Bool) : State := s.memWrite (.dieBuf d) 1 d a bs pz

/-- A write of core memory, in 32-byte words. -/
def State.l1Write (s : State) (k a : Nat) (bs : List Byte) (pz : Bool) : State := s.memWrite (.core k) 2 k a bs pz

/-- Undefined contents over ranges of device memory, with fresh free bytes (R385, R282). -/
def State.havoc (s : State) (rs : List (Nat × Nat)) : State :=
  rs.foldl (fun s r => { s with mem := s.mem.havoc 64 r.1 r.2 s.free, free := s.free + 1 }) s

/-- A 32-bit counter at an address of device memory, and its advance (R360, R361). -/
def State.slip (s : State) (a : Nat) : Word := BitVec.ofNat 32 (leNat (s.mem.read a 4))
def State.slipAdd (s : State) (a inc : Nat) : State :=
  s.hubWrite a (leBytes 4 ((s.slip a).toNat + inc)) false

/-! ### Completion records and status lines (R340, R341, R346) -/

/-- STATE of the status line (Table 13.8). -/
def Ctx.stateBits (x : Ctx) : Nat :=
  b2n x.live + 2 * b2n x.halted + 4 * b2n x.torn + 8 * b2n x.preempted

/-- A status line shows a ring paused once its RESUME byte is recorded (R345). -/
def Ring.shownPaused (y : Ring) : Bool := y.paused && y.resumeByte.isSome

/-- The 512 bits of a context's status line. -/
def Ctx.line (x : Ctx) (now : Tick) : Nat :=
  now.toNat * 2 ^ 448 + x.stateBits * 2 ^ 328 +
    ((List.range 8).foldl (fun n r => n + b2n (x.ring r).shownPaused * 2 ^ r) 0) * 2 ^ 320 +
    x.cqHead.toNat * 2 ^ 288 + x.nextCseq.toNat * 2 ^ 256 +
    (List.range 8).foldl (fun n r => n + (x.ring r).e.toNat * 2 ^ (32 * r)) 0

/-- Writes the status line of a context. -/
def State.writeLine (s : State) (c : Nat) : State :=
  let x := s.ctx c
  match x.blk with
  | none => s
  | some b => (s.hostStruct b.cqBase (leBytes 64 (x.line s.now))).setCtx c { x with lineDirty := false }

/-- The interrupt test of R341. -/
def State.considerIrq (s : State) (c : Nat) : State :=
  let x := s.ctx c
  match x.blk, x.irqOldest with
  | some b, some t =>
    if b.count ≤ x.irqCount || decide (b.delay ≤ s.now.toNat - t.toNat) then
      (s.setCtx c { x with irqCount := 0, irqOldest := none }).sendMsix b.vector
    else s
  | _, _ => s

/-- The 256 bits of a completion record (Table 13.6). -/
def recordBits (cseq seq : Word) (time : Tick) (m : Cmd) (status err item detail : Nat) : Nat :=
  cseq.toNat * 2 ^ 224 + seq.toNat * 2 ^ 192 + time.toNat * 2 ^ 128 + m.tag.toNat * 2 ^ 96 + m.opcode * 2 ^ 88 +
    status * 2 ^ 80 + err * 2 ^ 64 + item * 2 ^ 48 + detail * 2 ^ 40 + m.recStep * 2 ^ 29 + m.recStage * 2 ^ 18 +
    m.ring * 2 ^ 15 + b2n m.sat * 2 ^ 14 + b2n m.dlmiss * 2 ^ 13

/-- Writes one record into the next slot: CSEQ in order, the reservation used, the interrupt counted (R339 to R341). -/
def State.putRecord (s : State) (c : Nat) (m : Cmd) (status err item detail : Nat) (time : Tick) : State :=
  let x := s.ctx c
  match x.blk with
  | none => s
  | some b =>
    let slot := x.nextCseq.toNat % 2 ^ b.logNc
    let s := s.hostStruct (b.cqBase + 64 + 32 * slot) (leBytes 32 (recordBits x.nextCseq m.seq time m status err item detail))
    s.setCtx c { x with
      nextCseq := x.nextCseq + 1
      reserved := x.reserved - 1
      irqCount := if m.irq then x.irqCount + 1 else x.irqCount
      irqOldest := if m.irq && x.irqOldest.isNone then some s.now else x.irqOldest }

/-- A group of records is followed by the status line and then the interrupt test. -/
def State.afterRecords (s : State) (c : Nat) : State := (s.writeLine c).considerIrq c

/-- Free completion slots of a context (R339). -/
def Ctx.slotFree (x : Ctx) : Bool :=
  match x.blk with
  | none => false
  | some b => decide ((x.nextCseq - x.cqHead).toNat + x.reserved < 2 ^ b.logNc)

/-! ### Cores of a context -/

/-- A tile command of context c. -/
def ofCtx (c : Nat) (t : Option TileCmd) : Bool := match t with | some x => x.ctx == c | none => false

/-- Entries owned by a context become empty (R64). -/
def Bank.drop (c : Nat) (b : Bank) : Bank := if b.owner = some c then {} else b

/-- Which of the core's tile commands a mark names: 0 the one that drains, 1 the running, 2 the waiting one. -/
def Core.tile (y : Core) (who : Nat) : Option TileCmd :=
  match who with
  | 0 => y.prev
  | 1 => y.run
  | _ => y.wait

/-- Takes everything of tile command `who` off the core: its slots, groups, rows, runs and areas (R64, R90, R116). -/
def Core.strip (y : Core) (who : Nat) : Core :=
  let y := { y with
    slots := y.slots.filter fun q => q.who != who
    pipe := y.pipe.filter fun i => i.who != who
    final := y.final.filter fun f => f.who != who
    areas := y.areas.filter fun a => a.2 != who
    veng := { y.veng with queue := y.veng.queue.filter fun r => r.who != who
                          cur := match y.veng.cur with | some r => if r.who = who then none else some r | none => none } }
  match who with
  | 0 => { y with prev := none, prevAtt := {} }
  | 1 => { y with run := none, nextFill := 0, pos := {}, scales := [], area := none, stored := 0, att := {}, outTile := [], statTile := [],
                  dbgStop := false, stepLeft := none, lateWaits := 0, dlm := none }
  | _ => { y with wait := none, aheadFill := 0 }

/-- The waiting tile command begins to run (R238): what it filled ahead is its own now. -/
def Core.promote (y : Core) : Core :=
  match y.run, y.wait with
  | none, some t =>
    { y with run := some t, wait := none, nextFill := y.aheadFill, aheadFill := 0, pos := { base := y.pos.base }, stored := 0, att := {}
             slots := y.slots.map fun q => if q.who = 2 then { q with who := 1 } else q
             veng := { y.veng with queue := y.veng.queue.map (fun r => if r.who = 2 then { r with who := 1 } else r)
                                   cur := y.veng.cur.map fun r => if r.who = 2 then { r with who := 1 } else r } }
  | _, _ => y

/-- The running tile command has issued its last group and only drains (R62, R70); the waiting one may issue. -/
def Core.retire (y : Core) : Core :=
  let f := fun (w : Nat) => if w = 1 then 0 else w
  { y with
    prev := y.run, prevAtt := y.att, run := none, nextFill := 0, scales := [], area := none, lateWaits := 0, dlm := none
    slots := y.slots.map fun q => { q with who := f q.who }
    pipe := y.pipe.map fun i => { i with who := f i.who }
    final := y.final.map fun x => { x with who := f x.who }
    areas := y.areas.map fun a => (a.1, f a.2)
    veng := { y.veng with queue := y.veng.queue.map (fun r => { r with who := f r.who }), cur := y.veng.cur.map fun r => { r with who := f r.who } } }

/-- The core after every tile command of context c has left it; one of another context that waited begins. -/
def Core.leave (c : Nat) (y : Core) : Core :=
  let y := { y with banks := y.banks.map (Bank.drop c), slots := y.slots.filter fun q => q.who != 3 + c }
  let y := if ofCtx c y.prev then y.strip 0 else y
  let y := if ofCtx c y.wait then y.strip 2 else y
  if ofCtx c y.run then (y.strip 1).promote else y

/-- Does a core run a tile command of c, be it that it only drains. -/
def Core.runsFor (y : Core) (c : Nat) : Bool := ofCtx c y.run || ofCtx c y.prev
def Core.waitsFor (y : Core) (c : Nat) : Bool := ofCtx c y.wait

/-- A step list of the context holds pins (R252). -/
def Ctx.holdsPins (x : Ctx) : Bool :=
  x.cmds.any fun (m : Cmd) => m.steps.pinned && match m.job with | some (.steps l) => !l.pins.isEmpty | _ => false

/-- A context holds a core (R375). -/
def State.holds (s : State) (c : Nat) : Bool := s.cores.any fun y => y.runsFor c || y.waitsFor c

/-! ### Saving a context (R378, R379, R88, R120, R150) -/

/-- Is a byte inside one of the regions. -/
def inRegions (rs : List (Nat × Nat)) (a : Nat) : Bool := rs.any fun r => decide (r.1 ≤ a) && decide (a < r.1 + r.2)

/-- What the save keeps of a stopped core whose groups have all updated (R87, R88, R120): named regions of core memory, banks of
the context without their residence (R64), its tile commands; another context's are not among them, the ramp starts from stopped. -/
def Core.saveImage (y : Core) (c : Nat) : Core :=
  let rs := (y.prev.toList ++ y.run.toList).flatMap fun t => t.regions
  { y with
    ramp := .stopped
    banks := y.banks.map fun b => if b.owner = some c then { b with resident := false } else {}
    mem := { cells := (y.mem.listed 0 0x200000).filter fun e => inRegions rs e.1
             poison := y.mem.poison.filter fun x => rs.any fun r => overlap (32 * x) 32 r.1 r.2 }
    dbgStop := false
    stepLeft := none }

/-- Address of the slot of core k in the landing area of its die (R378). -/
def Ctx.slotAddr (x : Ctx) (k : Nat) : Nat := (match x.blk with | some b => b.land.getD (k / 64) 0 | none => 0) + slotOffset k

/-- Core k writes its slot, from its die to the landing's home. -/
def State.landCore (s : State) (x : Ctx) (k : Nat) (y : Core) : State :=
  { s.carryTo (k / 64) (x.slotAddr k) slotBytes with mem := s.mem.landed y k (x.slotAddr k) }

/-- The core with the tile commands of context c alone, but for a waiting one. -/
def Core.only (y : Core) (c : Nat) : Core :=
  let y := if ofCtx c y.prev then y else y.strip 0
  let y := (if ofCtx c y.run then y else y.strip 1).strip 2
  { y with slots := y.slots.filter fun q => decide (q.who < 3) }

/-- Tile command `num` of a command or of an execution is to place again. -/
def Cmd.unplace (m : Cmd) (t : TileCmd) : Cmd :=
  match t.exec with
  | none => { m with unplaced := NatSet.add t.num m.unplaced }
  | some e => { m with steps := { m.steps with tiles := m.steps.tiles.map fun x => if x.1 = e then (e, NatSet.add t.num x.2.1, x.2.2) else x } }

/-- Tile commands that wait on a core are withdrawn, unplaced. -/
def State.withdraw (s : State) (c : Nat) : State :=
  let ws := s.cores.filterMap fun y => match y.wait with | some t => (if t.ctx = c then some t else none) | none => none
  let x := s.ctx c
  s.setCtx c { x with cmds := x.cmds.map fun m => (ws.filter fun t => t.uid == m.uid).foldl Cmd.unplace m }

/-- The record of a NaN of a group in flight on core k. -/
def lateSite (k : Nat) (n : Issued × Nat × (Nat × Nat × Word × Word × Word)) : NanSite :=
  let x := n.2.2
  { inA := x.2.2.1, inB := x.2.2.2.1, inC := x.2.2.2.2, kIndex := x.1, coord := n.1.lane.coord n.2.1, core := k, site := 1
    unit := n.2.1 / 256, cause := x.2.1 }

/-- A transfer of host memory resumes at the first row that is not fully written (R120). -/
def Cmd.rewound (m : Cmd) (q : Outstanding) : Cmd :=
  let e := q.exec.getD 0
  { m with steps := { m.steps with moved := Cells.set 0 e (min (Cells.get 0 e m.steps.moved) q.row) m.steps.moved } }

/-- Steps 1 to 5 of R378: withdraw, stop, save each running core into its slot, free the cores. Groups in flight update first
(R87); a NaN among them waits for the end of the save (R53), and saturation is kept (R43). -/
def State.saveCtx (s : State) (c : Nat) : State :=
  let s := s.withdraw c
  let s := ((List.range s.cores.length).filter fun k => (s.core k).runsFor c).foldl (fun s k =>
    s.settleIn (.core k) (((s.core k).prev.toList ++ (s.core k).run.toList).flatMap fun t => t.regions) none) s
  let ds := (List.range s.cores.length).filterMap fun k =>
    let y := s.core k
    if y.runsFor c then some (k, (y.only c).drained) else none
  let x := s.ctx c
  let sat := ds.flatMap fun d => if d.2.2.1 then (((s.core d.1).only c).pipe.filterMap fun i => ((s.core d.1).tile i.who).map fun t => t.uid) else []
  let late := ds.findSome? fun d => d.2.2.2.bind fun n => ((s.core d.1).tile n.1.who).map fun t =>
    ({ uid := t.uid, exec := t.exec, site := lateSite d.1 n } : LateNan)
  let stops := s.reads.filter fun q => q.ctx == c && !q.phase
  let s := { s with cores := s.cores.map (Core.leave c), reads := s.reads.filter fun q => !(q.ctx == c && !q.phase) }
  let s := ds.foldl (fun s d => s.landCore x d.1 (d.2.1.saveImage c)) s
  s.setCtx c { x with
    savedCores := x.savedCores ++ ds.map fun d => { core := d.1, state := (d.2.1.saveImage c).control : Saved }
    cmds := x.cmds.map fun (m : Cmd) => (stops.filter fun q => q.uid == m.uid).foldl Cmd.rewound (if sat.contains m.uid then { m with sat := true } else m)
    lateNan := x.lateNan <|> late, savedAt := s.now, sliceStart := none, dbgStopped := false }

/-- A pre-emption is decided (R378): nothing happens to a context already pre-empted (R383). -/
def State.preemptCtx (s : State) (c : Nat) : State :=
  let x := s.ctx c
  if x.preempted || x.halted || x.torn || !x.live then s
  else
    let s := s.saveCtx c
    let s := s.setCtx c { s.ctx c with preempted := true, saving := true }
    s.count (9584 + 6 * c + 3) 1

/-! ### Faults and teardown (R384 to R386, Table 14.11) -/

/-- STATUS of a cause code. -/
def faultStatus (code : Nat) : Nat :=
  if code = 0x310 then 4 else if code = 0x311 ∨ code = 0x312 ∨ code = 0x313 then 5 else 3

/-- Has a command started and not completed. -/
def Cmd.active (m : Cmd) : Bool :=
  match m.phase with
  | .started => true
  | .written _ => true
  | .trapped => true
  | _ => false

/-- Sessions close: their state memory is undefined (R307). -/
def State.dropSessions (s : State) (f : Session → Bool) : State :=
  let s' := s.havoc ((s.sessions.filter f).map fun (q : Session) => (q.blk.state, q.blk.stateBytes))
  { s' with sessions := s.sessions.filter fun q => !f q }

/-- Bytes of a block statistics array (R314). -/
def statsBytes (w h : Nat) : Nat := cdiv h 16 * roundUp (cdiv w 16 * 8) 64

/-- Output ranges of a piece of work (its write set, R352), as byte ranges of device memory. -/
def Posy.outs (p : Posy) : List (Nat × Nat) :=
  match p.stat with
  | some q => q.t.ranges
  | none => []

def Work.outs : Work → List (Nat × Nat)
  | .matmul tb epi _ => tb.out.ranges ++ (match tb.part with | some p => p.ranges | none => []) ++ epi.outs
  | .chain _ tb2 e1 e2 _ => tb2.out.ranges ++ e1.outs ++ e2.outs
  | .attend b _ => b.out.ranges ++ (match b.stats with | some p => p.ranges | none => [])
  | .conv b _ => b.layers.flatMap (fun l => (if l.out.base = 0 then [] else l.out.ranges) ++ l.epi.outs) ++
      (match b.part with | some p => p.ranges | none => [])
  | .pool b => b.layers.flatMap fun l => l.out.ranges ++ l.epi.outs
  | .posy p out => out.ranges ++ p.outs
  | .fold _ b => b.ranges
  | .rowstat _ b _ _ => b.ranges
  | .clover q k _ first n kv => (List.range kv).map fun h =>
      (q.clover + (h * q.npCap + first) * roundUp (4 * k.e0) 64, n * roundUp (4 * k.e0) 64)
  | .transpose _ b => b.ranges
  | .ferry _ => []
  | .fill o _ _ => o.ranges
  | .noise o _ _ => o.ranges
  | .wupd w => w.master.ranges ++ w.m1.ranges ++ (match w.m2 with | some t => t.ranges | none => []) ++
      (match w.fwd with | some t => t.ranges | none => [])
  | .tableLoad _ _ _ _ _ => []
  | .signal _ _ => []
  | .wait _ _ => []
  | .fence _ => []
  | .stamp _ _ => []
  | .codec b sc _ => (match sc with | some q => [(q.dst, b.dstBytes)] | none => [(b.dst, b.dstBytes)]) ++ (if b.op < 3 then [] else [(b.rec_, 64)])

/-- The statistics array of a codec unit (R314). -/
def State.statsOuts (s : State) (j : Job) : List (Nat × Nat) :=
  match j with
  | .work (.codec b _ _) =>
    match s.sessions.find? fun q => q.num == b.session with
    | some q => if b.stats = 0 then [] else [(b.stats, statsBytes q.blk.width q.blk.height)]
    | none => []
  | _ => []


/-- Is bit 47 set: the address is meant as a board address. -/
def isBoard (a : Nat) : Bool := bit1 a 47

/-- Device and device address of a well-formed board address (R404). -/
def boardOf (a : Nat) : Option (Nat × Nat) :=
  if bit1 a 47 && bits a 63 48 == 0 && bits a 46 44 == 0 && !bit1 a 39 && decide (bits a 38 0 < devTop)
  then some (bits a 43 40, bits a 38 0) else none

/-- Where an address of a command lies: its own device memory, or another device. -/
inductive Place where
  | here (a : Nat)
  | there (dev a : Nat)
  | nowhere
  deriving DecidableEq, Repr

def State.place (s : State) (a : Nat) : Place :=
  if isBoard a then
    match boardOf a with
    | some (d, x) => if d = s.boot.boardId then .here x else .there d x
    | none => .nowhere
  else if a < devTop then .here a
  else .nowhere

/-- Bytes of this device's memory at an address of a command. -/
def State.placed (s : State) (a n : Nat) : List (Nat × Nat) :=
  match s.place a with
  | .here x => [(x, n)]
  | _ => []

/-- Output ranges of a piece of work, those of the rows of a FERRY among them: the gaps between rows are not written (R121). -/
def State.outsOf (s : State) : Work → List (Nat × Nat)
  | .ferry ts => ts.flatMap fun t =>
      if t.dstHost then []
      else match s.place t.dst with
        | .here a => if t.dstStride = t.rowBytes then [(a, t.rows * t.rowBytes)] else (List.range t.rows).map fun r => (a + r * t.dstStride, t.rowBytes)
        | _ => []
  | .stamp a h => if h then [] else s.placed a 8
  | w => w.outs

/-- The same of a job. -/
def State.jobOuts (s : State) : Job → List (Nat × Nat)
  | .work w => s.outsOf w
  | .steps l => l.stages.flatMap fun g => s.outsOf g.work

/-- The first sequence number of ring r that did not start, from the commands dropped. -/
def Ctx.rewind (x : Ctx) (r : Nat) : Ring :=
  let y := x.ring r
  match x.cmds.find? (fun m => m.ring == r && !m.active) with
  | some m => (match m.phase with | .badSeq => y | _ => { y with e := m.seq })
  | none => y

/-- A fault tears a context down: every unit of it stops, its entries, pins and sessions go, its started commands'
outputs become undefined; the records follow at TEARDOWN_COMPLETE (R385). Only the first fault is taken (R386). -/
def State.faultCtx (s : State) (c code : Nat) (uid : Option Nat) : State :=
  let x := s.ctx c
  if !x.alive then s
  else
    let outs := (x.cmds.filter Cmd.active).flatMap fun m => match m.phase, m.job with | .started, some j => s.jobOuts j ++ s.statsOuts j | .trapped, some j => s.jobOuts j | _, _ => []
    let slots := if x.saving then x.savedCores.map fun q => (x.slotAddr q.core, slotBytes) else []
    let s := (s.havoc (outs ++ slots)).dropSessions fun q => q.ctx == c
    let s := { s with
      cores := s.cores.map (Core.leave c)
      engines := s.engines.map fun (g : Engine) => match g.unit with | some u => (if u.1 = c then { g with unit := none, idleFrom := s.now } else g) | none => g
      reads := s.reads.filter fun q => q.ctx != c
      writes := s.writes.filter fun q => q.ctx != c }
    let kept := x.cmds.filter fun (m : Cmd) => m.active || uid == some m.uid
    s.setCtx c { x with
      torn := true
      halted := false
      preempted := false
      saving := false
      dbgStopped := false
      savedCores := []
      lateNan := none
      bufSlots := []
      sliceStart := none
      armed := false
      teardown := some (code, faultStatus code, uid)
      rings := (List.range x.rings.length).map fun r => x.rewind r
      cmds := kept
      reserved := (kept.filter fun (m : Cmd) => m.phase != .trapped).length
      lineDirty := true }

/-- Cause code of a parity error of a register, by its log source (Tables 11.8, 14.11). -/
def parityCode (source : Nat) : Nat := if source = 4 then 0x311 else if source = 5 then 0x312 else 0x313

/-- A parity error of a context's value in core k (R91, R296, R298); `at_` is what the log's ADDR names. -/
def State.parityFault (s : State) (k c uid code source at_ : Nat) : State :=
  (s.faultCtx c code (some uid)).memError (k / 64) source at_ 0 0 k (some c)

/-! ### The first-NaN trap (R51 to R54, Table 2.7) -/

/-- The 512 bits of the trap record. -/
def trapBits (now : Tick) (c op : Nat) (m : Cmd) (step : Option Nat) (n : NanSite) : Nat :=
  now.toNat * 2 ^ 448 + n.inA.toNat * 2 ^ 416 + n.inB.toNat * 2 ^ 384 + n.kIndex * 2 ^ 352 +
    n.coord.getD 3 0 * 2 ^ 320 + n.coord.getD 2 0 * 2 ^ 288 + n.coord.getD 1 0 * 2 ^ 256 + n.coord.getD 0 0 * 2 ^ 224 +
    m.seq.toNat * 2 ^ 192 + step.getD 0xFFFFFFFF * 2 ^ 160 + n.inC.toNat * 2 ^ 128 + n.core * 2 ^ 104 + op * 2 ^ 96 +
    n.site * 2 ^ 88 + n.unit * 2 ^ 80 + n.cause * 2 ^ 72 + c * 2 ^ 64 + 1

/-- Takes the trap (R51): the record in the NaN trap line, the save, the NAN_TRAP record in the command's slot, the
context halted; a debug stop of it clears (R471). `op` and `step` are a stage's opcode and step (R258); the record of
the trap carries step and stage numbers, the command's later ones its own. -/
def State.takeTrap (s : State) (c op : Nat) (m : Cmd) (step : Option Nat) (recStep recStage : Nat) (n : NanSite) : State :=
  let x := s.ctx c
  match x.blk with
  | none => s
  | some b =>
    let s := s.hubWrite b.nanLine (leBytes 64 (trapBits s.now c op m step n)) false
    let s := s.saveCtx c
    let s := s.putRecord c { m with recStep := recStep, recStage := recStage } 6 0 0 0 s.now
    let x := s.ctx c
    let old := (x.byUid m.uid).getD m
    let s := s.setCtx c ({ x with halted := true, preempted := false, armed := false, lateNan := none }.putCmd { old with phase := .trapped })
    (s.count (9584 + 6 * c + 5) 1).afterRecords c

/-! ### Deadline-miss records (R394, Table 14.14) -/

/-- Writes record DSEQ of a context that has an area for it. -/
def State.missWrite (s : State) (c dseq : Nat) (time : Tick) (seq : Word) (cnt wait kind core step stage : Nat) : State :=
  match (s.ctx c).blk with
  | none => s
  | some b =>
    if b.dlmBase = 0 then s
    else
      let v := time.toNat * 2 ^ 192 + dseq % 2 ^ 32 * 2 ^ 160 + seq.toNat * 2 ^ 128 + cnt % 2 ^ 32 * 2 ^ 96 + wait % 2 ^ 32 * 2 ^ 64 + kind * 2 ^ 56 +
        core * 2 ^ 48 + step * 2 ^ 37 + stage * 2 ^ 26
      s.hubWrite (b.dlmBase + 32 * (dseq % 2 ^ b.logDlm)) (leBytes 32 v) false

/-- A new record: it is counted, and the command's completion record will set DLMISS. -/
def State.deadlineMiss (s : State) (c uid dseq : Nat) (time : Tick) (seq : Word) (cnt wait kind core step stage : Nat) : State :=
  let x := s.ctx c
  let x' := { x with cmds := x.cmds.map fun m => if m.uid = uid then { m with dlmiss := true } else m }
  ((s.setCtx c x').count (9584 + 6 * c + 4) 1).missWrite c dseq time seq cnt wait kind core step stage

/-- A check of a step list that failed (R255): a new record with the step, and with no stage. -/
def State.missCheck (s : State) (c uid : Nat) (seq : Word) (kind step : Nat) : State :=
  let d := (s.ctx c).dseq
  (s.setCtx c { s.ctx c with dseq := d + 1 }).deadlineMiss c uid d s.now seq 1 0 kind 0 step 0

/-! ### Host windows (R482, R483) and board addresses (R404) -/

/-- The entry that permits an access to n bytes at a host address: the lowest-numbered one. -/
def winFor (ws : List HWin) (a n : Nat) (write : Bool) : Option HWin :=
  ws.find? fun w => decide (w.base < w.limit) && decide (w.base ≤ a) && decide (a + n ≤ w.limit) &&
    (if write then w.write else w.read)

/-- PASID that requests of a window carry (R481). -/
def HWin.tag (w : HWin) : Option Nat := if w.pasidEn then some w.pasid else none

/-- The route to a device is valid (R402, R412). -/
def State.routeOk (s : State) (d : Nat) : Bool := s.boardStatus == 1 && (s.routes.getD d {}).valid

/-- A fault of what a command or an execution of its list asked for: its record names the execution (R258). -/
def State.failAsker (s : State) (w : Asker) (code : Nat) : State :=
  let x := s.ctx w.ctx
  let s := match w.stage with
    | some (st, g) => s.setCtx w.ctx { x with cmds := x.cmds.map fun (m : Cmd) => if m.uid = w.uid then { m with recStep := st, recStage := g } else m }
    | none => s
  s.faultCtx w.ctx code (some w.uid)

/-- Number that stands for the management ring where a context is named. -/
def mgmtCtx : Nat := 64

/-- The port that a request to an address of another device takes: in a group of two that are up, an even 256-byte granule takes the
lower (R402). -/
def State.portTo (s : State) (dev a : Nat) : Nat :=
  let ps := (List.range 12).filter fun p => bit1 (s.routes.getD dev {}).ports p && (s.ports.getD p {}).state == 2
  (if a / 256 % 2 = 0 then ps.head? else ps.getLast?).getD 0

/-- Sends a request to another device through its port and waits for its answer; without a valid route the command faults (R407).
No context is kept from this: a bounded one may use board addresses (R408). -/
def State.remoteReq (s : State) (w : Asker) (dev a : Nat) (p : Nat → Tx) (kind : Answer) (dst n : Nat) (last : Bool)
    (slip : Option (Nat × Nat) := none) (row : Nat := 0) : State :=
  if s.routeOk dev then
    let q : Outstanding := { toAsker := w, dst := dst, n := n, kind := kind, dev := dev, issued := s.now, last := last, slip := slip, row := row }
    { (s.send (p (s.portTo dev a))).count (9504 + 6 * s.portTo dev a) 1 with remote := s.remote ++ [q] }
  else s.failAsker w 0x315

/-! ### Order of commands (R353 to R362) -/

/-- A command whose effects are complete. -/
def Cmd.finished (m : Cmd) : Bool :=
  match m.phase with
  | .written _ => true
  | .rejected _ _ _ => true
  | .badSeq => true
  | _ => false

/-- Opcodes that later commands of their ring wait for in either mode (R359, R362, R163). -/
def barrierOp (op : Nat) : Bool := op == 0x12 || op == 0x11 || op == 0x0D

/-- Earlier commands of the ring of command i. -/
def Ctx.earlier (x : Ctx) (i : Nat) (r : Nat) : List Cmd := (x.cmds.take i).filter fun m => m.ring == r

/-- May command i act: every earlier command of its ring has completed (ordered), or every earlier barrier (relaxed). -/
def Ctx.inOrder (x : Ctx) (i : Nat) (m : Cmd) : Bool :=
  (x.earlier i m.ring).all fun e => e.finished || (x.relaxed && !barrierOp e.opcode)

/-- Work whose writes are known from its descriptor: all but transfers, tables, slipways, fences, time stamps and codec units. -/
def Work.computes : Work → Bool
  | .ferry _ | .tableLoad _ _ _ _ _ | .signal _ _ | .wait _ _ | .fence _ | .stamp _ _ | .codec _ _ _ => false
  | _ => true

/-- May later commands of an ordered ring read ahead of a command (R354): it has completed, or it computes and has been validated. -/
def Cmd.passable (m : Cmd) : Bool :=
  m.finished || ((m.phase == .checked || m.phase == .started) && match m.job with | some (.work w) => w.computes | _ => false)

/-- Has a command started, with every tile command of it placed (R353). -/
def Cmd.allPlaced (m : Cmd) : Bool := m.finished || (m.phase == .started && m.unplaced.isEmpty)

/-- May command i of an ordered context be read ahead of its turn. -/
def Ctx.ahead (x : Ctx) (i : Nat) (m : Cmd) : Bool := !x.relaxed && (x.earlier i m.ring).all Cmd.passable

/-- The write sets of the earlier commands of a ring that have not completed (R354). -/
def Ctx.pendingOuts (x : Ctx) (i : Nat) (m : Cmd) : List (Nat × Nat) :=
  (x.earlier i m.ring).flatMap fun e => if e.finished then [] else match e.job with | some (.work w) => w.outs | _ => []

/-- Do some bytes lie outside those write sets. -/
def Ctx.clearOf (x : Ctx) (i : Nat) (m : Cmd) (rs : List (Nat × Nat)) : Bool :=
  rs.all fun r => !(x.pendingOuts i m).any fun q => overlap q.1 q.2 r.1 r.2

/-- Every earlier command of the ring has completed. -/
def Ctx.allEarlier (x : Ctx) (i : Nat) (m : Cmd) : Bool := (x.earlier i m.ring).all Cmd.finished

/-- Command i of context c may begin or go on: the device is awake, the context runs and is not pre-empted. -/
def State.ready (s : State) (c : Nat) : Bool := s.awake && (s.ctx c).runs && !(s.ctx c).preempted

/-- Sets the phase of a command. -/
def State.setPhase (s : State) (c uid : Nat) (p : Phase) : State :=
  let x := s.ctx c
  s.setCtx c { x with cmds := x.cmds.map fun (m : Cmd) => if m.uid = uid then { m with phase := p } else m }

/-- Every write of a command has reached its home. -/
def State.finish (s : State) (c uid : Nat) : State := s.setPhase c uid (.written s.now)

/-! ### Latency tolerance (R330, R421, R484) -/

/-- The poll interval P for L. -/
def pollInterval (l : Nat) : Nat := min (max (l / 2) 250) 1000000

/-- The interval that is in force: P in A0 to A2, the A3 interval, none in A4. -/
def State.pollNow (s : State) : Option Nat :=
  if s.power.cur ≤ 2 then some (pollInterval s.power.latTol.toNat)
  else if s.power.cur = 3 then some (min (s.power.latTol.toNat - 2000000) 100000000)
  else none

/-- Sends an LTR message when the reported tolerance has changed. -/
def State.ltrUpdate (s : State) : State :=
  if s.power.ltrSent = s.pollNow then s
  else { s.send (.ltr s.pollNow) with power := { s.power with ltrSent := s.pollNow } }

/-! ### The passing of time -/

/-- One tick of the reference timebase with nothing to do: the timebase runs but in A4, and the power group's tick
counters count (R418, R424, R460, R462; entry 4). -/
def State.idleTick (s : State) : State :=
  if !s.up || s.power.cur == 4 then s
  else
    let s := (s.count (9968 + s.power.cur) 1)
    let s := (List.range 4).foldl (fun s d => if max s.power.powerCap (s.power.thermalCap.getD d 0) = 0 && !s.power.avsHeld then s else s.count (9973 + d) 1) s
    let s := if s.power.powerCap = 0 then s else s.count 9977 1
    let s := if s.power.hot then s.count 9978 1 else s
    let s := (s.cores.filterMap fun y => (y.run <|> y.prev).map fun t => t.ctx).foldl (fun s c => s.count (9584 + 6 * c + 2) 1) s
    { s with now := s.now + 1 }

end Sys2Proof.Machine
end

