-- ==== Sys2Proof/Machine/Arbiter.lean ====
section
/-! DEFINITION. Arbitration between contexts (14 R374, R392): priority, then a rotating pointer of each resource. -/

namespace Sys2Proof.Machine

/-- Priority of a context: 0 is the most urgent (Table 14.1). -/
def Ctx.prio (x : Ctx) : Nat := (x.blk.map fun (b : CtxBlock) => b.prio).getD 3

/-- Resources with a pointer: engine kind k, the dispatch of the sequencer cores, the TABLE_LOAD sequence of each table, the
collective phase of the device (R410). -/
def kindRes (k : Nat) : Nat := k
def dispatchRes : Nat := 5
def tableRes (t : Nat) : Nat := 6 + t
def phaseRes : Nat := 10

/-- Of some contexts, those of the most urgent priority. -/
def State.urgent (s : State) (cs : List Nat) : List Nat :=
  cs.filter fun c => cs.all fun d => decide ((s.ctx c).prio ≤ (s.ctx d).prio)

/-- The first of some contexts at or after a pointer, wrapping from 63 to 0. -/
def firstFrom (p : Nat) (cs : List Nat) : Option Nat := ((List.range 64).map fun j => (p + j) % 64).find? fun c => cs.contains c

/-- Who wins a resource: bounded contexts before all others where `bound` says so (R392). -/
def State.winner (s : State) (res : Nat) (bound : Bool) (cs : List Nat) : Option Nat :=
  let bs := cs.filter fun c => (s.ctx c).bounded
  if bound && s.cfg.bound.toNat % 2 == 1 && !bs.isEmpty then firstFrom (Cells.get 0 res s.arb) bs
  else firstFrom (Cells.get 0 res s.arb) (s.urgent cs)

/-- The grant moves the pointer past the winner. -/
def State.granted (s : State) (res c : Nat) : State := { s with arb := Cells.set 0 res ((c + 1) % 64) s.arb }

end Sys2Proof.Machine
end

