-- ==== Sys2Proof/Machine/Matmul.lean ====
section
/-! DEFINITION. Whole runs of tiled matrix commands: prologues (05 R126), passes (03 R66), epilogues (05 R124, R125, R138),
split reductions (04 R107) and CHAIN (05 R146, R147). -/

namespace Sys2Proof.Machine

/-- What a run has left so far: device memory, the first NaN it produced, integer saturation (R43). -/
structure Ev where
  mem : Mem
  nan : Option NanSite := none
  sat : Bool := false

/-- Keeps the first NaN. -/
def Ev.note (e : Ev) (n : Option NanSite) : Ev := { e with nan := e.nan <|> n }

/-- What all parts of a run share: posy surroundings and the core that a trap record names. -/
structure WorkEnv where
  pe : PosyEnv
  core : Nat

/-! ### Rows of posies -/

/-- NaN of a posy row as a trap record: coordinates by column (R152). UNIT is the stage (R142; entry 93). -/
def rowSite (we : WorkEnv) (site : Nat) (n : Option RowNan) (coord : Nat → List Nat) : Option NanSite :=
  n.map fun r => { inA := r.lane.a, inB := r.lane.b, inC := r.lane.c, coord := coord (128 * r.chunk + r.lane.lane), core := we.core,
                   site := site, unit := r.stage, cause := r.lane.cause }

/-- One row of a posy over columns [lo, hi). -/
def posyRow (we : WorkEnv) (p : Posy) (out : Tensor) (rd : Mem) (row bat d3 lo hi : Nat) (res : Nat → Nat → Word) (resFloat : Bool)
    (stat : Option (Nat → Nat → Word)) (y : VEng) : RowOut :=
  runRow we.pe.bind p ((chunkStarts lo hi).map fun c => mkChunk we.pe p out rd row bat d3 c.1 c.2 res resFloat stat) y

/-- The active lanes that the row's chunks stored, end to end. -/
def RowOut.vals (o : RowOut) (lo hi : Nat) : List Word :=
  (o.stored.zip (chunkStarts lo hi)).flatMap fun x => x.1.take x.2.2

/-- The STAT record of a T1 column tile (R138): four elements of a row of the side stream. -/
def putStat (p : Posy) (m : Mem) (t row bat : Nat) (y : VEng) : Mem :=
  match p.stat with
  | some q => q.t.putRow m (4 * t) row bat 0 y.s false
  | none => m

/-- A row of the activation slot after its prologue (R126), by K index. -/
def proRow (we : WorkEnv) (p : Posy) (act : Tensor) (rd : Mem) (row bat k0 k1 : Nat) (y : VEng) : RowOut × (Nat → Nat × Nat) :=
  let t : Tensor := { act with fmt := act.fmt.core }
  let hi := min k1 act.e0
  let rdA := fun (_ k : Nat) =>
    let r := act.coreRaw rd k row bat 0
    if act.fmt.isInt then BitVec.ofInt 32 (signExtend act.fmt.elem.width r.1) else toF32 (coreVal act.fmt r)
  let o := posyRow we p t rd row bat 0 k0 hi rdA (!act.fmt.isInt) none y
  let (cs, scs) := encodeRun t.fmt (o.vals k0 hi)
  (o, fun k =>
    let sc := if act.fmt.mx && decide (k / 32 < act.blocks) then scs.getD ((k - k0) / 32) 127 else 127
    (if k < hi then cs.getD (k - k0) 0 else widenFp6 act.fmt.elem act.pad, sc))

/-! ### Passes -/

/-- Accumulators of a pass: rows by columns. -/
def passAcc (mode : Mode) (fa fw : Fmt) (a w : Nat → Nat → Nat × Nat) (rows cols : List Nat) (k0 k1 : Nat) : List (List AccOut) :=
  rows.map fun r => cols.map fun c => dotRange mode fa fw (a r) (w c) k0 k1

/-- First NaN of a pass in issue order: K, then row, then column (R66, R52). -/
def passNan (we : WorkEnv) (accs : List (List AccOut)) (coord : Nat → Nat → List Nat) : Option NanSite :=
  let all := (numbered accs).flatMap fun r => (numbered r.2).filterMap fun c => c.2.nan.map fun n => (n, r.1, c.1)
  let best := all.foldl (fun (acc : Option ((Nat × Nat × Word × Word × Word) × Nat × Nat)) x =>
    match acc with
    | some y => if x.1.1 < y.1.1 then some x else some y
    | none => some x) none
  best.map fun x => { inA := x.1.2.2.1, inB := x.1.2.2.2.1, inC := x.1.2.2.2.2, kIndex := x.1.1, coord := coord x.2.1 x.2.2, core := we.core,
                      site := 1, unit := x.2.2 / 256, cause := x.1.2.1 }

def accAt (accs : List (List AccOut)) (r c : Nat) : Word :=
  match (accs.getD r [])[c]? with
  | some o => o.acc
  | none => 0

def anySat (accs : List (List AccOut)) : Bool := accs.any fun r => r.any fun o => o.sat

/-- Does a row saturate in the lanes beyond the pass's n columns, which hold PAD weights (R43, R58). -/
def padSat (mode : Mode) (fa fw : Fmt) (a : Nat → Nat → Nat × Nat) (pad rows n k0 k1 : Nat) : Bool :=
  decide (n < 1024) && (List.range rows).any fun r => (dotRange mode fa fw (a r) (fun _ => (pad, 127)) k0 k1).sat

/-- Adds a part to the running sum (R85, R107): the words written, and a NaN that an addition produced. -/
def foldIn (we : WorkEnv) (old new : List Word) (coord : Nat → List Nat) : List Word × Option NanSite :=
  let r := (old.zip new).map fun p => fadd p.1 p.2
  let n := (numbered (r.zip (old.zip new))).find? fun x => isNaN32 x.2.1
  (r, n.map fun x => { inA := shown x.2.2.1, inB := shown x.2.2.2, coord := coord x.1, core := we.core, site := 3,
                       cause := if isNaN32 x.2.2.1 || isNaN32 x.2.2.2 then 2 else 1 })

/-- A row of FP32 words of a tensor. -/
def wordsAt (t : Tensor) (m : Mem) (lo hi row bat : Nat) : List Word :=
  (List.range (hi - lo)).map fun j => t.load m (lo + j) row bat 0

/-! ### MATMUL -/

/-- Epilogue of one pass over its rows (or pairs) of output rows (R124, R125). -/
def epilogue (we : WorkEnv) (p : Posy) (out : Tensor) (intRes : Bool) (rows : List (Nat × Nat)) (n0 n1 : Nat)
    (res : Nat → Nat → Word) (e : Ev) : Ev :=
  let step := if p.pair then 2 else 1
  let go := (List.range (rows.length / step)).foldl (fun (acc : Ev × VEng) j =>
    let (e, y) := acc
    let (m, b) := rows.getD (j * step) (0, 0)
    let row := m / step
    let rd := fun slot col => res (j * step + (if slot = 1 then 1 else 0)) (col - n0)
    let o := posyRow we p out e.mem row b 0 n0 n1 rd (!intRes) none y
    let e := e.note (rowSite we 3 o.nan fun c => [n0 + c, row, b, 0])
    let m1 := out.putRow e.mem n0 row b 0 (o.vals n0 n1) false
    ({ e with mem := putStat p m1 (n0 / 1024) row b o.y }, o.y)) (e, {})
  go.1

/-- Rows (M, B) of a box in T1 order. -/
def mbRows (order : List Nat) (b : Box) : List (Nat × Nat) := (passRows order b).map fun r => (r.lo 0, r.lo 3)

/-- The activation rows of a tile by row number, prologue applied (R126); the prologues' first NaN. -/
def tileRows (we : WorkEnv) (act : Tensor) (pro : Option Posy) (rows : List (Nat × Nat)) (k0 k1 : Nat) (e : Ev) :
    List (Nat → Nat × Nat) × Ev :=
  match pro with
  | none => (rows.map fun r k => act.coreRaw e.mem k r.1 r.2 0, e)
  | some p =>
    let r := rows.foldl (fun (acc : List (Nat → Nat × Nat) × Ev × VEng) r =>
      let (l, e, y) := acc
      let (o, f) := proRow we p act e.mem r.1 r.2 k0 k1 y
      (l ++ [f], e.note (rowSite we 2 o.nan fun c => [k0 + c, r.1, r.2, 0]), o.y)) ([], e, {})
    (r.1, r.2.1)

/-- One pass of a MATMUL tile command of part s (R107). -/
def matmulPass (we : WorkEnv) (tb : TileBlock) (epi : Posy) (pro : Option Posy) (mode : Mode) (b : Box) (e : Ev) : Ev :=
  let rows := mbRows tb.t1.order b
  let (n0, n1, k0, k1) := (b.lo 1, b.hi 1, b.lo 2, b.hi 2)
  let (as, e) := tileRows we tb.act pro rows k0 k1 e
  let mem := e.mem
  let a := fun r => as.getD r fun _ => (0, 127)
  let accs := passAcc mode tb.act.fmt tb.wt.fmt a (fun c k => tb.wt.coreRaw mem k (n0 + c) 0 0)
    (List.range rows.length) (List.range (n1 - n0)) k0 k1
  let coord := fun r c => let x := rows.getD r (0, 0); [n0 + c, x.1, x.2, 0]
  let e := { e.note (passNan we accs coord) with
    sat := e.sat || anySat accs || padSat mode tb.act.fmt tb.wt.fmt a (widenFp6 tb.wt.fmt.elem tb.wt.pad) rows.length (n1 - n0) k0 k1 }
  let s := k0 / tb.t2.tk
  match tb.part with
  | none => epilogue we epi tb.out mode.isInt rows n0 n1 (accAt accs) e
  | some pt =>
    let sums := (numbered rows).map fun x =>
      let new := (accs.getD x.1 []).map fun o => o.acc
      if s = 0 then (new, none) else foldIn we (wordsAt pt e.mem n0 n1 x.2.1 x.2.2) new (fun c => [n0 + c, x.2.1, x.2.2, 0])
    let e := sums.foldl (fun e x => e.note x.2) e
    if s + 1 < tb.parts then
      { e with mem := (numbered rows).foldl (fun m x => pt.putRow m n0 x.2.1 x.2.2 0 (sums.getD x.1 ([], none)).1 false) e.mem }
    else epilogue we epi tb.out mode.isInt rows n0 n1 (fun r c => (sums.getD r ([], none)).1.getD c 0) e

/-- A tile command: a prologue over a slot of the whole T2 tile runs before its first pass (R126). -/
def matmulTile (we : WorkEnv) (tb : TileBlock) (epi : Posy) (pro : Option Posy) (b : Box) (e : Ev) : Ev :=
  match modeOf tb.wt.fmt tb.act.fmt with
  | none => e
  | some mode =>
    let e := if tb.t2.aGran = 0 then (tileRows we tb.act pro (mbRows [3, 0] b) (b.lo 2) (b.hi 2) e).2 else e
    (passBoxes tb.t1 b).foldl (fun e p => matmulPass we tb epi pro mode p e) e

/-- MATMUL (R103). -/
def evalMatmul (we : WorkEnv) (tb : TileBlock) (epi : Posy) (pro : Option Posy) (e : Ev) : Ev :=
  (tileBoxes tb.t3 tb.t2 0 tb.full).foldl (fun e b => matmulTile we tb epi pro b.1 e) e

/-! ### CHAIN -/

/-- Full boxes of a CHAIN's operations, whose activation of the second is the first's output (R146). -/
def chainFull2 (tb1 tb2 : TileBlock) : Box :=
  [(0, tb1.act.e1), (0, tb2.wt.e1), (0, tb1.wt.e1), (0, tb1.act.e2), (0, 1), (0, 1), (0, 1)]

/-- One column tile of the first operation over a row block (R147): each row's results in register form, with its STAT records. -/
def chainCols (we : WorkEnv) (tb1 : TileBlock) (e1 : Posy) (mode : Mode) (rows : List (Nat × Nat)) (c : Nat × Nat) (e : Ev) : List (List Word) × Ev :=
  let mem := e.mem
  let x := fun r => rows.getD r (0, 0)
  let a := fun r k => tb1.act.coreRaw mem k (x r).1 (x r).2 0
  let accs := passAcc mode tb1.act.fmt tb1.wt.fmt a (fun j k => tb1.wt.coreRaw mem k (c.1 + j) 0 0) (List.range rows.length) (List.range (c.2 - c.1)) 0 tb1.act.e0
  let e := { e.note (passNan we accs fun r j => [c.1 + j, (x r).1, (x r).2, 0]) with
    sat := e.sat || anySat accs || padSat mode tb1.act.fmt tb1.wt.fmt a (widenFp6 tb1.wt.fmt.elem tb1.wt.pad) rows.length (c.2 - c.1) 0 tb1.act.e0 }
  (List.range rows.length).foldl (fun (acc : List (List Word) × Ev) r =>
    let (vs, e) := acc
    let (row, bat) := x r
    let o := posyRow we e1 tb1.out e.mem row bat 0 c.1 c.2 (fun _ col => accAt accs r (col - c.1)) (!mode.isInt) none {}
    let e := e.note (rowSite we 3 o.nan fun j => [c.1 + j, row, bat, 0])
    (vs ++ [o.vals c.1 c.2], { e with mem := putStat e1 e.mem (c.1 / 1024) row bat o.y })) ([], e)

/-- The chain buffer row as the second operation's broadcast reads it, its prologue applied; R147's PAD beyond N1. -/
def chainAct (we : WorkEnv) (act : Tensor) (pro2 : Option Posy) (rd : Mem) (row bat : Nat) (vs : List Word) (e : Ev) :
    (Nat → Nat × Nat) × Ev :=
  let f := act.fmt.core
  let t : Tensor := { act with fmt := f }
  let n := vs.length
  let (cs, scs) := encodeRun act.fmt vs
  let cs := cs.map (widenFp6 act.fmt.elem)
  let look := fun (cs scs : List Nat) (k : Nat) =>
    (if k < n then cs.getD k 0 else widenFp6 act.fmt.elem act.pad,
     if act.fmt.mx && decide (k / 32 < cdiv n 32) then scs.getD (k / 32) 127 else 127)
  match pro2 with
  | none => (look cs scs, e)
  | some p =>
    let rdA := fun (_ k : Nat) =>
      let r := look cs scs k
      if f.isInt then BitVec.ofInt 32 (signExtend f.elem.width r.1) else toF32 (readScaled f r.1 r.2)
    let o := posyRow we p t rd row bat 0 0 n rdA (!f.isInt) none {}
    let (cs, scs) := encodeRun f (o.vals 0 n)
    (look cs scs, e.note (rowSite we 2 o.nan fun c => [c, row, bat, 0]))

/-- A row block of a chain (R147): the first operation over its column tiles, then the second over its own. -/
def chainBlock (we : WorkEnv) (tb1 tb2 : TileBlock) (e1 e2 : Posy) (pro2 : Option Posy) (m1 m2 : Mode) (b : Box) (e : Ev) : Ev :=
  let rows := mbRows tb1.t1.order b
  let vs := (cuts tb1.t1.tn (0, tb1.wt.e1)).foldl (fun (acc : List (List Word) × Ev) c =>
    let r := chainCols we tb1 e1 m1 rows c acc.2
    ((numbered acc.1).map fun v => v.2 ++ r.1.getD v.1 [], r.2)) (rows.map fun _ => [], e)
  let r := (numbered rows).foldl (fun (acc : List (Nat → Nat × Nat) × Ev) r =>
    let (f, e) := chainAct we tb2.act pro2 acc.2.mem r.2.1 r.2.2 (vs.1.getD r.1 []) acc.2
    (acc.1 ++ [f], e)) ([], vs.2)
  (cuts tb2.t1.tn (0, tb2.wt.e1)).foldl (fun e c =>
    let mem := e.mem
    let a := fun i => r.1.getD i fun _ => (0, 127)
    let accs := passAcc m2 tb2.act.fmt tb2.wt.fmt a (fun j k => tb2.wt.coreRaw mem k (c.1 + j) 0 0)
      (List.range rows.length) (List.range (c.2 - c.1)) 0 tb1.wt.e1
    let coord := fun i j => let x := rows.getD i (0, 0); [c.1 + j, x.1, x.2, 0]
    let e := { e.note (passNan we accs coord) with
      sat := e.sat || anySat accs || padSat m2 tb2.act.fmt tb2.wt.fmt a (widenFp6 tb2.wt.fmt.elem tb2.wt.pad) rows.length (c.2 - c.1) 0 tb1.wt.e1 }
    epilogue we e2 tb2.out m2.isInt rows c.1 c.2 (accAt accs) e) r.2

/-- CHAIN (R147): row blocks of each tile command in the T1 order of the first block. -/
def evalChain (we : WorkEnv) (tb1 tb2 : TileBlock) (e1 e2 : Posy) (pro2 : Option Posy) (e : Ev) : Ev :=
  match modeOf tb1.wt.fmt tb1.act.fmt, modeOf tb2.wt.fmt tb2.act.fmt with
  | some m1, some m2 =>
    (tileBoxes tb2.t3 tb2.t2 0 (chainFull2 tb1 tb2)).foldl (fun e b =>
      let full : Box := b.1.set 1 (0, 1) |>.set 2 (0, 1)
      (passBoxes tb1.t1 full).foldl (fun e p => chainBlock we tb1 tb2 e1 e2 pro2 m1 m2 p e) e) e
  | _, _ => e

end Sys2Proof.Machine
end

