-- ==== Sys2Proof/Machine/Attend.lean ====
section
/-! DEFINITION. ATTEND (spec file 07): pages, clover selection (R205 to R208), the score program and running state (R195,
R196, R199), P·V, normalisation (R198), and the epilogue in either form (R200). -/

namespace Sys2Proof.Machine

/-- The tensor of one KV head's part of a page (R184). -/
def pageTensor (t : Tensor) (frame stride h : Nat) : Tensor :=
  { t with base := t.base + frame + stride * h, scaleBase := if t.fmt.mx then t.scaleBase + frame + stride * h else 0 }

/-- Codes of a page element with positions at or beyond LEN read as PAD with scale code 127 (R190); `pos` is the token's
position. -/
def pageRaw (t : Tensor) (m : Mem) (len pos i0 i1 : Nat) : Nat × Nat :=
  if pos < len then t.coreRaw m i0 i1 0 0 else (widenFp6 t.fmt.elem t.pad, 127)

/-- Pages of a sequence (R188). -/
def SeqEntry.pages (q : SeqEntry) : Nat := cdiv q.len 128

/-- A clover row's BF16 codes (R205). -/
def cloverRow (q : SeqEntry) (m : Mem) (d h page : Nat) : List Nat :=
  let a := q.clover + (h * q.npCap + page) * roundUp (4 * d) 64
  (List.range (2 * d)).map fun e => leNat (m.read (a + 2 * e) 2)

/-- The bound row of a query (R207). -/
def boundRow (t : Tensor) (m : Mem) (i h s d : Nat) : List Nat :=
  let q := (List.range d).map fun e => toF32 (coreVal t.fmt (t.coreRaw m e i h s))
  (q.map fun w => encodeElem .bf16 (f32 (fmax w f32Zero))) ++ q.map fun w => encodeElem .bf16 (f32 (fmin w f32NegZero))

def bf16Fmt : Fmt := ⟨.bf16, false⟩

/-- A row's bound on a page (R207). -/
def pageBound (br cl : List Nat) : AccOut :=
  dotRange .half bf16Fmt bf16Fmt (fun k => (br.getD k 0, 127)) (fun k => (cl.getD k 0, 127)) 0 br.length

/-- NaN of a lane row at a coordinate. -/
def laneSite (we : WorkEnv) (n : Option (Nat × Nat × Word × Word × Word)) (kOff unit : Nat) (coord : List Nat) : Option NanSite :=
  n.map fun x => { inA := x.2.2.1, inB := x.2.2.2.1, inC := x.2.2.2.2, kIndex := kOff + x.1, coord := coord, core := we.core, site := 1,
                   unit := unit, cause := x.2.1 }

/-- NaN of an operation of the fixed sequences (R192, R273): result, operands. -/
def seqSite (we : WorkEnv) (site unit : Nat) (coord : List Nat) (r a b c : Word) : Option NanSite :=
  if isNaN32 r then
    some { inA := shown a, inB := shown b, inC := shown c, coord := coord, core := we.core, site := site, unit := unit,
           cause := if isNaN32 a || isNaN32 b || isNaN32 c then 2 else 1 }
  else none

/-- NaN of a library micro-program of such a sequence, by lane (R273). -/
def microSite (we : WorkEnv) (site unit : Nat) (coord : Nat → List Nat) (n : Option LaneNan) : Option NanSite :=
  n.map fun x => { inA := x.a, inB := x.b, inC := x.c, coord := coord x.lane, core := we.core, site := site, unit := unit, cause := x.cause }

/-- Ranks pages by falling bound: a NaN below every number, equal bounds by index (R206). -/
def better (x y : Nat × Word) : Bool :=
  let a := f32 x.2
  let b := f32 y.2
  if a.isNaN then b.isNaN && decide (x.1 < y.1)
  else if b.isNaN then true
  else if b.lt a then true
  else if a.lt b then false
  else decide (x.1 < y.1)

/-- Inserts by rank. -/
def insertRank (x : Nat × Word) : List (Nat × Word) → List (Nat × Word)
  | [] => [x]
  | y :: r => if better x y then x :: y :: r else y :: insertRank x r

/-- The bound of a page for a row block: MAX over its rows (R208), with the first NaN. COORD0 of a NaN is the page index, the model's choice
(entry 101). -/
def blockBound (we : WorkEnv) (ab : AttendBlock) (q : SeqEntry) (m : Mem) (rows : List (Nat × Nat)) (s kv page : Nat) : Word × Option NanSite :=
  let cl := cloverRow q m ab.q.e0 kv page
  let os := rows.map fun r => (pageBound (boundRow ab.q m r.2 r.1 s ab.q.e0) cl, r)
  let v := match os with
    | [] => f32NegInf
    | o :: r => r.foldl (fun w x => fmax w x.1.acc) o.1.acc
  (v, os.foldl (fun (n : Option NanSite) x => n <|> laneSite we x.1.nan 0 (page % 1024 / 256) [page, x.2.2, x.2.1, s]) none)

/-- Pages that step 1 of R206 keeps for a row block. -/
def keptPages (ab : AttendBlock) (q : SeqEntry) (rows : List (Nat × Nat)) : List Nat :=
  let top := q.qPos0 + rows.foldl (fun n r => max n r.2) 0
  (List.range q.pages).filter fun (p : Nat) => !ab.att.causal || decide (((128 * p : Nat) : Int) ≤ (top : Int) + ab.att.maskArg.toInt)

/-- Steps 2 to 5 of R206: the pages chosen among `ps` by their bounds, in ascending index. -/
def choosePages (a : Attn) (ps : List Nat) (bs : List (Nat × Word)) : List Nat :=
  let fixed := ps.filter fun p => p == 0 || (ps.drop (ps.length - a.lastW)).contains p
  let cand := (bs.filter fun b => !fixed.contains b.1).foldl (fun l b => insertRank b l) []
  let chosen := (cand.take a.topP).map fun b => b.1
  ps.filter fun p => fixed.contains p || chosen.contains p

/-- The pages of a row block in ascending index (R206). Bounds are formed for every page that step 1 keeps, page 0 and the last ones too: the
model's choice (entry 101). -/
def selectPages (we : WorkEnv) (ab : AttendBlock) (q : SeqEntry) (m : Mem) (rows : List (Nat × Nat)) (s kv : Nat) : List Nat × Option NanSite :=
  let ps := keptPages ab q rows
  if ab.att.topP = 0 then (ps, none)
  else
    let bs := ps.map fun p => (p, blockBound we ab q m rows s kv p)
    (choosePages ab.att ps (bs.map fun b => (b.1, b.2.1)), bs.foldl (fun (n : Option NanSite) b => n <|> b.2.2) none)

/-- Offset of a sequence's rows in the bit mask (R191). -/
def maskOffset (ab : AttendBlock) (s : Nat) : Nat :=
  (ab.seqs.take s).foldl (fun n q => n + ab.q.e1 * ab.q.e2 * cdiv q.len 8) 0

/-- Is a key kept for a row (R191). -/
def keyKept (ab : AttendBlock) (q : SeqEntry) (m : Mem) (s h i pos : Nat) : Bool :=
  let qp := q.qPos0 + i
  decide (pos < q.len) &&
  (!ab.att.causal || decide ((pos : Int) ≤ (qp : Int) + ab.att.maskArg.toInt)) &&
  (!ab.att.blockDiag || qp / ab.att.maskArg.toNat == pos / ab.att.maskArg.toNat) &&
  (!ab.att.bitMask ||
    (m.byte (ab.att.maskBase + maskOffset ab s + (i + ab.q.e1 * h) * cdiv q.len 8 + pos / 8)).toNat / 2 ^ (pos % 8) % 2 == 1)

/-- Running state of a row (R195) with its output accumulators. -/
structure AttRow where
  m : Word := f32NegInf
  l : Word := f32Zero
  n : Word := f32Zero
  acc : List Word
  nan : Option NanSite := none

def AttRow.note (r : AttRow) (n : Option NanSite) : AttRow := { r with nan := r.nan <|> n }

/-- A statistic of a key block, chunk by chunk (R195, R138). -/
def blockStat (kind : Nat) (vs : List Word) : Word :=
  (groupsOf 128 (vs.length + 1) vs).foldl (fun s c => statReduce kind (fun l => decide (l < c.length)) (fun l => c.getD l 0) s) (statStart kind)

/-- ACCSCALE of one accumulator (R72). -/
def accScale (a f : Word) : Word := fmul a f

/-- One key block of one row: query head h, token i of sequence s, KV head kv (R195 to R197). COORD0 of a NaN of the state update, which has
no key, is 0, the model's choice (entry 101). -/
def attBlock (we : WorkEnv) (ab : AttendBlock) (q : SeqEntry) (m : Mem) (s kv h i j : Nat) (pages : List Nat) (r : AttRow) : AttRow :=
  let a := ab.att
  let keys := pages.flatMap fun p => (List.range 128).map fun t => (p, t)
  let qk := (modeOf ab.k.fmt ab.q.fmt).getD .half
  let colForm := a.form
  let pf : Fmt := (fmtOfCode a.pFmt).getD bf16Fmt
  let pv := (if colForm then modeOf pf ab.v.fmt else modeOf ab.v.fmt pf).getD .half
  let frame := fun p => q.frames.getD p 0
  let sc := (numbered keys).map fun x =>
    let (p, t) := x.2
    let pos := 128 * p + t
    let o := dotRange qk ab.q.fmt ab.k.fmt (fun e => ab.q.coreRaw m e i h s)
      (fun e => pageRaw (pageTensor ab.k (frame p) a.headStride kv) m q.len pos e t) 0 ab.q.e0
    let v := fmul o.acc a.scale2
    (if keyKept ab q m s h i pos then v else f32NegInf, pos,
      laneSite we o.nan 0 (x.1 / 256) [pos, i, h, s] <|> seqSite we 5 0 [pos, i, h, s] v o.acc a.scale2 0)
  let r := sc.foldl (fun r x => r.note x.2.2) r
  let ts := sc.map fun x => x.1
  let mb := blockStat 2 ts
  let mNew := fmax r.m mb
  let at0 := [0, i, h, s]
  let r := r.note (seqSite we 5 0 at0 mNew r.m mb 0)
  let empty := mNew == f32NegInf
  let es := sc.map fun x =>
    let d := fadd x.1 (fneg mNew)
    let v := ex2 we.pe.bind.ex2 d
    (v, seqSite we 5 0 [x.2.1, i, h, s] d x.1 (fneg mNew) 0 <|> seqSite we 5 0 [x.2.1, i, h, s] v d 0 0)
  let (cs, scs) := if empty then (keys.map fun _ => 0, (groupsOf 32 (keys.length + 1) keys).map fun _ => 0)
    else encodeRun pf (es.map fun x => x.1)
  let pRaw := fun k => (cs.getD k 0, if pf.mx then scs.getD (k / 32) 127 else 127)
  let pVals := (List.range keys.length).map fun k => toF32 (coreVal pf (pRaw k))
  let dm := fadd r.m (fneg mNew)
  let alpha := if empty then f32One else ex2 we.pe.bind.ex2 dm
  let r := if empty then r else es.foldl (fun r x => r.note x.2) r
  let r := if empty then r else (r.note (seqSite we 5 0 at0 dm r.m (fneg mNew) 0)).note (seqSite we 5 0 at0 alpha dm 0 0)
  let sum := blockStat 0 pVals
  let lNew := fma r.l alpha sum
  let r := r.note (seqSite we 5 0 at0 lNew r.l alpha sum)
  let cnt := (ts.filter fun t => f32NegInf != t && !isNaN32 t).length
  let scaled := if colForm || alpha == f32One then r.acc else r.acc.map fun x => accScale x alpha
  let r := if colForm || alpha == f32One then r else (numbered (r.acc.zip scaled)).foldl (fun r x =>
    r.note ((seqSite we 1 (x.1 / 256) [x.1, i, h, s] x.2.2 x.2.1 alpha 0))) r
  let outs := (numbered scaled).map fun c =>
    let v := fun k => let x := keys.getD k (0, 0); pageRaw (pageTensor ab.v (frame x.1) a.headStride kv) m q.len (128 * x.1 + x.2) x.2 c.1
    let o0 : AccOut := { acc := c.2, nan := none, sat := false }
    let g := cdiv keys.length pv.g
    if colForm then (dotGo pv ab.v.fmt pf v pRaw g 0 o0, c.1) else (dotGo pv pf ab.v.fmt pRaw v g 0 o0, c.1)
  let r := outs.foldl (fun r o => r.note (laneSite we o.1.nan (1024 * j) (if colForm then i % ab.t2.tm / 256 else o.2 / 256) [o.2, i, h, s])) r
  { r with m := mNew, l := lNew, n := fadd r.n (itof (BitVec.ofNat 32 cnt)), acc := outs.map fun o => o.1.acc }

/-- All key blocks of a row (R194, R195). -/
def attRow (we : WorkEnv) (ab : AttendBlock) (q : SeqEntry) (m : Mem) (s kv h i : Nat) (pages : List Nat) : AttRow :=
  (numbered (groupsOf 8 (pages.length + 1) pages)).foldl (fun r x => attBlock we ab q m s kv h i x.1 x.2 r)
    { acc := List.replicate ab.out.e0 f32NegZero }

/-- Normalised outputs of k lanes of a chunk (R198) from n, ℓ and the accumulator of each, with the first NaN. That a driver-loaded RCP
sees the chunk's own lanes is the model's choice (entry 101). -/
def attNorm (we : WorkEnv) (ch : Chunk) (coord : Nat → List Nat) (k : Nat) (n l a : Nat → Word) : List Word × Option NanSite :=
  let empty := fun j => (f32 (n j)).isZero
  let rc := chunkCall we.pe.bind { ch with act := fun j => ch.act j && !empty j } 7 l
  let rs := (List.range k).map rc.1
  let r := fun j => rs.getD j 0
  let vs := (List.range k).map fun j => if empty j then f32Zero else fmul (a j) (r j)
  (vs, microSite we 5 1 coord rc.2 <|>
    (List.range k).findSome? fun j => if empty j then none else seqSite we 5 1 (coord j) (vs.getD j 0) (a j) (r j) 0)

/-- The statistics record of a row from its m, ℓ and n (R199). -/
def attRecord (b : Bound) (m l n : Word) : List Word := [if (f32 n).isZero then f32NegInf else fadd m (lg2 b.lg2 l), m, l, n]

def attStats (we : WorkEnv) (r : AttRow) : List Word := attRecord we.pe.bind r.m r.l r.n

/-- Rows (query head, token) of a row block, in accumulator order (R203). -/
def stackedRows (group kv i0 i1 : Nat) : List (Nat × Nat) :=
  (List.range ((i1 - i0) * group)).map fun r => (kv * group + r % group, i0 + r / group)

/-- Finished rows of one row block: (head, token, state). -/
def attRowBlock (we : WorkEnv) (ab : AttendBlock) (s kv : Nat) (rows : List (Nat × Nat)) (e : Ev) : List (Nat × Nat × AttRow) × Ev :=
  let q := ab.seqs.getD s { frames := [], clover := 0, len := 0, qPos0 := 0, npCap := 0 }
  let (pages, n) := selectPages we ab q e.mem rows s kv
  rows.foldl (fun (acc : List (Nat × Nat × AttRow) × Ev) x =>
    let r := attRow we ab q e.mem s kv x.1 x.2 pages
    let e := acc.2.note r.nan
    let e := match ab.stats with
      | some t => { e with mem := t.putRow e.mem 0 x.2 x.1 s (attStats we r) false }
      | none => e
    (acc.1 ++ [(x.1, x.2, r)], e)) ([], e.note n)

/-- Row-form epilogue of a row block (R192, R198). -/
def attEpiRows (we : WorkEnv) (ab : AttendBlock) (epi : Posy) (s : Nat) (rows : List (Nat × Nat × AttRow)) (e : Ev) : Ev :=
  (rows.foldl (fun (acc : Ev × VEng) x =>
    let (e, y) := acc
    let (h, i, r) := x
    let coord := fun c => [c, i, h, s]
    let ns := (chunkStarts 0 ab.out.e0).map fun c =>
      attNorm we (seqChunk we.pe ab.out (i, h, s) c.1 c.2) (fun j => coord (c.1 + j)) c.2 (fun _ => r.n) (fun _ => r.l) fun j => r.acc.getD (c.1 + j) 0
    let vs := ns.flatMap fun v => v.1
    let o := posyRow we epi ab.out e.mem i h s 0 ab.out.e0 (fun _ c => vs.getD c 0) true none y
    let e := (e.note (ns.findSome? fun v => v.2)).note (rowSite we 3 o.nan coord)
    ({ e with mem := ab.out.putRow e.mem 0 i h s (o.vals 0 ab.out.e0) false }, o.y)) (e, {})).1

/-- Column-form epilogue of a tile command (R185, R200): one row per value dimension, lanes over the queries from t0. -/
def attEpiCols (we : WorkEnv) (ab : AttendBlock) (epi : Posy) (s h t0 t1 : Nat) (rows : List (Nat × Nat × AttRow)) (e : Ev) : Ev :=
  let rowOf : Nat → AttRow := fun i => match rows.find? fun r => r.2.1 == i with | some r => r.2.2 | none => { acc := [] }
  ((List.range ab.out.e0).foldl (fun (acc : Ev × VEng) c =>
    let (e, y) := acc
    let chs := (chunkStarts t0 t1).map fun x =>
      let bare := mkChunkBy we.pe epi ab.out e.mem (fun l => x.1 + l) (fun _ => c) h s x.2
      let v := attNorm we (bare (fun _ _ => 0) true none) (fun l => [c, x.1 + l, h, s]) x.2 (fun l => (rowOf (x.1 + l)).n) (fun l => (rowOf (x.1 + l)).l)
        fun l => (rowOf (x.1 + l)).acc.getD c 0
      (bare (fun _ l => v.1.getD l 0) true none, v.2)
    let o := runRow we.pe.bind epi (chs.map fun x => x.1) y
    let e := (e.note (chs.findSome? fun x => x.2)).note (rowSite we 3 o.nan fun l => [c, t0 + l, h, s])
    ({ e with mem := (numbered (o.vals t0 t1)).foldl (fun m v => ab.out.putRow m c (t0 + v.1) h s [v.2] false) e.mem }, o.y)) (e, {})).1

/-- ATTEND (R187): sequences, then heads, then T2 tiles; row blocks in ascending order. -/
def evalAttend (we : WorkEnv) (ab : AttendBlock) (epi : Posy) (e : Ev) : Ev :=
  let a := ab.att
  let heads := if a.form then a.group * a.kvHeads else a.kvHeads
  (List.range ab.q.e3).foldl (fun e s => (List.range heads).foldl (fun e h =>
    (cuts ab.t2.tm (0, ab.q.e1)).foldl (fun e t =>
      if a.form then
        let r := (cuts ab.t1.tm t).foldl (fun (acc : List (Nat × Nat × AttRow) × Ev) b =>
          let (l, e) := attRowBlock we ab s (h / a.group) ((List.range (b.2 - b.1)).map fun k => (h, b.1 + k)) acc.2
          (acc.1 ++ l, e)) ([], e)
        attEpiCols we ab epi s h t.1 t.2 r.1 r.2
      else
        (cuts ab.t1.tm t).foldl (fun e b =>
          let (l, e) := attRowBlock we ab s h (stackedRows a.group h b.1 b.2) e
          attEpiRows we ab epi s l e) e) e) e) e

end Sys2Proof.Machine
end

