-- ==== Sys2Proof/Machine/Conv.lean ====
section
/-! DEFINITION. CONV and POOL (spec file 08): geometry (R215 to R218), regrouping (R220, R221), pruning (R222, R223),
windows of fused layers (R225 to R227) and pooling (R229). -/

namespace Sys2Proof.Machine

/-! ### Geometry -/

def ConvDesc.r (c : ConvDesc) : Nat := 2 ^ c.s2d
def ConvDesc.q (c : ConvDesc) : Nat := 2 ^ c.d2s

/-- Factor r or q in dimension d. -/
def ConvDesc.rAt (c : ConvDesc) (d : Nat) : Nat := if d < c.dims then c.r else 1
def ConvDesc.qAt (c : ConvDesc) (d : Nat) : Nat := if d < c.dims then c.q else 1

/-- Regrouped input extent and channels (R215). -/
def ConvDesc.inR (c : ConvDesc) (d : Nat) : Nat := c.inp.getD d 1 / c.rAt d
def ConvDesc.cR (c : ConvDesc) : Nat := c.cIn * c.r ^ c.dims

/-- ν of dimension d (R215). -/
def ConvDesc.nu (c : ConvDesc) (d : Nat) : Int :=
  (c.inR d : Int) + c.pl.getD d 0 + c.ph.getD d 0 - (c.dl.getD d 1 : Int) * ((c.f.getD d 1 : Int) - 1) - 1

/-- Output extent of dimension d. -/
def ConvDesc.out (c : ConvDesc) (d : Nat) : Nat := if d < c.dims then (c.nu d).toNat / c.st.getD d 1 + 1 else 1

/-- Output columns. -/
def ConvDesc.n (c : ConvDesc) : Nat := c.cOut * c.q ^ c.dims

def ConvDesc.taps (c : ConvDesc) : Nat := c.f.getD 0 1 * c.f.getD 1 1 * c.f.getD 2 1

/-- Reduction positions of a tap (R217). -/
def ConvDesc.cp (c : ConvDesc) (g : Nat) (mx : Bool) : Nat := roundUp c.cR (if mx then 32 else g)

/-- Tap coordinates. -/
def ConvDesc.tapAt (c : ConvDesc) (t d : Nat) : Nat :=
  match d with
  | 0 => t % c.f.getD 0 1
  | 1 => t / c.f.getD 0 1 % c.f.getD 1 1
  | _ => t / (c.f.getD 0 1 * c.f.getD 1 1)

/-- Input position of a tap in dimension d (R216). -/
def ConvDesc.pos (c : ConvDesc) (o : List Nat) (t d : Nat) : Int :=
  (o.getD d 0 : Int) * c.st.getD d 1 - c.pl.getD d 0 + (c.tapAt t d : Int) * c.dl.getD d 1

/-- Does a tap of an output position lie inside the regrouped input. -/
def ConvDesc.insideTap (c : ConvDesc) (o : List Nat) (t : Nat) : Bool :=
  (List.range 3).all fun d => decide (0 ≤ c.pos o t d) && decide (c.pos o t d < c.inR d)

/-- Activation codes of a stored pixel and channel (Table 8.2). -/
def ConvDesc.pixel (c : ConvDesc) (t : Tensor) (m : Mem) (x : List Nat) (b ch : Nat) : Nat × Nat :=
  let z := x.getD 2 0 + c.inp.getD 2 1 * b
  if c.packIn then t.coreRaw m (x.getD 0 0 * c.cIn + ch) (x.getD 1 0) z 0
  else t.coreRaw m ch (x.getD 0 0) (x.getD 1 0) z

/-- Activation codes at K position k of an output position (R216, R217, R220): PAD with scale 127 outside the image, and
R110's padding for channels at or beyond C'. -/
def ConvDesc.act (c : ConvDesc) (cp : Nat) (t : Tensor) (m : Mem) (o : List Nat) (b k : Nat) : Nat × Nat :=
  let tap := k / cp
  let ch := k % cp
  if c.taps ≤ tap || !c.insideTap o tap then (widenFp6 t.fmt.elem t.pad, 127)
  else
    let sub := min (ch / c.cIn) (c.r ^ c.dims - 1)
    let cc := ch - sub * c.cIn
    let delta := fun d => match d with | 0 => sub % c.r | 1 => sub / c.r % c.r | _ => sub / (c.r * c.r)
    let x := (List.range 3).map fun d => c.rAt d * (c.pos o tap d).toNat + (if d < c.dims then delta d else 0)
    if ch < c.cR then c.pixel t m x b cc
    else if c.packIn then (widenFp6 t.fmt.elem t.pad, 127)
    else c.pixel t m x b cc

/-- Weight codes at K position k of column n. -/
def ConvDesc.weight (c : ConvDesc) (cp : Nat) (w : Tensor) (m : Mem) (n k : Nat) : Nat × Nat :=
  if c.taps ≤ k / cp then (widenFp6 w.fmt.elem w.pad, 127) else w.coreRaw m (k % cp) (k / cp) n 0

/-- ROW and the last coordinate of a trap record (R219). -/
def ConvDesc.rowNum (c : ConvDesc) (o : List Nat) : Nat := o.getD 0 0 + c.out 0 * (o.getD 1 0 + c.out 1 * o.getD 2 0)

def convCoord (c : ConvDesc) (layer : Nat) (o : List Nat) (b n : Nat) : List Nat :=
  [n, o.getD 0 0, o.getD 1 0, (o.getD 2 0 + c.out 2 * b) % 2 ^ 28 + layer * 2 ^ 30]

/-- Index of column n of an output position in the output tensor (Table 8.2, R221). -/
def ConvDesc.outIndex (c : ConvDesc) (o : List Nat) (b n : Nat) : Nat × Nat × Nat × Nat :=
  let ch := n % c.cOut
  let sub := n / c.cOut
  let delta := fun d => match d with | 0 => sub % c.q | 1 => sub / c.q % c.q | _ => sub / (c.q * c.q)
  let x := fun d => c.qAt d * o.getD d 0 + (if d < c.dims then delta d else 0)
  let z := x 2 + c.out 2 * c.qAt 2 * b
  if c.packOut then (x 0 * c.cOut + ch, x 1, z, 0) else (ch, x 0, x 1, z)

/-- Writes columns n0 onwards of an output position (R221): as one run, or element by element when regrouped. -/
def ConvDesc.putCols (c : ConvDesc) (t : Tensor) (m : Mem) (o : List Nat) (b n0 : Nat) (vs : List Word) : Mem :=
  if c.q = 1 then
    let i := c.outIndex o b n0
    t.putRow m i.1 i.2.1 i.2.2.1 i.2.2.2 vs false
  else (numbered vs).foldl (fun m v =>
    let i := c.outIndex o b (n0 + v.1)
    t.putRow m i.1 i.2.1 i.2.2.1 i.2.2.2 [v.2] false) m

/-- Words of a tensor that an output position's columns hold (partial sums). -/
def ConvDesc.colsAt (c : ConvDesc) (t : Tensor) (m : Mem) (o : List Nat) (b n0 n1 : Nat) : List Word :=
  (List.range (n1 - n0)).map fun j =>
    let i := c.outIndex o b (n0 + j)
    t.load m i.1 i.2.1 i.2.2.1 i.2.2.2

/-! ### Passes -/

/-- Is a PAD code zero (R222): +0 or −0, or an integer 0. -/
def padZero (t : Tensor) : Bool :=
  match t.fmt.elem with
  | .int8 => t.pad == 0
  | .int4 => t.pad == 0
  | e => t.pad % 2 ^ (e.width - 1) == 0

/-- Taps that a pass prunes (R222). -/
def ConvDesc.pruned (c : ConvDesc) (t : Tensor) (rows : List (List Nat × Nat)) (tap : Nat) : Bool :=
  padZero t && rows.all fun r => !c.insideTap r.1 tap

/-- Accumulators of a pass of a layer over K range [k0, k1). -/
def ConvDesc.accs (c : ConvDesc) (mode : Mode) (cp : Nat) (t w : Tensor) (tm wm : Mem) (rows : List (List Nat × Nat))
    (n0 n1 k0 k1 : Nat) : List (List AccOut) :=
  rows.map fun r => (List.range (n1 - n0)).map fun j =>
    let wf := c.weight cp w wm (n0 + j)
    let o := dotRange mode t.fmt w.fmt (c.act cp t tm r.1 r.2) wf k0 k1
    { o with nan := o.nan.map fun x =>
        if c.pruned t rows (x.1 / cp) then
          prunedNan t.fmt w.fmt (widenFp6 t.fmt.elem t.pad) ((List.range mode.g).map fun i => wf (x.1 + i)) x
        else x }

/-- Epilogue rows of a pass: output position, image and its FP32 results (R219); `put` stores a row's values. -/
def convEpi (we : WorkEnv) (c : ConvDesc) (layer : Nat) (epi : Posy) (out : Tensor) (intRes : Bool) (rows : List (List Nat × Nat))
    (n0 n1 : Nat) (res : Nat → Nat → Word) (put : Ev × Mem → List Nat → Nat → List Word → Ev × Mem) (em : Ev × Mem) : Ev × Mem :=
  let step := if epi.pair then 2 else 1
  ((List.range (rows.length / step)).foldl (fun (acc : (Ev × Mem) × VEng) j =>
    let ((e, om), y) := acc
    let (o, b) := rows.getD (j * step) ([], 0)
    let row := c.rowNum o
    let rd := fun slot col => res (j * step + (if slot = 1 then 1 else 0)) (col - n0)
    let x := posyRow we epi out e.mem row b 0 n0 n1 rd (!intRes) none y
    let e := e.note (rowSite we 3 x.nan fun k => convCoord c layer o b (n0 + k))
    (put ({ e with mem := putStat epi e.mem (n0 / 1024) row b x.y }, om) o b (x.vals n0 n1), x.y)) (em, {})).1

/-! ### Fused layers -/

/-- A layer's intermediate tensor in a memory of its own: same extents, format and PAD, dense rows. -/
def Tensor.dense (t : Tensor) (f : Fmt) (pad : Nat) : Tensor :=
  let t : Tensor := { t with base := 0, fmt := f, pad := pad }
  let p := roundUp t.rowBytes 64
  { t with s1 := p, s2 := p * t.e1, s3 := p * t.e1 * t.e2, scaleBase := if f.mx then p * t.e1 * t.e2 * t.e3 else 0 }

/-- Window of layer j's output for an output range of the last layer, in dimension d (R225): layers j + 1 to the last. -/
def windowBack (cds : List ConvDesc) (d : Nat) (r : Int × Int) : Int × Int :=
  cds.reverse.foldl (fun r c =>
    (r.1 * c.st.getD d 1 - c.pl.getD d 0, (r.2 - 1) * c.st.getD d 1 + (c.dl.getD d 1 : Int) * ((c.f.getD d 1 : Int) - 1) + 1)) r

/-- Positions (o, b) of a window that lie inside an extent, dimension 0 fastest. -/
def windowRows (ext : Nat → Nat) (w : Nat → Int × Int) (b0 b1 : Nat) : List (List Nat × Nat) :=
  let rng := fun (d : Nat) => (List.range (ext d)).filter fun (x : Nat) => decide ((w d).1 ≤ (x : Int)) && decide ((x : Int) < (w d).1 + (w d).2)
  (List.range (b1 - b0)).flatMap fun b => (rng 2).flatMap fun z => (rng 1).flatMap fun y => (rng 0).map fun x => ([x, y, z], b0 + b)

/-- What the element index of a layer's posy goes by: the extents of its output descriptor (R133, R228). -/
def ConvLayer.idx (l : ConvLayer) (t : Tensor) : Tensor :=
  { t with e0 := l.ext.getD 0 t.e0, e1 := l.ext.getD 1 t.e1, e2 := l.ext.getD 2 t.e2, e3 := l.ext.getD 3 t.e3 }

/-- Layer j before the last of a tile command (R227): passes of 64 window positions over all columns. -/
def convMid (we : WorkEnv) (l : ConvLayer) (layer : Nat) (t : Tensor) (tm : Mem) (rows : List (List Nat × Nat)) (e : Ev) : Tensor × Mem × Ev :=
  let out := l.out.dense l.out.fmt l.out.pad
  match modeOf l.wt.fmt t.fmt with
  | none => (out, {}, e)
  | some mode =>
    let cp := l.cd.cp mode.g (l.wt.fmt.mx || t.fmt.mx)
    let r := (groupsOf 64 (rows.length + 1) rows).foldl (fun (acc : Mem × Ev) rs =>
      let (om, e) := acc
      let accs := l.cd.accs mode cp t l.wt tm e.mem rs 0 l.cd.n 0 (l.cd.taps * cp)
      let e := { e.note (passNan we accs fun i c => let x := rs.getD i ([], 0); convCoord l.cd layer x.1 x.2 c) with
        sat := e.sat || anySat accs || padSat mode t.fmt l.wt.fmt (fun r => l.cd.act cp t tm (rs.getD r ([], 0)).1 (rs.getD r ([], 0)).2) (widenFp6 l.wt.fmt.elem l.wt.pad)
          rs.length l.cd.n 0 (l.cd.taps * cp) }
      let x := convEpi we l.cd layer l.epi (l.idx out) mode.isInt rs 0 l.cd.n (accAt accs) (fun (em : Ev × Mem) o b vs => (em.1, l.cd.putCols out em.2 o b 0 vs)) (e, om)
      (x.2, x.1)) ({}, e)
    (out, r.1, r.2)

/-- The last layer's pass of a tile command (R103, R107). -/
def convLast (we : WorkEnv) (cb : ConvBlock) (l : ConvLayer) (layer : Nat) (t : Tensor) (tm : Option Mem) (p : Box) (e : Ev) : Ev :=
  match modeOf l.wt.fmt t.fmt with
  | none => e
  | some mode =>
    let cp := l.cd.cp mode.g (l.wt.fmt.mx || t.fmt.mx)
    let rows := (passRows cb.t1.order p).map fun r => ([r.lo 4, r.lo 5, r.lo 6], r.lo 3)
    let (n0, n1, k0, k1) := (p.lo 1, p.hi 1, p.lo 2, p.hi 2)
    let accs := l.cd.accs mode cp t l.wt (tm.getD e.mem) e.mem rows n0 n1 k0 k1
    let coord := fun i c => let x := rows.getD i ([], 0); convCoord l.cd layer x.1 x.2 (n0 + c)
    let e := { e.note (passNan we accs coord) with
      sat := e.sat || anySat accs || padSat mode t.fmt l.wt.fmt (fun r => l.cd.act cp t (tm.getD e.mem) (rows.getD r ([], 0)).1 (rows.getD r ([], 0)).2)
        (widenFp6 l.wt.fmt.elem l.wt.pad) rows.length (n1 - n0) k0 k1 }
    let fin := fun (res : Nat → Nat → Word) (e : Ev) =>
      (convEpi we l.cd layer l.epi l.out mode.isInt rows n0 n1 res (fun (em : Ev × Mem) o b vs =>
        ({ em.1 with mem := l.cd.putCols l.out em.1.mem o b n0 vs }, em.2)) (e, {})).1
    match cb.part with
    | none => fin (accAt accs) e
    | some pt =>
      let s := k0 / cb.t2.tk
      let sums := (numbered rows).map fun x =>
        let new := (accs.getD x.1 []).map fun o => o.acc
        if s = 0 then (new, none) else foldIn we (l.cd.colsAt pt e.mem x.2.1 x.2.2 n0 n1) new (fun c => coord x.1 c)
      let e := sums.foldl (fun e x => e.note x.2) e
      if k1 < l.cd.taps * cp then
        { e with mem := (numbered rows).foldl (fun m x => l.cd.putCols pt m x.2.1 x.2.2 n0 (sums.getD x.1 ([], none)).1) e.mem }
      else fin (fun r c => (sums.getD r ([], none)).1.getD c 0) e

/-- The input window with its prologue applied (R126): COL, ROW and BAT are the stored indices, D3 is 0 (R133, entry 26). -/
def convInput (we : WorkEnv) (c : ConvDesc) (act : Tensor) (pro : Option Posy) (w : Nat → Int × Int) (b0 b1 : Nat) (e : Ev) :
    Tensor × Option Mem × Ev :=
  match pro with
  | none => (act, none, e)
  | some p =>
    let t := act.dense act.fmt.core (widenFp6 act.fmt.elem act.pad)
    let scaled := fun d => ((w d).1 * c.rAt d, (w d).2 * c.rAt d)
    let px := windowRows (fun d => c.inp.getD d 1) scaled b0 b1
    let lines : List (Nat × Nat × Nat × Nat × Nat) :=
      if c.packIn then
        let xs := px.map fun r => r.1.getD 0 0
        let lo := (xs.foldl min (xs.headD 0)) * c.cIn
        let hi := (xs.foldl max 0 + 1) * c.cIn
        (px.filter fun r => r.1.getD 0 0 * c.cIn == lo).map fun r => (lo, hi, r.1.getD 1 0, r.1.getD 2 0 + c.inp.getD 2 1 * r.2, 0)
      else px.map fun r => (0, act.e0, r.1.getD 0 0, r.1.getD 1 0, r.1.getD 2 0 + c.inp.getD 2 1 * r.2)
    let r := lines.foldl (fun (acc : Mem × Ev × VEng) x =>
      let (m, e, y) := acc
      let (lo, hi, i1, i2, i3) := x
      let rdA := fun (_ k : Nat) =>
        let v := act.coreRaw e.mem k i1 i2 i3
        if act.fmt.isInt then BitVec.ofInt 32 (signExtend act.fmt.elem.width v.1) else toF32 (coreVal act.fmt v)
      let o := posyRow we p t e.mem i1 i2 0 lo hi rdA (!act.fmt.isInt) none y
      (t.putRow m lo i1 i2 i3 (o.vals lo hi) false, e.note (rowSite we 2 o.nan fun k => [lo + k, i1, i2, i3]), o.y)) ({}, e, {})
    (t, some r.1, r.2.1)

/-- One tile command: layers in order (R227). -/
def convTile (we : WorkEnv) (cb : ConvBlock) (pro : Option Posy) (b : Box) (e : Ev) : Ev :=
  let cds := cb.layers.map fun l => l.cd
  let n := cb.layers.length
  let own := fun d => ((b.lo (4 + d) : Int), (b.hi (4 + d) : Int) - b.lo (4 + d))
  let win := fun j d => windowBack (cds.drop (j + 1)) d (own d)
  match cds.head?, cb.layers.getLast? with
  | some c0, some last =>
    let (t, tm, e) := convInput we c0 cb.act pro (fun d => windowBack cds d (own d)) (b.lo 3) (b.hi 3) e
    let r := (numbered (cb.layers.take (n - 1))).foldl (fun (acc : Tensor × Option Mem × Ev) x =>
      let (t, tm, e) := acc
      let rows := windowRows x.2.cd.out (win x.1) (b.lo 3) (b.hi 3)
      let (t', m', e') := convMid we x.2 x.1 t (tm.getD e.mem) rows e
      (t', some m', e')) (t, tm, e)
    (passBoxes cb.t1 b).foldl (fun e p => convLast we cb last (n - 1) r.1 r.2.1 p e) r.2.2
  | _, _ => e

/-- Ranges of a CONV or POOL: columns, reduction, images and output positions of the last layer. -/
def ConvBlock.full (cb : ConvBlock) (k : Nat) : Box :=
  match cb.layers.getLast? with
  | some l => [(0, 1), (0, l.cd.n), (0, k), (0, l.cd.batch), (0, l.cd.out 0), (0, l.cd.out 1), (0, l.cd.out 2)]
  | none => []

/-- K of the last layer. -/
def ConvBlock.k (cb : ConvBlock) : Nat :=
  match cb.layers.getLast? with
  | some l =>
    let fa := if cb.layers.length ≤ 1 then cb.act.fmt else (cb.layers.getD (cb.layers.length - 2) l).out.fmt
    let g := match modeOf l.wt.fmt fa with | some m => m.g | none => 8
    l.cd.taps * l.cd.cp g (l.wt.fmt.mx || fa.mx)
  | none => 1

/-- CONV. -/
def evalConv (we : WorkEnv) (cb : ConvBlock) (pro : Option Posy) (e : Ev) : Ev :=
  (tileBoxes cb.t3 cb.t2 0 (cb.full cb.k)).foldl (fun e b => convTile we cb pro b.1 e) e

/-! ### POOL (R229) -/

/-- 1 ÷ n rounded to nearest FP32, n of 1 or more. -/
def recipF32 (n : Nat) : Word :=
  let q := 2 ^ 60 / n
  toF32 (valOfInt (2 * q + (if 2 ^ 60 % n = 0 then 0 else 1) : Nat) (-61))

/-- The fold of the taps of a pooled element (R229), each as element and scale codes: value, and cause and inputs of the first NaN. -/
def poolOver (mode : Nat) (f : Fmt) (xs : List (Nat × Nat)) : Word × Option (Nat × Word × Word) :=
  let note := fun (n : Option (Nat × Word × Word)) (r a b : Word) =>
    match n with
    | some x => some x
    | none => if isNaN32 r then some (if isNaN32 a || isNaN32 b then 2 else 1, shown a, shown b) else none
  let r := xs.foldl (fun (acc : Word × Option (Nat × Word × Word)) y =>
    let x := toF32 (coreVal f y)
    let v := if mode = 1 then fmax acc.1 x else fadd acc.1 x
    (v, note (note acc.2 x x 0) v acc.1 x)) (if mode = 1 then f32NegInf else f32NegZero, none)
  if mode = 1 then r
  else if xs.isEmpty then (f32Zero, r.2)
  else
    let k := recipF32 xs.length
    let v := fmul r.1 k
    (v, note r.2 v r.1 k)

/-- A pooled element over the taps of its window. -/
def poolFold (c : ConvDesc) (t : Tensor) (m : Mem) (o : List Nat) (b ch : Nat) : Word × Option (Nat × Word × Word) :=
  poolOver c.mode t.fmt (((List.range c.taps).filter fun k => c.mode != 3 || c.insideTap o k).map fun k => c.act c.cIn t m o b (k * c.cIn + ch))

/-- One row of a POOL epilogue: the folds, the posy, the store and its statistics. -/
def poolRow (we : WorkEnv) (cb : ConvBlock) (l : ConvLayer) (n0 n1 : Nat) (o : List Nat) (b : Nat) (acc : Ev × VEng) : Ev × VEng :=
  let (e, y) := acc
  let fs := (List.range (n1 - n0)).map fun j => poolFold l.cd cb.act e.mem o b (n0 + j)
  let coord := fun k => convCoord l.cd 0 o b (n0 + k)
  let e := (numbered fs).foldl (fun (e : Ev) f => e.note (f.2.2.map fun x =>
    { inA := x.2.1, inB := x.2.2, coord := coord f.1, core := we.core, site := 3, cause := x.1 })) e
  let row := l.cd.rowNum o
  let r := posyRow we l.epi l.out e.mem row b 0 n0 n1 (fun _ c => (fs.getD (c - n0) (0, none)).1) true none y
  let e := e.note (rowSite we 3 r.nan coord)
  ({ e with mem := putStat l.epi (l.cd.putCols l.out e.mem o b n0 (r.vals n0 n1)) (n0 / 1024) row b r.y }, r.y)

/-- POOL. -/
def evalPool (we : WorkEnv) (cb : ConvBlock) (e : Ev) : Ev :=
  match cb.layers.head? with
  | none => e
  | some l =>
    (tileBoxes cb.t3 cb.t2 0 (cb.full 1)).foldl (fun e b =>
      (passBoxes cb.t1 b.1).foldl (fun e p =>
        ((passRows cb.t1.order p).foldl (fun acc r => poolRow we cb l (p.lo 1) (p.hi 1) [r.lo 4, r.lo 5, r.lo 6] (r.lo 3) acc) (e, {})).1) e) e

end Sys2Proof.Machine
end

