-- ==== Sys2Proof/Machine/Parse.lean ====
section
/-! DEFINITION. Blocks as they stand in memory and the checks on them that many commands share: tensor descriptors (Table
4.3, R504), level descriptors (Table 4.5, R99 to R105), slots (R101) and posy blocks (R130, Table 5.9). A failure is a code,
an item and a detail; of one table's failures the lowest code is reported (R113). -/

namespace Sys2Proof.Machine

/-- Code, ERR_ITEM, ERR_DETAIL. -/
abbrev Failure := Nat × Nat × Nat

/-- One failure when a condition holds. -/
def flag (b : Bool) (f : Failure) : List Failure := if b then [f] else []

/-- The first failure of one table: the lowest code, and the first of that code. -/
def lowest (fs : List Failure) : Option Failure :=
  fs.foldl (fun (acc : Option Failure) f =>
    match acc with
    | none => some f
    | some g => if f.1 < g.1 then some f else some g) none

/-- The first failure of tables taken in order. -/
def firstOf (gs : List (List Failure)) : Option Failure := gs.findSome? lowest

/-- A 64-byte descriptor. -/
def desc64 (m : Mem) (a : Nat) : Nat := leNat (m.read a 64)

/-- Does a range lie in device memory. -/
def inDevice (a n : Nat) : Bool := decide (a + n ≤ devTop)

/-! ### Tensor descriptors -/

def tensorOf (v : Nat) : Tensor :=
  { base := bits v 511 448, scaleBase := bits v 447 384, e0 := bits v 383 352, e1 := bits v 351 320, e2 := bits v 319 288,
    e3 := bits v 287 256, s1 := bits v 255 216, s2 := bits v 215 176, s3 := bits v 175 136, pad := bits v 135 120,
    fmt := (fmtOfCode (bits v 119 112)).getD ⟨.bf16, false⟩ }

/-- Strides that break Table 4.3 or R98 for a row of n bytes: only those of dimensions whose extent is above 1. -/
def Tensor.strideBad (t : Tensor) (n : Nat) : Bool :=
  let bad := fun e s low => decide (1 < e) && (s % 64 != 0 || decide (s < low))
  bad t.e1 t.s1 n || bad t.e2 t.s2 (n * t.e1) || bad t.e3 t.s3 (n * t.e1 * t.e2)

/-- Does an extent of 0 appear. -/
def Tensor.empty (t : Tensor) : Bool := t.e0 == 0 || t.e1 == 0 || t.e2 == 0 || t.e3 == 0

/-- Bytes from BASE to the end of the last row of n bytes. -/
def Tensor.spanOf (t : Tensor) (n : Nat) : Nat := (t.e1 - 1) * t.s1 + (t.e2 - 1) * t.s2 + (t.e3 - 1) * t.s3 + n

/-- FORMAT, EXTENT and PAD checks of a tensor (Table 4.7); `fp32` where R22 allows FP32. -/
def formFails (v item detail : Nat) (fp32 : Bool) : List Failure :=
  let t := tensorOf v
  let known := (fmtOfCode (bits v 119 112)).isSome
  let w := t.fmt.elem.width
  flag (!known || bits v 111 0 != 0 || (known && t.fmt.elem == .fp32 && !fp32) || (known && !t.fmt.mx && t.scaleBase != 0)) (0x0211, item, detail) ++
  flag t.empty (0x0212, item, detail) ++
  flag (known && ((t.fmt.elem == .fp32 && t.pad != 0) || (decide (w < 16) && t.pad / 2 ^ w != 0))) (0x021F, item, detail)

/-- ALIGN checks (Table 4.7) of a tensor placed at BASE. -/
def alignFails (v item detail : Nat) : List Failure :=
  let t := tensorOf v
  flag (t.base % 64 != 0 || (t.fmt.mx && t.scaleBase % 64 != 0) || t.strideBad t.rowBytes || !inDevice t.base (t.spanOf t.rowBytes) ||
    (t.fmt.mx && !inDevice t.scaleBase (t.e1 * t.e2 * t.e3 * t.blocks))) (0x0215, item, detail)

def tensorFails (v item detail : Nat) (fp32 : Bool) : List Failure := formFails v item detail fp32 ++ alignFails v item detail

/-- A MASKBITS stream (R504): elements of one bit. -/
def maskFails (v item detail : Nat) : List Failure :=
  let t := tensorOf v
  let n := cdiv t.e0 8
  flag (bits v 111 0 != 0 || t.scaleBase != 0) (0x0211, item, detail) ++ flag t.empty (0x0212, item, detail) ++
  flag (t.base % 64 != 0 || t.strideBad n || !inDevice t.base (t.spanOf n)) (0x0215, item, detail) ++
  flag (decide (1 < t.pad)) (0x021F, item, detail)

/-! ### Level descriptors -/

/-- The seven codes of ORDER, outermost first. -/
def orderCodes (raw : Nat) : List Nat := (List.range 7).map fun j => raw / 2 ^ (18 - 3 * j) % 8

def levelOf (v : Nat) : Level :=
  { tm := bits v 511 480, tn := bits v 479 448, tk := bits v 447 416, tb := bits v 415 384, ts0 := bits v 383 352,
    ts1 := bits v 351 320, ts2 := bits v 319 288, order := (orderCodes (bits v 287 267)).takeWhile (fun d => d != 7),
    level := bits v 266 264, aOff := bits v 263 244, aDepth := bits v 243 241, aGran := bits v 240 239, wOff := bits v 238 219,
    wDepth := bits v 218 216, wGran := bits v 215 214, oOff := bits v 213 194, oDepth := bits v 193 191, oGran := bits v 190 189,
    slack := bits v 188 173, dies := bits v 172 169, orderRaw := orderCodes (bits v 287 267) }

/-- A tile size cut at the tensor's extent (R95). -/
def Level.cut (l : Level) (ext : List Nat) (d : Nat) : Nat := min (l.sizes.getD d 1) (ext.getD d 1)

/-- Rows of a tile: M, B, S0 to S2. -/
def Level.rows (l : Level) (ext : List Nat) : Nat := l.cut ext 0 * l.cut ext 3 * l.cut ext 4 * l.cut ext 5 * l.cut ext 6

/-- Is a list free of repeats. -/
def distinct : List Nat → Bool
  | [] => true
  | a :: r => !r.contains a && distinct r

/-- Sizes and order of a level in dimension d under its parent's sizes (R95, R102). -/
def dimFails (item : Nat) (l : Level) (parent : Option Level) (ext : List Nat) (d : Nat) : List Failure :=
  let size := l.sizes.getD d 1
  let e := ext.getD d 1
  let p := match parent with | some q => q.sizes.getD d 1 | none => e
  flag (decide (0 < size) && decide (1 < cdiv (min p e) size) && !l.order.contains d) (0x0216, item, d) ++
  flag (size == 0 || decide (min p e < min size e) || (parent.isSome && decide (p < e) && p % size != 0)) (0x0217, item, d)

/-- Checks of one level that need no operand (Table 4.7). -/
def oneLevelFails (item code : Nat) (raw : Nat) (parent : Option Level) (ext : List Nat) : List Failure :=
  let l := levelOf raw
  flag (l.level != code || bits raw 168 0 != 0 || (code != 2 && l.slack != 0) || (code != 3 && l.dies != 0)) (0x0211, item, 0) ++
  (numbered l.order).flatMap (fun x => flag ((l.order.take x.1).contains x.2) (0x0216, item, x.2)) ++
  ((l.orderRaw.drop l.order.length).filter fun d => d != 7).map (fun d => (0x0216, item, d)) ++
  (List.range 7).flatMap (dimFails item l parent ext)

/-- Slot fields of Table 4.6; the detail is the operand: 0 activation, 1 weight, 2 output. -/
def slotFails (item code : Nat) (l : Level) : List Failure :=
  match code with
  | 3 =>
    flag (decide (2 < l.aDepth) || l.aGran != 0) (0x021C, item, 0) ++ flag (decide (2 < l.wDepth) || l.wGran != 0) (0x021C, item, 1) ++
    flag (decide (2 < l.oDepth) || l.oGran != 0) (0x021C, item, 2)
  | 2 =>
    flag (l.aDepth == 0 || decide (4 < l.aDepth) || decide (1 < l.aGran)) (0x021C, item, 0) ++
    flag (l.wDepth == 0 || decide (4 < l.wDepth) || decide (2 < l.wGran)) (0x021C, item, 1) ++
    flag (l.oDepth == 0 || decide (2 < l.oDepth) || l.oGran != 1) (0x021C, item, 2)
  | _ =>
    flag (l.aDepth != 0 || l.aGran != 0 || l.aOff != 0) (0x021C, item, 0) ++
    flag (l.wDepth != 0 || l.wGran != 0 || l.wOff != 0) (0x021C, item, 1) ++
    flag (l.oDepth == 0 || decide (2 < l.oDepth) || l.oGran != 0) (0x021C, item, 2)

/-- The three level descriptors of a tile block whose descriptors are numbered from `item` (Table 4.7): ext lists the
extents by dimension code, g is the dot group, mx an MX operand, outMx an MX output. -/
def levelFails (item : Nat) (r3 r2 r1 : Nat) (ext : List Nat) (g : Nat) (mx outMx : Bool) : List Failure :=
  let t3 := levelOf r3
  let t2 := levelOf r2
  let t1 := levelOf r1
  let k := ext.getD 2 1
  let split := fun (l : Level) => decide (0 < l.tk) && decide (l.tk < k) && (l.tk % g != 0 || (mx && l.tk % 32 != 0))
  oneLevelFails item 3 r3 none ext ++ oneLevelFails (item + 1) 2 r2 (some t3) ext ++ oneLevelFails (item + 2) 1 r1 (some t2) ext ++
  flag (decide (64 < t1.rows ext)) (0x0218, item + 2, 0) ++
  flag (decide (1024 < t1.cut ext 1) || (outMx && t1.tn % 32 != 0 && decide (t1.tn < ext.getD 1 1))) (0x0218, item + 2, 1) ++
  flag (t1.tk != t2.tk) (0x0218, item + 2, 2) ++
  flag (split t3 || (decide (0 < t2.tk) && decide (t3.tk < k) && t3.tk % t2.tk != 0)) (0x0219, item, 2) ++
  flag (split t2) (0x0219, item + 1, 2) ++
  slotFails item 3 t3 ++ slotFails (item + 1) 2 t2 ++ slotFails (item + 2) 1 t1

/-! ### Slots and capacity (R101, R70, R131) -/

/-- Bytes of a slot that holds rows of n elements: rows at a 64-byte pitch, then the scales; in core memory FP6 counts at
8 bits (R24). -/
def slotSize (f : Fmt) (core : Bool) (rows n : Nat) : Nat :=
  let w := if core then f.elem.widened.width else f.elem.width
  let stored := if f.mx then cdiv n 32 * 32 else n
  let data := rows * roundUp (packedBytes w stored) 64
  roundUp (data + (if f.mx then rows * cdiv n 32 else 0)) 64

/-- Do ranges reach outside [lo, hi) or overlap one another; empty ranges do not count. -/
def clash (lo hi : Nat) : List (Nat × Nat) → Bool
  | [] => false
  | r :: rest =>
    (r.2 != 0 && (decide (r.1 < lo) || decide (hi < r.1 + r.2) || rest.any fun q => overlap r.1 r.2 q.1 q.2)) || clash lo hi rest

/-- Core-memory ranges of one operation: A, W and O slots and the result areas. -/
def coreRanges (t2 t1 : Level) (a w o : Nat) : List (Nat × Nat) :=
  [(t2.aOff * 64, a * t2.aDepth), (t2.wOff * 64, w * t2.wDepth), (t2.oOff * 64, o * t2.oDepth), (t1.oOff * 64, 262144 * t1.oDepth)]

/-- Die-buffer ranges of one operation. -/
def bufRanges (t3 : Level) (a w o : Nat) : List (Nat × Nat) :=
  [(t3.aOff * 64, a * t3.aDepth), (t3.wOff * 64, w * t3.wDepth), (t3.oOff * 64, o * t3.oDepth)]

/-! ### Posy blocks -/

/-- A stream with its raw words. -/
structure RawStream where
  s : Stream
  tensor : Nat
  ctrl : Nat

/-- A posy block with its raw header and streams. -/
structure RawPosy where
  p : Posy
  hdr : Nat
  streams : List RawStream
  stat : Option RawStream
  addr : Nat

/-- Stream descriptor at an address (R131). -/
def streamAt (m : Mem) (a slot : Nat) : RawStream :=
  let t := desc64 m a
  let k := desc64 m (a + 64)
  { s := { slot := slot, t := tensorOf t, bufOff := bits k 511 492, depth := bits k 491 490, shape := bits k 489 488, maskBits := bit1 k 487 }
    tensor := t, ctrl := k }

/-- Extra streams that IN_MASK selects. -/
def maskSlots (mask : Nat) : List Nat := (List.range 4).filter fun i => bit1 mask i

/-- Length of a posy block by its header (R130). -/
def posyLen (h : Nat) : Nat :=
  64 + 128 * (maskSlots (bits h 500 497)).length + 128 * b2n (bit1 h 496) + 128 + 8 * bits h 511 503

/-- The posy block at an address (R130). -/
def posyAt (m : Mem) (a : Nat) : RawPosy :=
  let h := desc64 m a
  let slots := maskSlots (bits h 500 497)
  let n := slots.length
  let st := bit1 h 496
  let streams := (List.range n).map fun j => streamAt m (a + 64 + 128 * j) (slots.getD j 0)
  let stat := if st then some (streamAt m (a + 64 + 128 * n) 9) else none
  let c := a + 64 + 128 * n + 128 * b2n st
  { p := { kind := bits h 502 501, split := bits h 494 487, pair := bit1 h 495, statEn := st, inMask := bits h 500 497
           kinds := [bits h 480 479, bits h 482 481, bits h 484 483, bits h 486 485]
           streams := streams.map fun q => q.s, stat := stat.map fun q => q.s
           consts := (List.range 32).map fun j => BitVec.ofNat 32 (leNat (m.read (c + 4 * j) 4))
           code := (List.range (bits h 511 503)).map fun j => posyInstrOf (leNat (m.read (c + 128 + 8 * j) 8)) }
    hdr := h, streams := streams, stat := stat, addr := a }

/-- Memory that a posy block takes. -/
def RawPosy.reads (r : RawPosy) : List (Nat × Nat) := [(r.addr, posyLen r.hdr)]

/-- What a command gives a posy: its role, whether pair mode may be used, whether the command splits K, whether it is a
ROWSTAT finishing posy, whether STAT_EN may be 1, and the extents it writes. -/
structure Role where
  kind : Nat
  pairOk : Bool := false
  split : Bool := false
  rowstat : Bool := false
  statOk : Bool := true
  e0 : Nat
  e1 : Nat
  e2 : Nat
  e3 : Nat := 1

/-- Tensor checks of a posy's streams (Table 4.7); the detail is the stream slot. -/
def RawPosy.tensors (r : RawPosy) : List Failure :=
  (r.streams.flatMap fun q =>
    if q.s.maskBits then maskFails q.tensor 0 (q.s.slot + 2) else tensorFails q.tensor 0 (q.s.slot + 2) (q.s.shape != 0)) ++
  (match r.stat with | some q => tensorFails q.tensor 0 9 true | none => [])

/-- Registers that an instruction of a posy names. -/
def regsOf (i : PosyInstr) : List Nat :=
  ([i.sa, i.sb, i.sc].take (sourcesOf i.op)).filter (fun x => decide (x < 64)) ++ (if writesReg i.op then [i.dst] else [])

/-- Predicates that an instruction of a posy names. -/
def predsOf (i : PosyInstr) : List Nat :=
  [i.pred] ++ (if i.op == 0x06 || i.op == 0x18 then [i.dst] else []) ++ (if i.op == 0x07 then [i.imm] else [])

/-- Does a CALL of a posy break R169. -/
def callBad (b : Bound) (p : Posy) (role j : Nat) : Bool :=
  let d := b.entry j
  let regs := p.code.flatMap regsOf
  let preds := p.code.flatMap predsOf
  !d.valid || !bit1 d.roles (role - 1) || regs.any (fun x => decide (56 ≤ x) && decide (x < 56 + d.tmp)) ||
    (decide (1 ≤ d.preds) && preds.contains 7) || (decide (2 ≤ d.preds) && preds.contains 6)

/-- Checks of instruction n (Table 5.9). That DST must be 0 where the operation writes no register or predicate is the model's choice (entry 100). -/
def instrFails (b : Bound) (p : Posy) (ro : Role) (n : Nat) (i : PosyInstr) : List Failure :=
  let k := sourcesOf i.op
  let srcs := [i.sa, i.sb, i.sc]
  let isPred := i.op == 0x06 || i.op == 0x18
  flag (!isPosyOp i.op || (srcs.take k).any (fun x => decide (0x66 < x)) || (srcs.drop k).any (fun x => x != 0) || badModifiers i || badImm i ||
    (isPred && decide (7 < i.dst)) || (writesReg i.op && decide (0x66 < i.dst)) ||
    (!isPred && !writesReg i.op && i.dst != 0)) (0x0231, n, 0) ++
  flag (i.e && i.op != 0x08 && i.op != 0x31) (0x0232, n, 0) ++
  flag (i.op == 0x30 && ((decide (2 ≤ i.imm) && decide (i.imm ≤ 5) && !bit1 p.inMask (i.imm - 2)) ||
    (decide (i.imm ≤ 1) && ro.kind != 2) || (i.imm == 1 && !p.pair) || (i.imm == 7 && ro.kind != 1))) (0x0233, n, i.imm) ++
  flag ((i.op == 0x31 && (i.pred != 0 || i.pneg || decide (n < p.split))) ||
    (i.op == 0x1D && !ro.rowstat && (p.split == 0 || decide (n < p.split)))) (0x0235, n, 0) ++
  flag ((isPred && i.dst == 0) || (writesReg i.op && decide (0x40 ≤ i.dst) && decide (i.dst ≤ 0x66))) (0x0236, n, 0) ++
  flag (i.op == 0x38 && callBad b p ro.kind (i.imm % 256)) (0x0239, n, 0)

/-- Does a stream fail to cover what its shape requires (Table 5.9 STREAM_SHAPE). -/
def Stream.short (q : Stream) (ro : Role) : Bool :=
  match q.shape with
  | 1 => decide (q.t.e0 < ro.e0)
  | 2 => decide (q.t.e0 < ro.e1) || decide (q.t.e1 < ro.e2)
  | _ => decide (q.t.e0 < ro.e0) || decide (q.t.e1 < ro.e1) || decide (q.t.e2 < ro.e2) || decide (q.t.e3 < ro.e3)

/-- Checks of one stream's control word and shape. -/
def RawStream.fails (q : RawStream) (ro : Role) : List Failure :=
  let d := q.s.slot + 2
  flag (bits q.ctrl 486 0 != 0 || q.s.shape == 3 || q.s.depth == 0 || q.s.depth == 3) (0x0231, 0, d) ++
  flag ((q.s.maskBits && q.s.shape != 0) || q.s.short ro) (0x0234, 0, d)

/-- Checks of the side stream: FP32 with the extents of R138; EXT3 is the output's (entry 97). -/
def statFails (q : RawStream) (ro : Role) : List Failure :=
  let t := q.s.t
  flag (bits q.ctrl 486 0 != 0 || q.s.shape == 3 || q.s.depth == 0 || q.s.depth == 3) (0x0231, 0, 9) ++
  flag (q.s.maskBits || t.fmt.elem != .fp32 || t.e0 != 4 * cdiv ro.e0 1024 || t.e1 != ro.e1 || t.e2 != ro.e2 || t.e3 != ro.e3) (0x0234, 0, 9)

/-- Table 5.9 for a posy in its role. -/
def RawPosy.fails (r : RawPosy) (b : Bound) (ro : Role) : List Failure :=
  let p := r.p
  let n := p.code.length
  let ends := [n - 1] ++ (if p.split = 0 then [] else [p.split - 1])
  flag (r.addr % 64 != 0 || !inDevice r.addr (posyLen r.hdr)) (0x0230, 0, 0) ++
  flag (p.kind != ro.kind || bits r.hdr 478 0 != 0 || (p.statEn && (!ro.statOk || ro.kind == 1)) || (ro.rowstat && p.split != 0)) (0x0231, 0, 0) ++
  flag (n == 0 || decide (256 < n) || (p.split != 0 && decide (n ≤ p.split))) (0x0232, 0, 0) ++
  ends.flatMap (fun j => match p.code[j]? with | some i => flag (!i.e) (0x0232, j, 0) | none => []) ++
  flag (ro.split && bit1 p.inMask 3) (0x0233, 0, 5) ++
  flag (p.code.countP (fun i => i.op == 0x31) != 1) (0x0235, 0, 0) ++
  flag (p.pair && (ro.kind != 2 || !ro.pairOk)) (0x0237, 0, 0) ++
  (List.range n).flatMap (fun j => match p.code[j]? with | some i => instrFails b p ro j i | none => []) ++
  r.streams.flatMap (fun q => q.fails ro) ++
  (match r.stat with | some q => statFails q ro | none => [])

/-- Core-memory ranges of a posy's stream buffers for a pass of m by b rows and n columns (R131). -/
def Posy.buffers (p : Posy) (m b n : Nat) : List (Nat × Nat) :=
  (p.streams.map fun q =>
    let (r, w) := match q.shape with | 1 => (1, n) | 2 => (b, m) | _ => (m * b, n)
    let size := if q.maskBits then r * roundUp (cdiv w 8) 64 else slotSize q.t.fmt true r w
    (q.bufOff * 64, size * q.depth)) ++
  (match p.stat with | some q => [(q.bufOff * 64, slotSize ⟨.fp32, false⟩ true (m * b) 4 * q.depth)] | none => [])

/-- R172: a posy with STAT_EN needs T1 column tiles of 1,024, or the whole of a smaller N. -/
def statTile (p : Posy) (tn n : Nat) : List Failure :=
  flag (p.statEn && tn != 1024 && !(decide (n < 1024) && tn == n)) (0x0234, 0, 9)

end Sys2Proof.Machine
end

