-- ==== Sys2Proof/Machine/CheckDesc.lean ====
section
/-! DEFINITION. The checks of a fetched descriptor itself: opcode, fields and addresses (13 R334 to R337, Table 13.5) and
board addresses (15 R404, R413, Table 15.2). -/

namespace Sys2Proof.Machine

/-- Where a descriptor stands: a compute ring, a codec ring, or a stage entry of a step list (R231). -/
inductive DescPlace where
  | compute | codec | stage
  deriving DecidableEq, Repr

/-- Opcodes that a stage may have (R234). -/
def stageOp (op : Nat) : Bool :=
  (decide (1 ≤ op) && decide (op ≤ 0x0A)) || op == 0x10 || op == 0x11 || op == 0x13

/-- Opcodes that a ring accepts (Table 13.3). -/
def ringOp (pl : DescPlace) (op : Nat) : Bool :=
  let common := decide (0x10 ≤ op) && decide (op ≤ 0x13)
  match pl with
  | .compute => common || (decide (1 ≤ op) && decide (op ≤ 0x0D))
  | .codec => common || op == 0x20
  | .stage => stageOp op

/-- Fields of a body, high bit and low bit (Tables 13.4, 12.5). -/
def bodyFields (op mode : Nat) : List (Nat × Nat) :=
  match op with
  | 0x01 => [(383, 192)]
  | 0x02 => [(383, 64)]
  | 0x03 => [(383, 256)]
  | 0x04 => [(383, 192)]
  | 0x05 => [(383, 256)]
  | 0x06 => [(383, 256)]
  | 0x07 =>
    match mode with
    | 0 => [(383, 256), (127, 120)]
    | 1 => [(383, 192), (127, 112)]
    | 2 => [(383, 192), (127, 120), (95, 40)]
    | _ => [(383, 256), (127, 120)]
  | 0x08 => [(383, 319)]
  | 0x09 => [(319, 232)]
  | 0x0A => [(319, 160)]
  | 0x0B => [(383, 320)]
  | 0x0C => [(383, 320)]
  | 0x0D => [(383, 284)]
  | 0x10 => [(383, 288)]
  | 0x11 => [(383, 288)]
  | 0x12 => [(383, 383)]
  | 0x13 => [(383, 319)]
  | _ => [(383, 55), (47, 39), (31, 0)]

/-- What a body holds outside its fields. -/
def strayBits (d op mode : Nat) : Nat :=
  let body := bits d 383 0
  body - (bodyFields op mode).foldl (fun n f => n + bits body f.1 f.2 * 2 ^ f.2) 0

/-- DESC_FIELD. -/
def descFieldBad (d op : Nat) : Bool :=
  let mode := bits d 127 120
  bits d 470 448 != 0 || bits d 415 384 != 0 || strayBits d op mode != 0 ||
    (op == 0x07 && (decide (3 < mode) || (mode == 2 && (bits d 63 48 == 0 || decide (8192 < bits d 63 48))))) ||
    (op == 0x0D && bits d 287 286 == 3)

/-- Address fields that name a block, a descriptor or an image, and whether 0 stands for none. -/
def addrFields (op mode : Nat) (d : Nat) : List (Nat × Bool) :=
  let f := fun hi => bits d hi (hi - 63)
  match op with
  | 0x01 => [(f 383, false), (f 319, false), (f 255, true)]
  | 0x02 => [(f 383, false), (f 319, false), (f 255, false), (f 191, false), (f 127, true)]
  | 0x03 => [(f 383, false), (f 319, false)]
  | 0x04 => [(f 383, false), (f 319, false), (f 255, true)]
  | 0x05 => [(f 383, false), (f 319, false)]
  | 0x06 => [(f 383, false), (f 319, false)]
  | 0x07 => [(f 383, false), (f 319, false)] ++ (if mode = 1 then [(f 255, false)] else [])
  | 0x08 => if bit1 d 319 then [] else [(f 383, false)]
  | 0x09 => [(f 319, false)]
  | 0x0A => [(f 319, false)]
  | 0x0B => [(f 383, false)]
  | 0x0C => [(f 383, false)]
  | 0x0D => [(f 383, false)]
  | _ => []

/-- A device address that a command needs: aligned, in device memory, not 0 unless 0 stands for none. -/
def addrFails (x : Nat × Bool) (item : Nat) : List Failure :=
  if isBoard x.1 then [(0x02A0, item, 0)]
  else flag ((x.1 == 0 && !x.2) || x.1 % 64 != 0 || !inDevice x.1 64) (0x0202, item, 0)

/-- A field that accepts a board address (R404), of `n` bytes aligned to `al`; `code` reports a misaligned or absent device
address; `remote` allows another device. -/
def State.boardFails (s : State) (a al n code item : Nat) (remote : Bool) : List Failure :=
  match s.place a with
  | .here x => flag (x % al != 0 || !inDevice x n) (code, item, 0)
  | .there dev x => flag (!remote || !s.routeOk dev) (0x02A0, item, 0) ++ flag (x % al != 0 || !inDevice x n) (code, item, 0)
  | .nowhere => if isBoard a then [(0x02A0, item, 0)] else [(code, item, 0)]

/-- Tables 13.5 and 15.2 for a descriptor of context c. -/
def State.descFails (s : State) (c : Nat) (pl : DescPlace) (d : Nat) : List Failure :=
  let op := bits d 479 472
  let ws := (s.ctx c).hwins
  if !ringOp pl op then [(if pl = .stage then 0x0272 else 0x0200, 0, 0)]
  else
    flag (descFieldBad d op) (0x0201, 0, 0) ++
    (addrFields op (bits d 127 120) d).flatMap (fun x => addrFails x 0) ++
    (match op with
      | 0x08 =>
        if bit1 d 319 then
          flag (bits d 383 320 % 64 != 0) (0x0202, 0, 0) ++ flag ((winFor ws (bits d 383 320) 64 false).isNone) (0x0204, 0, 0)
        else []
      | 0x10 => s.boardFails (bits d 383 320) 64 64 0x0203 0 true
      | 0x11 => s.boardFails (bits d 383 320) 64 64 0x0203 0 false
      | 0x13 =>
        if bit1 d 319 then
          flag (bits d 383 320 % 8 != 0) (0x0202, 0, 0) ++ flag ((winFor ws (bits d 383 320) 8 true).isNone) (0x0204, 0, 0)
        else s.boardFails (bits d 383 320) 8 8 0x0202 0 true
      | _ => [])

/-- What validation reads and checks of a command (R113, R153): the blocks it copies, the tables of its checks in order,
and its work once they pass. -/
structure Plan where
  reads : List (Nat × Nat) := []
  groups : List (List Failure) := []
  work : Option Work := none

/-- A plan that ends at its first failures. -/
def Plan.fail (reads : List (Nat × Nat)) (fs : List Failure) : Plan := { reads := reads, groups := [fs] }

/-- Extra items of a block that lie in device memory are copied; the rest is not read. -/
def readable (rs : List (Nat × Nat)) : List (Nat × Nat) := rs.filter fun r => inDevice r.1 r.2

/-- What validation knows of its surroundings: memory, bound banks, the context's die-buffer allotment and home die. -/
structure VEnv where
  mem : Mem
  bind : Bound
  dbLo : Nat
  dbHi : Nat
  home : Nat

end Sys2Proof.Machine
end

