-- ==== Sys2Proof/Machine/CheckTiled.lean ====
section
/-! DEFINITION. Validation of the tiled commands: MATMUL and CHAIN (Tables 4.7, 5.9, R146), ATTEND (Table 7.4) and CONV and
POOL (Table 8.4). Readings that the spec leaves to inference are in entries 29 to 31. -/

namespace Sys2Proof.Machine

/-- The four extents. -/
def Tensor.exts (t : Tensor) : List Nat := [t.e0, t.e1, t.e2, t.e3]

/-- Does a posy block lie where it may. -/
def RawPosy.placed (r : RawPosy) : Bool := r.addr % 64 == 0 && inDevice r.addr (posyLen r.hdr)

/-- Table 4.7 for the streams of a posy whose block can be read. -/
def RawPosy.forms (r : RawPosy) : List Failure := if r.placed then r.tensors else []

/-- A posy named by an address field, none for 0. -/
def posyOpt (m : Mem) (a : Nat) : Option RawPosy := if a = 0 then none else some (posyAt m a)

/-- A failure list over an optional posy. -/
def onPosy {α : Type} (p : Option RawPosy) (f : RawPosy → List α) : List α :=
  match p with
  | some q => f q
  | none => []

/-- Does TILE_K at T2 split a reduction of k (R107). -/
def Level.splits (l : Level) (k : Nat) : Bool := decide (0 < l.tk) && decide (l.tk < k)

/-- The dot group of a pair of formats; 16 stands in while the mode is not one of Table 2.5. -/
def groupOf (w a : Fmt) : Nat := match modeOf w a with | some m => m.g | none => 16

/-- Is a pair of formats an integer mode. -/
def intMode (w a : Fmt) : Bool := match modeOf w a with | some m => m.isInt | none => false

/-! ### MATMUL and CHAIN -/

/-- The seven places of a tile block as they stand in memory (R92). -/
structure MmRaw where
  a : Nat
  r3 : Nat
  r2 : Nat
  r1 : Nat
  act : Nat
  wt : Nat
  out : Nat
  part : Nat

def mmAt (m : Mem) (a : Nat) : MmRaw :=
  { a := a, r3 := desc64 m a, r2 := desc64 m (a + 64), r1 := desc64 m (a + 128), act := desc64 m (a + 192), wt := desc64 m (a + 256),
    out := desc64 m (a + 320), part := desc64 m (a + 384) }

def MmRaw.split (r : MmRaw) : Bool := (levelOf r.r2).splits (tensorOf r.act).e0

/-- The tile block; `chain` reads no partial-sum descriptor. -/
def MmRaw.block (r : MmRaw) (chain : Bool) : TileBlock :=
  { t3 := levelOf r.r3, t2 := levelOf r.r2, t1 := levelOf r.r1, act := tensorOf r.act, wt := tensorOf r.wt, out := tensorOf r.out,
    part := if r.split && !chain then some (tensorOf r.part) else none }

def MmRaw.bytes (r : MmRaw) (chain : Bool) : Nat := if r.split && !chain then 448 else 384

/-- Extents by dimension code (R94). -/
def TileBlock.exts (tb : TileBlock) : List Nat := [tb.act.e1, tb.wt.e1, tb.act.e0, tb.act.e2, 1, 1, 1]

/-- The epilogue of R266: LD v0 := RES; ST v0 with E. -/
def spillCode : List PosyInstr := [{ op := 0x30, dst := 0, imm := 0 }, { op := 0x31, sa := 0, imm := 8, e := true }]

/-- May a MATMUL's output be FP32 (R266, R268). -/
def mayBeFp32 (tb : TileBlock) (epi : Posy) : Bool := decide (epi.code = spillCode) && !epi.pair && !intMode tb.wt.fmt tb.act.fmt

/-- Slot sizes of one operation in core memory: activation, weight, output (R101). `buf` makes the activation slot a chain
buffer of one T1 row block (R146). -/
def TileBlock.coreSizes (tb : TileBlock) (buf pair : Bool) : Nat × Nat × Nat :=
  let ext := tb.exts
  let g := groupOf tb.wt.fmt tb.act.fmt
  let k := tb.t2.cut ext 2
  let r1 := tb.t1.rows ext
  (slotSize tb.act.fmt true (if buf || tb.t2.aGran != 0 then r1 else tb.t2.rows ext) k,
   slotSize tb.wt.fmt true (if tb.t2.wGran = 0 then tb.t2.cut ext 1 else tb.t1.cut ext 1) (if tb.t2.wGran = 2 then min (32 * g) k else k),
   slotSize tb.out.fmt true (if pair then cdiv r1 2 else r1) (tb.t1.cut ext 1))

/-- Slot sizes at T3. -/
def TileBlock.bufSizes (tb : TileBlock) (pair : Bool) : Nat × Nat × Nat :=
  let ext := tb.exts
  let k := tb.t3.cut ext 2
  let r3 := tb.t3.rows ext
  (slotSize tb.act.fmt false r3 k, slotSize tb.wt.fmt false (tb.t3.cut ext 1) k,
   slotSize tb.out.fmt false (if pair then cdiv r3 2 else r3) (tb.t3.cut ext 1))

/-- Rows in M and B that a prologue runs over: those of its activation slot (R126). -/
def TileBlock.proRows (tb : TileBlock) (buf : Bool) : Nat × Nat :=
  let l := if buf || tb.t2.aGran != 0 then tb.t1 else tb.t2
  (l.cut tb.exts 0, l.cut tb.exts 3)

/-- Core memory of one operation with its posies' buffers (Table 4.7 L1_CAPACITY). -/
def TileBlock.core (tb : TileBlock) (buf : Bool) (epi : Posy) (pro : Option Posy) : List (Nat × Nat) :=
  let z := tb.coreSizes buf epi.pair
  let ext := tb.exts
  let m := tb.t1.cut ext 0
  let b := tb.t1.cut ext 3
  let r := tb.proRows buf
  coreRanges tb.t2 tb.t1 z.1 z.2.1 z.2.2 ++ epi.buffers (if epi.pair then m / 2 else m) b (tb.t1.cut ext 1) ++
    (match pro with | some p => p.buffers r.1 r.2 (tb.t2.cut ext 2) | none => [])

/-- Die-buffer slots of one operation. -/
def TileBlock.bufs (tb : TileBlock) (pair : Bool) : List (Nat × Nat) :=
  let z := tb.bufSizes pair
  bufRanges tb.t3 z.1 z.2.1 z.2.2

/-- Table 4.7 for one operation whose descriptors are numbered from `it`, but for capacity. -/
def MmRaw.fails (r : MmRaw) (it : Nat) (chain : Bool) (epi : Posy) : List Failure :=
  let tb := r.block chain
  let (m, n, k, b) := (tb.act.e1, tb.wt.e1, tb.act.e0, tb.act.e2)
  let mx := tb.act.fmt.mx || tb.wt.fmt.mx
  let levels := numbered [tb.t3, tb.t2, tb.t1]
  tensorFails r.act (it + 3) 0 false ++ tensorFails r.wt (it + 4) 1 false ++ tensorFails r.out (it + 5) 2 (!chain && mayBeFp32 tb epi) ++
  flag (tb.act.e3 != 1) (0x0212, it + 3, 7) ++ flag (tb.wt.e0 != k) (0x0212, it + 4, 2) ++ flag (tb.wt.e2 != 1 || tb.wt.e3 != 1) (0x0212, it + 4, 7) ++
  flag (!epi.pair && tb.out.e1 != m) (0x0212, it + 5, 0) ++ flag (tb.out.e0 != n) (0x0212, it + 5, 1) ++ flag (tb.out.e2 != b) (0x0212, it + 5, 3) ++
  flag (tb.out.e3 != 1) (0x0212, it + 5, 7) ++
  levels.flatMap (fun l => ([4, 5, 6].flatMap fun d => flag (l.2.sizes.getD d 1 != 1) (0x0212, it + l.1, d))) ++
  flag (modeOf tb.wt.fmt tb.act.fmt).isNone (0x0213, it + 4, 1) ++
  levelFails it r.r3 r.r2 r.r1 tb.exts (groupOf tb.wt.fmt tb.act.fmt) mx tb.out.fmt.mx ++
  flag (tb.part.isSome && intMode tb.wt.fmt tb.act.fmt) (0x021A, it + 1, 2) ++
  (match tb.part with
    | some p => tensorFails r.part (it + 6) 2 true ++
        flag (p.fmt.elem != .fp32 || p.exts != tb.out.exts) (0x021B, it + 6, 2)
    | none => [])

/-- PAIR for the epilogue of a MATMUL (R125): sizes odd, a row dimension inside M, or an output not half. -/
def TileBlock.pairFails (tb : TileBlock) : List Failure :=
  let inner := (tb.t1.order.dropWhile fun d => d != 0).drop 1
  flag (tb.t3.tm % 2 != 0 || tb.t2.tm % 2 != 0 || tb.t1.tm % 2 != 0 || tb.out.e1 * 2 != tb.act.e1 ||
    inner.any (fun d => decide (3 ≤ d) && decide (1 < tb.t1.sizes.getD d 1))) (0x0237, 0, 0)

/-- The tile block as it runs: a pair-mode split puts the partial sums of every activation row by the strides of the partial-sum
descriptor, whose EXT1 is the output's (entry 30). -/
def TileBlock.running (tb : TileBlock) : TileBlock := { tb with part := tb.part.map fun p => { p with e1 := tb.act.e1 } }

/-- MATMUL. -/
def planMatmul (v : VEnv) (d : Nat) : Plan :=
  let r := mmAt v.mem (bits d 383 320)
  if !inDevice r.a (r.bytes false) then Plan.fail [] [(0x0210, 0, 0)]
  else
    let epi := posyAt v.mem (bits d 319 256)
    let pro := posyOpt v.mem (bits d 255 192)
    let tb := r.block false
    let (m, n, k, b) := (tb.act.e1, tb.wt.e1, tb.act.e0, tb.act.e2)
    { reads := readable ([(r.a, r.bytes false)] ++ epi.reads ++ onPosy pro RawPosy.reads)
      groups := [
        r.fails 0 false epi.p ++ epi.forms ++ onPosy pro RawPosy.forms ++
          flag (clash 0 0x200000 (tb.core false epi.p (pro.map fun q => q.p))) (0x021D, 1, 0) ++
          flag (clash v.dbLo v.dbHi (tb.bufs epi.p.pair)) (0x021E, 0, 0),
        epi.fails v.bind { kind := 2, pairOk := true, split := r.split, e0 := n, e1 := tb.out.e1, e2 := b } ++
          onPosy pro (fun q => q.fails v.bind { kind := 1, e0 := k, e1 := m, e2 := b }) ++
          statTile epi.p tb.t1.tn n ++ (if epi.p.pair then tb.pairFails else [])]
      work := some (.matmul tb.running epi.p (pro.map fun q => q.p)) }

/-- CHAIN_SHAPE (R146). -/
def chainBad (a b : TileBlock) : Bool :=
  let n1 := a.wt.e1
  let n2 := b.wt.e1
  a.out.base != 0 || a.out.scaleBase != 0 || b.act.base != 0 || b.act.scaleBase != 0 || a.out.e0 != n1 || b.act.e0 != n1 ||
    a.out.e1 != b.act.e1 || a.out.e2 != b.act.e2 || a.out.e3 != b.act.e3 || a.out.fmt != b.act.fmt ||
    a.t3.tm != b.t3.tm || a.t3.tb != b.t3.tb || a.t3.order != b.t3.order || a.t2.tm != b.t2.tm || a.t2.tb != b.t2.tb || a.t2.order != b.t2.order ||
    a.t1.tm != b.t1.tm || a.t2.tn != n1 || b.t2.tk != n1 || a.t2.splits a.act.e0 || b.t2.splits b.act.e0 ||
    b.t2.aDepth == 0 || decide (2 < b.t2.aDepth) || b.t2.aGran != 0 || b.t2.tn != n2 || b.t3.tn != n2

/-- CHAIN: the descriptors of the two blocks are numbered in one series. -/
def planChain (v : VEnv) (d : Nat) : Plan :=
  let r1 := mmAt v.mem (bits d 383 320)
  let r2 := mmAt v.mem (bits d 319 256)
  if !inDevice r1.a 384 then Plan.fail [] [(0x0210, 0, 0)]
  else if !inDevice r2.a 384 then Plan.fail [] [(0x0210, 6, 0)]
  else
    let e1 := posyAt v.mem (bits d 255 192)
    let e2 := posyAt v.mem (bits d 191 128)
    let pro := posyOpt v.mem (bits d 127 64)
    let a := r1.block true
    let b := r2.block true
    { reads := readable ([(r1.a, 384), (r2.a, 384)] ++ e1.reads ++ e2.reads ++ onPosy pro RawPosy.reads)
      groups := [
        r1.fails 0 true e1.p ++ r2.fails 6 true e2.p ++ e1.forms ++ e2.forms ++ onPosy pro RawPosy.forms ++
          flag (clash 0 0x200000 (a.core false e1.p none)) (0x021D, 1, 0) ++
          flag (clash 0 0x200000 (a.core false e1.p none ++ b.core true e2.p (pro.map fun q => q.p))) (0x021D, 7, 0) ++
          flag (clash v.dbLo v.dbHi (a.bufs false ++ b.bufs false)) (0x021E, 0, 0),
        e1.fails v.bind { kind := 2, e0 := a.wt.e1, e1 := a.act.e1, e2 := a.act.e2 } ++
          e2.fails v.bind { kind := 2, e0 := b.wt.e1, e1 := b.act.e1, e2 := b.act.e2 } ++
          onPosy pro (fun q => q.fails v.bind { kind := 1, e0 := b.act.e0, e1 := b.act.e1, e2 := b.act.e2 }) ++
          statTile e1.p a.t1.tn a.wt.e1 ++ statTile e2.p b.t1.tn b.wt.e1 ++ flag (chainBad a b) (0x0238, 0, 0)]
      work := some (.chain a b e1.p e2.p (pro.map fun q => q.p)) }

/-! ### ATTEND -/

/-- Attention descriptor (Table 7.1). -/
def attnOf (v : Nat) : Attn :=
  { ptBase := bits v 511 448, maskBase := bits v 447 384, scale2 := BitVec.ofNat 32 (bits v 383 352), maskArg := BitVec.ofNat 32 (bits v 351 320),
    headStride := bits v 319 280, pOff := bits v 279 260, pFmt := bits v 259 252, topP := bits v 251 243, lastW := bits v 242 235,
    group := bits v 234 229, kvHeads := bits v 228 221, form := bit1 v 220, causal := bit1 v 219, blockDiag := bit1 v 218,
    bitMask := bit1 v 217, stats := bit1 v 216 }

/-- Page list of an entry: where it lies, and its bytes. -/
def seqList (v : Nat) : Nat × Nat := (bits v 511 448, 8 * cdiv (bits v 383 352) 128)

/-- Is the list of an entry one that validation reads. -/
def listOk (v : Nat) : Bool := decide (bits v 383 352 ≤ 1048576) && (seqList v).1 % 8 == 0 && inDevice (seqList v).1 (seqList v).2

/-- Sequence entry with its page list (Table 7.2, R189). -/
def seqOf (m : Mem) (v : Nat) : SeqEntry :=
  let len := bits v 383 352
  { frames := if listOk v then (List.range (cdiv len 128)).map fun i => leNat (m.read ((seqList v).1 + 8 * i) 8) else []
    clover := bits v 447 384, len := len, qPos0 := bits v 351 320, npCap := bits v 319 304 }

/-- Is an FP32 pattern positive, finite and normal. -/
def posNormal (w : Word) : Bool := !bit1 w.toNat 31 && decide (0 < bits w.toNat 30 23) && decide (bits w.toNat 30 23 < 255)

/-- Bytes from a frame address that a page of every KV head reaches. -/
def frameSpan (k v : Tensor) (a : Attn) : Nat :=
  let last := fun (t : Tensor) => max (t.base + t.spanOf t.rowBytes) (if t.fmt.mx then t.scaleBase + t.e1 * t.e2 * t.e3 * t.blocks else 0)
  a.headStride * (a.kvHeads - 1) + max (last k) (last v)

/-- ATT_FIELD. -/
def attFieldBad (raw : Nat) (a : Attn) (seqRaw : List Nat) : Bool :=
  bits raw 215 0 != 0 || seqRaw.any (fun v => bits v 303 0 != 0) || (a.causal && a.blockDiag) || !posNormal a.scale2 || decide (256 < a.topP) ||
    a.group == 0 || a.kvHeads == 0 || (!a.bitMask && a.maskBase != 0) ||
    (a.blockDiag && !(decide (1 ≤ a.maskArg.toNat) && decide (a.maskArg.toNat ≤ 2 ^ 24))) || (!a.causal && !a.blockDiag && a.maskArg != 0)

/-- ATT_SHAPE (R183, R184, R186) with the descriptor and the dimension or operand. That a statistics tensor not in FP32 is reported
so is the model's choice (entry 30). -/
def attShapeFails (t3 t2 t1 : Level) (q k out v : Tensor) (st : Option Tensor) (a : Attn) : List Failure :=
  let d := q.e0
  let dv := out.e0
  let gq := a.group * a.kvHeads
  let no := fun (bad : Bool) (item detail : Nat) => flag bad (0x0251, item, detail)
  (numbered [t3, t2, t1]).flatMap (fun x =>
    let l := x.2
    no (l.tn != dv) x.1 1 ++ no (l.tk != d) x.1 2 ++ no (l.tb != 1) x.1 3 ++ no (l.ts0 != 1) x.1 4 ++ no (l.ts1 != 1) x.1 5 ++ no (l.ts2 != 1) x.1 6 ++
      no (x.1 != 0 && l.order != [0]) x.1 0 ++
      (if x.1 = 0 then no (l.aDepth != 0) 0 0 ++ no (l.wDepth != 0) 0 1 ++ no (l.oDepth != 0) 0 2
       else if x.1 = 1 then no (l.aGran != 1) 1 0 ++ no (l.wGran != 2) 1 1 else [])) ++
  no (d == 0 || decide (256 < d) || q.e2 != gq) 3 0 ++ no (k.exts != [d, 128, 1, 1]) 4 1 ++
  no (dv == 0 || decide (256 < dv) || [out.e1, out.e2, out.e3] != [q.e1, gq, q.e3]) 5 2 ++ no (v.exts != [128, dv, 1, 1]) 6 1 ++
  (match st with | some t => no (t.fmt.elem != .fp32 || t.exts != [4, q.e1, gq, q.e3]) 8 2 | none => [])

/-- Modes that ATTEND allows (R185). -/
def attMode (w a : Fmt) : Bool := match modeOf w a with | some .fp8 => true | some .half => true | _ => false

/-- Pages that a column-form tile command could select (Table 7.4 ATT_FORM). -/
def Attn.pageBound (a : Attn) (np : Nat) : Nat := if a.topP = 0 then np else min np (1 + a.lastW + a.topP)

/-- P·V formats as weight and activation (R185). -/
def AttendBlock.pvFmts (b : AttendBlock) : Fmt × Fmt :=
  let pf : Fmt := (fmtOfCode b.att.pFmt).getD ⟨.bf16, false⟩
  if b.att.form then (pf, b.v.fmt) else (b.v.fmt, pf)

/-- Sizes of the A, W and O slots of ATTEND (R186; entry 30): a Q row block; the largest segment of a key block, of its values or of
the clover index; a pass's output, which in the column form is up to 64 value dimensions by the queries of the T2 tile. -/
def AttendBlock.slotSizes (b : AttendBlock) : Nat × Nat × Nat :=
  let ext := [b.q.e1, b.out.e0, b.q.e0, 1, 1, 1, 1]
  let rows := b.t1.cut ext 0 * (if b.att.form then 1 else b.att.group)
  let np := b.seqs.foldl (fun n q => max n (cdiv q.len 128)) 1
  let pv := b.pvFmts
  let k := slotSize b.k.fmt true (min 1024 (128 * np)) (min (32 * groupOf b.k.fmt b.q.fmt) b.q.e0)
  let v := slotSize b.v.fmt true b.out.e0 (min (32 * groupOf pv.1 pv.2) (128 * np))
  let c := if b.att.topP = 0 then 0 else slotSize ⟨.bf16, false⟩ true (min 1024 np) (min 256 (2 * b.q.e0))
  (slotSize b.q.fmt true rows b.q.e0, max k (max v c),
   if b.att.form then slotSize b.out.fmt true (min 64 b.out.e0) (b.t2.cut ext 0) else slotSize b.out.fmt true rows b.out.e0)

/-- The probability buffer of ATTEND (R200): rows of 1,024 keys. -/
def AttendBlock.probRows (b : AttendBlock) : Nat :=
  let ext := [b.q.e1, b.out.e0, b.q.e0, 1, 1, 1, 1]
  if b.att.form then b.t2.cut ext 0 else b.t1.cut ext 0 * b.att.group

/-- Stream buffers of the epilogue of ATTEND. -/
def AttendBlock.epiBuffers (b : AttendBlock) (epi : Posy) : List (Nat × Nat) :=
  let ext := [b.q.e1, b.out.e0, b.q.e0, 1, 1, 1, 1]
  if b.att.form then epi.buffers (b.t2.cut ext 0) 1 (min 64 b.out.e0) else epi.buffers (b.t1.cut ext 0) b.att.group b.out.e0

/-- ATTEND. Which rows and elements its W, P and O slots are sized for is the model's choice (entry 30). -/
def planAttend (v : VEnv) (d : Nat) : Plan :=
  let tb := bits d 383 320
  let raw := fun i => desc64 v.mem (tb + 64 * i)
  let a := attnOf (raw 7)
  let n := if a.stats then 576 else 512
  if !inDevice tb n then Plan.fail [] [(0x0210, 0, 0)]
  else
    let (t3, t2, t1) := (levelOf (raw 0), levelOf (raw 1), levelOf (raw 2))
    let (q, k, out, vt) := (tensorOf (raw 3), tensorOf (raw 4), tensorOf (raw 5), tensorOf (raw 6))
    let st := if a.stats then some (tensorOf (raw 8)) else none
    let epi := posyAt v.mem (bits d 319 256)
    let ext := [q.e1, out.e0, q.e0, 1, 1, 1, 1]
    let pf : Fmt := (fmtOfCode a.pFmt).getD ⟨.bf16, false⟩
    let pfOk := a.pFmt == 0x13 || a.pFmt == 0x03 || a.pFmt == 0x01 || a.pFmt == 0x02
    let (pw, pa) := if a.form then (pf, vt.fmt) else (vt.fmt, pf)
    let g := groupOf k.fmt q.fmt
    let seqN := if a.ptBase % 64 = 0 && inDevice a.ptBase (64 * q.e3) then q.e3 else 0
    let seqRaw := (List.range seqN).map fun s => desc64 v.mem (a.ptBase + 64 * s)
    let seqs := seqRaw.map (seqOf v.mem)
    let pitch := roundUp (4 * q.e0) 64
    let blk : AttendBlock := { t3 := t3, t2 := t2, t1 := t1, q := q, k := k, out := out, v := vt, att := a, stats := st, seqs := seqs }
    let z := blk.slotSizes
    let core := coreRanges t2 t1 z.1 z.2.1 z.2.2 ++ [(a.pOff * 64, slotSize pf true blk.probRows 1024)] ++ blk.epiBuffers epi.p
    { reads := readable ([(tb, n), (a.ptBase, 64 * seqN)] ++ (seqRaw.filter listOk).map seqList ++ epi.reads)
      groups := [
        tensorFails (raw 3) 3 0 false ++ tensorFails (raw 4) 4 1 false ++ tensorFails (raw 5) 5 2 false ++ tensorFails (raw 6) 6 1 false ++
          (if a.stats then tensorFails (raw 8) 8 2 true else []) ++ epi.forms ++
          flag (k.e0 != q.e0) (0x0212, 4, 2) ++ flag (modeOf k.fmt q.fmt).isNone (0x0213, 4, 1) ++
          levelFails 0 (raw 0) (raw 1) (raw 2) ext g (q.fmt.mx || k.fmt.mx) out.fmt.mx ++
          flag (clash 0 0x200000 core) (0x021D, 1, 0) ++ flag (clash v.dbLo v.dbHi (bufRanges t3 0 0 0)) (0x021E, 0, 0),
        flag (attFieldBad (raw 7) a seqRaw) (0x0250, 7, 0) ++
          attShapeFails t3 t2 t1 q k out vt st a ++
          flag (!attMode k.fmt q.fmt) (0x0252, 4, 1) ++ flag (a.form && out.fmt.mx) (0x0252, 5, 2) ++ flag (!attMode pw pa) (0x0252, 6, 1) ++
          flag (!pfOk) (0x0252, 7, 0) ++
          flag (a.form && decide (1024 < t2.tm)) (0x0253, 1, 0) ++
          flag (if a.form then decide (64 < t1.tm) else decide (32 < t1.tm * a.group)) (0x0253, 2, 0) ++
          flag (a.headStride % 64 != 0 || a.ptBase % 64 != 0 || !inDevice a.ptBase (64 * q.e3)) (0x0254, 7, 0) ++
          flag (seqRaw.any (fun x => !listOk x) ||
            seqs.any (fun x => x.frames.any fun f => f % 64 != 0 || !inDevice f (frameSpan k vt a))) (0x0254, 0, 0) ++
          flag (a.topP != 0 && seqs.any (fun x => x.clover == 0 || decide (x.npCap < x.pages) ||
            !inDevice x.clover (a.kvHeads * x.npCap * pitch))) (0x0255, 0, 0) ++
          flag (a.form && seqs.any (fun x => decide (64 * groupOf pw pa < a.pageBound x.pages * 128))) (0x0256, 7, 0) ++
          [(k, 4), (vt, 6)].flatMap (fun x =>
            let p := decodeElem x.1.fmt.elem x.1.pad
            flag (p.isNaN || p.isInf) (0x0257, x.2, 0)),
        epi.fails v.bind { kind := 2, statOk := false, e0 := out.e0, e1 := q.e1, e2 := q.e2, e3 := q.e3 }]
      work := some (.attend blk epi.p) }

/-! ### CONV and POOL -/

/-- Convolution descriptor (Table 8.1). -/
def convOf (v : Nat) : ConvDesc :=
  { inp := [bits v 511 480, bits v 479 448, bits v 447 416], batch := bits v 415 384, cIn := bits v 383 368, cOut := bits v 367 352
    f := [bits v 351 344, bits v 343 336, bits v 335 328], st := [bits v 327 320, bits v 319 312, bits v 311 304]
    dl := [bits v 303 296, bits v 295 288, bits v 287 280], pl := [bits v 279 264, bits v 263 248, bits v 247 232]
    ph := [bits v 231 216, bits v 215 200, bits v 199 184], epiAddr := bits v 183 120, bufOff := bits v 119 100, dims := bits v 99 98
    layers := bits v 97 95, mode := bits v 94 93, s2d := bits v 92 91, d2s := bits v 90 89, packIn := bit1 v 88, packOut := bit1 v 87 }

/-- Extents of Table 8.2. -/
def ConvDesc.actExt (c : ConvDesc) : List Nat :=
  let x := fun d => c.inp.getD d 1
  if c.packIn then [x 0 * c.cIn, x 1, x 2 * c.batch, 1] else [c.cIn, x 0, x 1, x 2 * c.batch]
def ConvDesc.wtExt (c : ConvDesc) : List Nat := [c.cR, c.taps, c.n, 1]
def ConvDesc.outExt (c : ConvDesc) : List Nat :=
  let x := fun d => c.out d * c.qAt d
  if c.packOut then [x 0 * c.cOut, x 1, x 2 * c.batch, 1] else [c.cOut, x 0, x 1, x 2 * c.batch]

/-- CONV_FIELD of layer j of n. -/
def convFieldBad (raw : Nat) (c : ConvDesc) (j n : Nat) (pool : Bool) : Bool :=
  bits raw 86 0 != 0 || c.dims == 0 || (if j = 0 then c.layers == 0 else c.layers != 0) ||
    (c.f ++ c.st ++ c.dl).any (fun x => x == 0) ||
    [0, 1, 2].any (fun d => decide (c.dims ≤ d) && (c.inp.getD d 1 != 1 || c.f.getD d 1 != 1 || c.st.getD d 1 != 1 || c.dl.getD d 1 != 1 ||
      c.pl.getD d 0 != 0 || c.ph.getD d 0 != 0)) ||
    ((pool || j + 1 == n) && (c.epiAddr != 0 || c.bufOff != 0))

/-- Positions of a window that layers `cds` need for an output tile of extents e (R225). -/
def windowSize (cds : List ConvDesc) (e : List Nat) : Nat :=
  ([0, 1, 2].map fun d => (windowBack cds d (0, ((e.getD d 1 : Nat) : Int))).2.toNat).foldl (fun a b => a * b) 1

/-- One layer as memory holds it. -/
structure RawLayer where
  wt : Nat
  out : Nat
  cd : Nat
  epi : RawPosy

/-- A CONV block as memory holds it. -/
structure ConvRaw where
  a : Nat
  r3 : Nat
  r2 : Nat
  r1 : Nat
  act : Nat
  layers : List RawLayer
  part : Nat

/-- The work of a CONV or POOL. Between fused layers one row is one position (R227), whatever the layouts say. -/
def ConvRaw.block (r : ConvRaw) (split : Bool) : ConvBlock :=
  let n := r.layers.length
  { t3 := levelOf r.r3, t2 := levelOf r.r2, t1 := levelOf r.r1, act := tensorOf r.act
    layers := (numbered r.layers).map fun x =>
      let c := convOf x.2.cd
      let o := tensorOf x.2.out
      let mid := decide (x.1 + 1 < n)
      let c : ConvDesc := { c with packIn := c.packIn && x.1 == 0, packOut := c.packOut && !mid }
      let e := c.outExt
      { wt := tensorOf x.2.wt, cd := c, epi := x.2.epi.p, ext := o.exts
        out := if mid then { o with e0 := e.getD 0 1, e1 := e.getD 1 1, e2 := e.getD 2 1, e3 := e.getD 3 1 } else o }
    part := if split then some (tensorOf r.part) else none }

/-- Formats that layer j reads. -/
def ConvRaw.actFmt (r : ConvRaw) (j : Nat) : Fmt :=
  if j = 0 then (tensorOf r.act).fmt else match r.layers[j - 1]? with | some l => (tensorOf l.out).fmt | none => (tensorOf r.act).fmt

/-- Extents of the tiles by dimension code (R217). -/
def ConvBlock.exts (b : ConvBlock) (k : Nat) : List Nat :=
  match b.layers.getLast? with
  | some l => [1, l.cd.n, k, l.cd.batch, l.cd.out 0, l.cd.out 1, l.cd.out 2]
  | none => [1, 1, 1, 1, 1, 1, 1]

/-- Extents of a T2 tile's output positions. -/
def ConvBlock.tile (b : ConvBlock) (ext : List Nat) : List Nat := [b.t2.cut ext 4, b.t2.cut ext 5, b.t2.cut ext 6]

/-- Window buffers of the layers before the last: byte offset and size (R227, R101). -/
def ConvBlock.windows (b : ConvBlock) (ext : List Nat) : List (Nat × Nat) :=
  let cds := b.layers.map fun l => l.cd
  (numbered (b.layers.take (b.layers.length - 1))).map fun x =>
    (x.2.cd.bufOff * 64, slotSize x.2.out.fmt true (b.t2.cut ext 3 * windowSize (cds.drop (x.1 + 1)) (b.tile ext)) x.2.cd.n)

/-- Core memory of a CONV or POOL but for its windows. -/
def ConvBlock.core (b : ConvBlock) (ext : List Nat) (pool : Bool) (pro : Option Posy) : List (Nat × Nat) :=
  let cds := b.layers.map fun l => l.cd
  let pos := b.t2.cut ext 3 * windowSize cds (b.tile ext)
  let c0 := match cds.head? with | some c => c.cR | none => 1
  let wOf := fun (x : Nat × ConvLayer) =>
    let fa := if x.1 = 0 then b.act.fmt else (b.layers.getD (x.1 - 1) x.2).out.fmt
    let g := groupOf x.2.wt.fmt fa
    let k := x.2.cd.taps * x.2.cd.cp g (x.2.wt.fmt.mx || fa.mx)
    if x.1 + 1 < b.layers.length then slotSize x.2.wt.fmt true x.2.cd.n k
    else
      let kk := b.t2.cut ext 2
      slotSize x.2.wt.fmt true (if b.t2.wGran = 0 then b.t2.cut ext 1 else b.t1.cut ext 1) (if b.t2.wGran = 2 then min (32 * g) kk else kk)
  let w := if pool then 0 else ((numbered b.layers).map wOf).foldl (fun x y => x + y) 0
  let out := match b.layers.getLast? with | some l => l.out.fmt | none => b.act.fmt
  coreRanges b.t2 b.t1 (slotSize b.act.fmt true pos c0) w (slotSize out true (b.t1.rows ext) (b.t1.cut ext 1)) ++
    ((numbered b.layers).flatMap fun x =>
      if x.1 + 1 < b.layers.length then x.2.epi.buffers 64 1 x.2.cd.n
      else x.2.epi.buffers (b.t1.cut ext 4 * b.t1.cut ext 5 * b.t1.cut ext 6) (b.t1.cut ext 3) (b.t1.cut ext 1)) ++
    (match pro with | some p => p.buffers pos 1 c0 | none => [])

/-- Die-buffer slots of a CONV or POOL. -/
def ConvBlock.bufs (b : ConvBlock) (ext : List Nat) (pool : Bool) : List (Nat × Nat) :=
  bufRanges b.t3
    (slotSize b.act.fmt false (b.t3.cut ext 3 * windowSize (b.layers.map fun l => l.cd) [b.t3.cut ext 4, b.t3.cut ext 5, b.t3.cut ext 6])
      (match b.layers.head? with | some l => l.cd.cR | none => 1))
    (if pool then 0 else match b.layers.getLast? with | some l => slotSize l.wt.fmt false (b.t3.cut ext 1) (b.t3.cut ext 2) | none => 0)
    (match b.layers.getLast? with | some l => slotSize l.out.fmt false (b.t3.rows ext) (b.t3.cut ext 1) | none => 0)

/-- Do windows overlap otherwise than R227 permits: adjacent layers' windows, or a window and the rest of core memory, or
past its end. -/
def windowsBad (ws rest : List (Nat × Nat)) : Bool :=
  let get := fun i => ws.getD i (0, 0)
  ws.any (fun w => decide (0x200000 < w.1 + w.2) || rest.any fun r => overlap w.1 w.2 r.1 r.2) ||
    (List.range (ws.length - 1)).any fun i => overlap (get i).1 (get i).2 (get (i + 1)).1 (get (i + 1)).2

/-- Table 4.7 for a CONV or POOL: `item` numbers the descriptors of layer j: weight, output, convolution. -/
def ConvRaw.fails (r : ConvRaw) (b : ConvBlock) (ext : List Nat) (pool split : Bool) (item : Nat → Nat × Nat × Nat) : List Failure :=
  let g := match b.layers.getLast? with | some l => groupOf l.wt.fmt (r.actFmt (b.layers.length - 1)) | none => 16
  let mx := match b.layers.getLast? with | some l => l.wt.fmt.mx || (r.actFmt (b.layers.length - 1)).mx | none => false
  let outMx := match b.layers.getLast? with | some l => l.out.fmt.mx | none => false
  tensorFails r.act 3 0 false ++
  ((numbered r.layers).flatMap fun x =>
    let i := item x.1
    let c := convOf x.2.cd
    (if pool then [] else tensorFails x.2.wt i.1 1 false) ++ tensorFails x.2.out i.2.1 2 false ++
    flag ([0, 1, 2].any fun d => decide (d < c.dims) && decide (c.nu d < 0)) (0x0212, i.2.2, 0) ++
    flag (!pool && (modeOf (tensorOf x.2.wt).fmt (r.actFmt x.1)).isNone) (0x0213, i.1, 1) ++ x.2.epi.forms) ++
  levelFails 0 r.r3 r.r2 r.r1 ext (if pool then 1 else g) (!pool && mx) outMx ++
  (if split then
    (match b.layers.getLast? with
      | some l => flag (intMode l.wt.fmt b.act.fmt) (0x021A, 1, 2) ++ tensorFails r.part 7 2 true ++
          flag ((tensorOf r.part).fmt.elem != .fp32 || (tensorOf r.part).exts != l.out.exts) (0x021B, 7, 2)
      | none => [])
  else [])

/-- Table 8.4. -/
def ConvRaw.convFails (r : ConvRaw) (b : ConvBlock) (ext : List Nat) (pool split : Bool) (rest : List (Nat × Nat)) (item : Nat → Nat × Nat × Nat) : List Failure :=
  let n := r.layers.length
  let c0 := match r.layers.head? with | some l => convOf l.cd | none => convOf 0
  let cl := match r.layers.getLast? with | some l => convOf l.cd | none => convOf 0
  let fused := decide (1 < n)
  flag ((tensorOf r.act).exts != c0.actExt) (0x0261, 3, 0) ++
  ((numbered r.layers).flatMap fun x =>
    let i := item x.1
    let c := convOf x.2.cd
    let o := tensorOf x.2.out
    let mid := decide (x.1 + 1 < n)
    let prev := if x.1 = 0 then none else r.layers[x.1 - 1]?.map fun l => convOf l.cd
    let nxt := r.layers[x.1 + 1]?.map fun l => convOf l.cd
    flag (convFieldBad x.2.cd c x.1 n pool) (0x0260, i.2.2, 0) ++
    flag (!pool && (tensorOf x.2.wt).exts != c.wtExt) (0x0261, i.1, 1) ++ flag (o.exts != c.outExt) (0x0261, i.2.1, 2) ++
    flag (pool && c.cIn != c.cOut) (0x0261, i.2.2, 0) ++
    flag (match prev with
      | some p => c.cIn != p.cOut || c.batch != p.batch || [0, 1, 2].any fun d => c.inp.getD d 1 != p.out d
      | none => false) (0x0261, i.2.2, 0) ++
    flag ([0, 1, 2].any (fun d => decide (d < c.dims) && c.inp.getD d 1 % c.r != 0) || (c.packIn && (r.actFmt x.1).mx) || (c.packOut && o.fmt.mx) ||
      (c.d2s != 0 && (o.fmt.mx || split))) (0x0262, i.2.2, 0) ++
    flag (mid && (o.base != 0 || o.scaleBase != 0)) (0x0263, i.2.1, 2) ++
    flag (mid && (c.d2s != 0 || decide (1024 < c.n) || c.epiAddr == 0 || x.2.epi.p.kind != 2)) (0x0263, i.2.2, 0) ++
    flag (match nxt with | some y => y.s2d != 0 | none => false) (0x0263, (item (x.1 + 1)).2.2, 0) ++
    flag (c.mode != 0 && !pool) (0x0265, i.2.2, 0)) ++
  flag (decide (4 < n) || (fused && windowsBad (b.windows ext) rest)) (0x0263, (item 0).2.2, 0) ++
  flag (fused && decide (2 ^ 28 ≤ cl.out 2 * cl.qAt 2 * cl.batch)) (0x0263, (item (n - 1)).2.2, 0) ++
  (numbered [b.t3, b.t2, b.t1]).flatMap (fun x => flag (fused && x.2.tk != ext.getD 2 1) (0x0263, x.1, 2)) ++
  (match b.layers.getLast? with
    | some l =>
      let cp := l.cd.cp (groupOf l.wt.fmt b.act.fmt) (l.wt.fmt.mx || b.act.fmt.mx)
      flag (split && !pool && b.t3.splits (ext.getD 2 1) && b.t3.tk % cp != 0) (0x0264, 0, 2) ++
        flag (b.t2.aGran != 0) (0x0264, 1, 0) ++ flag (split && !pool && b.t2.tk % cp != 0) (0x0264, 1, 2)
    | none => []) ++
  (if pool then
    (numbered [b.t3, b.t2, b.t1]).flatMap (fun x => flag (x.2.tk != 1) (0x0265, x.1, 2)) ++ flag b.act.fmt.isInt (0x0265, 3, 0) ++
      flag (match b.layers.head? with | some l => l.out.fmt.isInt | none => false) (0x0265, 4, 2) ++
      flag (c0.mode == 0 || c0.layers != 1 || c0.s2d != 0 || c0.d2s != 0) (0x0265, 5, 0)
  else [])

/-- A CONV or POOL whose block is read. M and B of its STAT tensor, O0·O1·O2 and the images, are the model's choice (entry 97). -/
def planSpatial (v : VEnv) (r : ConvRaw) (bytes : Nat) (pool split : Bool) (pro : Option RawPosy) (item : Nat → Nat × Nat × Nat) : Plan :=
  let b := r.block split
  let k := if pool then 1 else b.k
  let ext := b.exts k
  let core := b.core ext pool (pro.map fun q => q.p)
  let n := r.layers.length
  { reads := readable ([(r.a, bytes)] ++ (r.layers.flatMap fun l => l.epi.reads) ++ onPosy pro RawPosy.reads)
    groups := [
      r.fails b ext pool split item ++ onPosy pro RawPosy.forms ++ flag (clash 0 0x200000 core) (0x021D, 1, 0) ++
        flag (clash v.dbLo v.dbHi (b.bufs ext pool)) (0x021E, 0, 0),
      r.convFails b ext pool split core item,
      ((numbered b.layers).flatMap fun x => match r.layers[x.1]? with
        | some l => l.epi.fails v.bind { kind := 2, split := split, e0 := x.2.cd.n, e1 := x.2.cd.out 0 * x.2.cd.out 1 * x.2.cd.out 2, e2 := x.2.cd.batch } ++
            (if x.1 + 1 < n then [] else statTile l.epi.p b.t1.tn x.2.cd.n)
        | none => []) ++
        onPosy pro (fun q => q.fails v.bind { kind := 1, e0 := b.act.e0, e1 := b.act.e1, e2 := b.act.e2, e3 := b.act.e3 })]
    work := some (if pool then .pool b else .conv b (pro.map fun q => q.p)) }

/-- CONV (R213). -/
def planConv (v : VEnv) (d : Nat) : Plan :=
  let a := bits d 383 320
  let raw := fun i => desc64 v.mem (a + 64 * i)
  let n := max 1 (bits (raw 6) 97 95)
  let layer := fun j : Nat =>
    ({ wt := raw (4 + 3 * j), out := raw (5 + 3 * j), cd := raw (6 + 3 * j)
       epi := posyAt v.mem (if j + 1 = n then bits d 319 256 else bits (raw (6 + 3 * j)) 183 120) } : RawLayer)
  let r : ConvRaw := { a := a, r3 := raw 0, r2 := raw 1, r1 := raw 2, act := raw 3, layers := (List.range n).map layer, part := raw 7 }
  let split := n == 1 && (levelOf (raw 1)).splits (r.block false).k
  let bytes := 64 * (4 + 3 * n + b2n split)
  if !inDevice a bytes then Plan.fail [] [(0x0210, 0, 0)]
  else planSpatial v r bytes false split (posyOpt v.mem (bits d 255 192)) fun j => (4 + 3 * j, 5 + 3 * j, 6 + 3 * j)

/-- POOL (R229). -/
def planPool (v : VEnv) (d : Nat) : Plan :=
  let a := bits d 383 320
  let raw := fun i => desc64 v.mem (a + 64 * i)
  let r : ConvRaw := { a := a, r3 := raw 0, r2 := raw 1, r1 := raw 2, act := raw 3
                       layers := [{ wt := 0, out := raw 4, cd := raw 5, epi := posyAt v.mem (bits d 319 256) }], part := 0 }
  if !inDevice a 384 then Plan.fail [] [(0x0210, 0, 0)]
  else planSpatial v r 384 true false none fun _ => (4, 4, 5)

end Sys2Proof.Machine
end

