-- ==== Sys2Proof/Machine/Picture.lean ====
section
/-! DEFINITION. Pictures in memory (12 R311), the SCALE pipeline (12 R323, R324), the inverse transform of the JPEG decoders
(12 R322), the quantiser tables of JPEG_ENC (12 R303) and block complexity (12 R314). -/

namespace Sys2Proof.Machine

/-! ### Layouts -/

/-- A plane: offset from the picture's address, pitch, samples in a row, rows. -/
structure Plane where
  off : Nat
  pitch : Nat
  n : Nat
  rows : Nat
  deriving DecidableEq, Repr

/-- Element of a tensor layout code of Table 12.9. -/
def tensorElem (fmt : Nat) : Elem :=
  match fmt with
  | 5 => .bf16
  | 6 => .fp16
  | 7 => .int8
  | _ => .e4m3

/-- Bytes of a sample or of an element. -/
def sampleBytes (fmt : Nat) (ten : Bool) : Nat :=
  if fmt < 5 then (if ten then 2 else 1) else (tensorElem fmt).width / 8

/-- Places planes one after another, each from a 64-byte boundary, with pitches of multiples of 64: samples per row and
rows of each. -/
def placePlanes (b : Nat) : Nat → List (Nat × Nat) → List Plane
  | _, [] => []
  | off, p :: r =>
    let pitch := roundUp (p.1 * b) 64
    { off := off, pitch := pitch, n := p.1, rows := p.2 : Plane } :: placePlanes b (off + pitch * p.2) r

/-- Planes of a picture of w by h in a layout of Table 12.9: 0 semi-planar 4:2:0, 1 to 3 planar 4:4:4, 4:2:2, 4:2:0, 4
greyscale (also a monochrome picture), 5 to 8 packed tensors. -/
def planesOf (fmt : Nat) (ten : Bool) (w h : Nat) : List Plane :=
  let (w2, h2) := (cdiv w 2, cdiv h 2)
  placePlanes (sampleBytes fmt ten) 0 (
    match fmt with
    | 0 => [(w, h), (2 * w2, h2)]
    | 1 => [(w, h), (w, h), (w, h)]
    | 2 => [(w, h), (w2, h), (w2, h)]
    | 3 => [(w, h), (w2, h2), (w2, h2)]
    | 4 => [(w, h)]
    | _ => [(3 * w, h)])

/-- Bytes of a picture, to the end of its last plane's last pitch. -/
def pictureBytes (fmt : Nat) (ten : Bool) (w h : Nat) : Nat :=
  ((planesOf fmt ten w h).map fun p => p.off + p.pitch * p.rows).foldl max 0

/-- Bytes of its samples. -/
def sampleTotal (fmt : Nat) (ten : Bool) (w h : Nat) : Nat :=
  ((planesOf fmt ten w h).map fun p => p.n * p.rows * sampleBytes fmt ten).foldl (fun a b => a + b) 0

/-- A stored number of `b` bytes at sample x of row y of a plane. -/
def Mem.sample (m : Mem) (base b : Nat) (p : Plane) (x y : Nat) : Nat := leNat (m.read (base + p.off + y * p.pitch + x * b) b)

/-- Writes the planes of a picture from their numbers: plane, sample, row. Bytes between rows are not written. -/
def Mem.putPicture (m : Mem) (base b : Nat) (ps : List Plane) (f : Nat → Nat → Nat → Nat) : Mem :=
  ((List.range ps.length).zip ps).foldl (fun m q =>
    (List.range q.2.rows).foldl (fun m y =>
      m.write 64 (base + q.2.off + y * q.2.pitch) ((List.range q.2.n).flatMap fun x => leBytes b (f q.1 x y)) false) m) m

/-! ### SCALE -/

/-- Clamps to the range of samples. -/
def clampSample (ten : Bool) (i : Int) : Int := clampInt 0 (if ten then 1023 else 255) i

/-- A sample that the spec does not state: a component that a greyscale source lacks, or one outside the picture (entry 33). -/
def openSample (ten : Bool) (d c x y : Nat) : Int :=
  ((leNat [Config.codecByte d (4 * (x + 16384 * (y + 16384 * c))), Config.codecByte d (4 * (x + 16384 * (y + 16384 * c)) + 1)]) %
    (if ten then 1024 else 256) : Nat)

/-- An element of a tensor source as a sample (R324, stage 1). -/
def tensorSample (fmt : Nat) (ten : Bool) (gain off : Word) (code : Nat) : Int :=
  let v := if fmt = 7 then toF32 (valOfInt (signExtend 8 code) 0) else toF32 (decodeElem (tensorElem fmt) code)
  let r := fma v gain off
  if isNaN32 r then 0 else clampSample ten (ftoi r).toInt

/-- Component c of the source at full resolution (R324, stages 1 and 2). -/
def srcSample (m : Mem) (q : ScaleBlock) (d c x y : Nat) : Int :=
  let ten := q.depth
  let b := sampleBytes q.sfmt ten
  let ps := planesOf q.sfmt ten q.sw q.sh
  let at_ := fun i x y => (((m.sample q.src b (ps.getD i ⟨0, 0, 0, 0⟩) x y) % (if ten then 1024 else 256) : Nat) : Int)
  match q.sfmt with
  | 0 => if c = 0 then at_ 0 x y else at_ 1 (2 * (x / 2) + (c - 1)) (y / 2)
  | 1 => at_ c x y
  | 2 => if c = 0 then at_ 0 x y else at_ c (x / 2) y
  | 3 => if c = 0 then at_ 0 x y else at_ c (x / 2) (y / 2)
  | 4 => if c = 0 then at_ 0 x y else openSample ten d c x y
  | _ => tensorSample q.sfmt ten q.tgain q.toff (m.sample q.src b (ps.getD 0 ⟨0, 0, 0, 0⟩) (3 * x + c) y)

/-- Position that destination index i reads, along an axis with source n and destination k (R324, stage 3). -/
def axisPos (n k i : Nat) : Nat :=
  let rho := n * 65536 / k
  min ((i * rho + rho / 2) - 32768) ((n - 1) * 65536)

/-- One axis of the resize. -/
def resizeAxis (bilinear : Bool) (n k : Nat) (f : Nat → Int) (i : Nat) : Int :=
  let p := axisPos n k i
  if bilinear then
    let j := p / 65536
    let w := p / 1024 % 64
    (f j * (64 - w : Nat) + f (min (j + 1) (n - 1)) * (w : Nat) + 32) / 64
  else f ((p + 32768) / 65536)

/-- A component after both passes, horizontal first. -/
def resized (m : Mem) (q : ScaleBlock) (d c x y : Nat) : Int :=
  resizeAxis q.bilinear q.sh q.dh (fun v => resizeAxis q.bilinear q.sw q.dw (fun u => srcSample m q d c u v) x) y

/-- Output component c after the colour map (R324, stage 4). -/
def mapped (m : Mem) (q : ScaleBlock) (d c x y : Nat) : Int :=
  if x < q.dw ∧ y < q.dh then
    let sum := ((List.range 3).map fun k => q.m.getD (3 * c + k) 0 * (resized m q d k x y - q.ioff.getD k 0)).foldl (fun a b => a + b) 0
    clampSample q.depth ((sum + 2048) / 4096 + q.ooff.getD c 0)
  else openSample q.depth d (4 + c) x y

/-- A chroma sample of a 4:2:0 or 4:2:2 destination (R324, stage 5). -/
def chroma420 (m : Mem) (q : ScaleBlock) (d c x y : Nat) : Int :=
  (mapped m q d c (2 * x) (2 * y) + mapped m q d c (2 * x + 1) (2 * y) + mapped m q d c (2 * x) (2 * y + 1) +
    mapped m q d c (2 * x + 1) (2 * y + 1) + 2) / 4

def chroma422 (m : Mem) (q : ScaleBlock) (d c x y : Nat) : Int :=
  (mapped m q d c (2 * x) y + mapped m q d c (2 * x + 1) y + 1) / 2

/-- A sample as an element of a tensor destination (R324, stage 6). -/
def sampleTensor (fmt : Nat) (gain off : Word) (s : Int) : Nat :=
  encodeElem (tensorElem fmt) (f32 (fma (toF32 (valOfInt s 0)) gain off))

/-- The number stored at sample x of row y of plane i of the destination. -/
def dstSample (m : Mem) (q : ScaleBlock) (d i x y : Nat) : Nat :=
  match q.dfmt with
  | 0 => if i = 0 then (mapped m q d 0 x y).toNat else (chroma420 m q d (1 + x % 2) (x / 2) y).toNat
  | 1 => (mapped m q d i x y).toNat
  | 2 => if i = 0 then (mapped m q d 0 x y).toNat else (chroma422 m q d i x y).toNat
  | 3 => if i = 0 then (mapped m q d 0 x y).toNat else (chroma420 m q d i x y).toNat
  | 4 => (mapped m q d 0 x y).toNat
  | _ => sampleTensor q.dfmt q.tgain q.toff (mapped m q d (x % 3) (x / 3) y)

/-- Memory after a SCALE. -/
def runScale (m : Mem) (q : ScaleBlock) (d : Nat) : Mem :=
  m.putPicture q.dst (sampleBytes q.dfmt q.depth) (planesOf q.dfmt q.depth q.dw q.dh) (dstSample m q d)

/-! ### JPEG -/

/-- round(2^12 × cos(mπ ÷ 16)). -/
def cos16 (m : Nat) : Int :=
  let t : List Int := [4096, 4017, 3784, 3406, 2896, 2276, 1567, 799, 0]
  let k := m % 32
  if k ≤ 8 then t.getD k 0
  else if k ≤ 16 then -(t.getD (16 - k) 0)
  else if k ≤ 24 then -(t.getD (k - 16) 0)
  else t.getD (32 - k) 0

/-- The coefficient a(u, x). -/
def idctCoef (u x : Nat) : Int := if u = 0 then 2896 else cos16 ((2 * x + 1) * u)

/-- Sample (x, y) of a block of dequantised coefficients F(u, v) (R322). -/
def idct (f : Nat → Nat → Int) (x y : Nat) : Int :=
  let s := fun v => (((List.range 8).map fun u => idctCoef u x * f u v).foldl (fun a b => a + b) 0 + 1024) / 2048
  let g := ((List.range 8).map fun v => idctCoef v y * s v).foldl (fun a b => a + b) 0
  clampInt 0 255 ((g + 16384) / 32768 + 128)

/-- An entry of the quantiser tables of JPEG_ENC at quality q (R303). -/
def jpegQuant (q entry : Nat) : Nat :=
  max 1 (min 255 (if q < 50 then (entry * 5000 + 50 * q) / (100 * q) else (entry * (200 - 2 * q) + 50) / 100))

/-- Layout of a JPEG picture of sampling code JSAMP (R311): 0 greyscale, 1 4:4:4, 2 4:2:2, 3 4:2:0. -/
def jpegLayout (samp : Nat) : Nat := if samp = 0 then 4 else samp

/-- MCU that holds sample (x, y) of plane i: 8 × 8 blocks, 16 luma columns or rows where chroma is subsampled. -/
def mcuOf (samp w i x y : Nat) : Nat :=
  let (sx, sy) := (if 2 ≤ samp then 2 else 1, if samp = 3 then 2 else 1)
  let (bx, by_) := if i = 0 then (x / (8 * sx), y / (8 * sy)) else (x / 8, y / 8)
  bx + cdiv w (8 * sx) * by_

/-- MCUs of an image. -/
def mcuCount (samp w h : Nat) : Nat := cdiv w (if 2 ≤ samp then 16 else 8) * cdiv h (if samp = 3 then 16 else 8)

/-- A decoded JPEG sample: the block's transform, or 128 in a lost MCU of a baseline image (R317, R322). -/
def jpegSample (key samp w : Nat) (lost : Nat → Bool) (progressive : Bool) (i x y : Nat) : Nat :=
  if !progressive && lost (mcuOf samp w i x y) then 128
  else
    let blk := i + 3 * (x / 8 + 4096 * (y / 8))
    (idct (fun u v => Config.jpegCoef key blk (u + 8 * v)) (x % 8) (y % 8)).toNat

/-! ### Block statistics (R314) -/

/-- CPLX of block (bx, by) of a luma plane: samples inside the picture, sum of distances from the mean ÷ 16. -/
def complexity (luma : Nat → Nat → Nat) (w h bx by_ : Nat) : Nat :=
  let xs := (List.range 16).map fun k => 16 * bx + k
  let ys := (List.range 16).map fun k => 16 * by_ + k
  let vs := (ys.filter fun y => decide (y < h)).flatMap fun y => (xs.filter fun x => decide (x < w)).map fun x => luma x y
  let mean := vs.foldl (fun a b => a + b) 0 / vs.length
  min 16383 ((vs.map fun v => (v - mean) + (mean - v)).foldl (fun a b => a + b) 0 / 16)

/-- The free bits of block j of a coded picture: its vector, its SAD, and whether it is intra. -/
def blockBits (key j : Nat) : Nat := leNat ((List.range 8).map fun i => Config.codecByte (Nat.pair key 1) (8 * j + i))

/-- Is a decoded block intra. -/
def blockIntra (key : Nat) (mustIntra : Nat → Bool) (j : Nat) : Bool := mustIntra j || bit1 (blockBits key j) 0

/-- The middle one of three. -/
def median (a b c : Int) : Int := max (min a b) (min (max a b) c)

/-- Quarter samples rounded to whole samples, half away from zero (R317). -/
def wholeSample (v : Int) : Int := if 0 ≤ v then (v + 2) / 4 * 4 else -((-v + 2) / 4 * 4)

/-- Vectors of the 16 × 16 blocks of a picture nx blocks wide, in raster order: a lost block has the rounded median of its neighbours to the
left, above and above right (R317), an intra block none, another the one that its bits hold. -/
def blockVectors (key nx n : Nat) (lost mustIntra : Nat → Bool) : List (Int × Int) :=
  (List.range n).foldl (fun vs j =>
    let near := fun (ok : Bool) (i : Nat) => if ok then vs.getD i (0, 0) else ((0, 0) : Int × Int)
    let a := near (j % nx != 0) (j - 1)
    let b := near (decide (nx ≤ j)) (j - nx)
    let c := near (decide (nx ≤ j) && decide (j % nx + 1 < nx)) (j + 1 - nx)
    vs ++ [if lost j then (wholeSample (median a.1 b.1 c.1), wholeSample (median a.2 b.2 c.2))
           else if blockIntra key mustIntra j then (0, 0)
           else (signExtend 16 (bits (blockBits key j) 63 48), signExtend 16 (bits (blockBits key j) 47 32))]) []

/-- An entry of Table 12.8: vector, SAD, complexity; a concealed block has SAD 0. -/
def statsEntry (v : Int × Int) (sad cplx : Nat) (concealed intra : Bool) : Nat :=
  let word := fun (x : Int) => (clampInt (-32768) 32767 x % 65536).toNat
  word v.1 * 2 ^ 48 + word v.2 * 2 ^ 32 + (if concealed then 0 else sad * 2 ^ 16) + cplx * 4 + 2 * b2n concealed + b2n intra

/-- The statistics array at an address. -/
def Mem.putStats (m : Mem) (a key w h : Nat) (lost mustIntra : Nat → Bool) (vs : List (Int × Int)) (luma : Nat → Nat → Nat) : Mem :=
  let nx := cdiv w 16
  let pitch := roundUp (8 * nx) 64
  (List.range (cdiv h 16)).foldl (fun m y =>
    m.write 64 (a + y * pitch) ((List.range nx).flatMap fun x =>
      let j := x + nx * y
      leBytes 8 (statsEntry (vs.getD j (0, 0)) (bits (blockBits key j) 31 16) (complexity luma w h x y) (lost j)
        (!lost j && blockIntra key mustIntra j))) false) m

end Sys2Proof.Machine
end

