-- ==== Sys2Proof/Machine/Vector.lean ====
section
/-! DEFINITION. Standalone vector commands: POSY (05 R128), REDUCE FOLD (03 R85), ROWSTAT (06 R173, R174), CLOVER (07 R205),
TRANSPOSE (10 R264), FILL (13 R335), NOISE (09 R247, 13 R336) and WUPD (10 R270, R271, R273); and a run of any of the
commands that compute. -/

namespace Sys2Proof.Machine

/-- Indices of the rows of a tensor. -/
def Tensor.rows (t : Tensor) : List (Nat × Nat × Nat) := rowIndices t.e1 t.e2 t.e3

/-- Pieces of 1,024 elements of a row (R128). -/
def pieces (n : Nat) : List (Nat × Nat) := cuts 1024 (0, n)

/-- One piece of a standalone row. -/
def standalonePiece (we : WorkEnv) (p : Posy) (out : Tensor) (stat : Option (Nat → Nat → Word)) (i : Nat × Nat × Nat) (x : Nat × (Nat × Nat))
    (acc : Ev × VEng) : Ev × VEng :=
  let (e, y) := acc
  let (lo, hi) := x.2
  let o := posyRow we p out e.mem i.1 i.2.1 i.2.2 lo hi (fun _ _ => 0) false stat y
  let e := e.note (rowSite we 4 o.nan fun c => [lo + c, i.1, i.2.1, i.2.2])
  let m := out.putRow e.mem lo i.1 i.2.1 i.2.2 (o.vals lo hi) false
  let m := match p.stat with
    | some q => q.t.putRow m (4 * x.1) i.1 i.2.1 i.2.2 o.y.s false
    | none => m
  ({ e with mem := m }, o.y)

/-- Rows of a standalone posy, in order (R128). -/
def standalone (we : WorkEnv) (p : Posy) (out : Tensor) (stat : (Nat × Nat × Nat) → Option (Nat → Nat → Word)) (e : Ev) : Ev :=
  (out.rows.foldl (fun acc i => (numbered (pieces out.e0)).foldl (fun acc x => standalonePiece we p out (stat i) i x acc) acc) (e, {})).1

/-- POSY. -/
def evalPosy (we : WorkEnv) (p : Posy) (out : Tensor) (e : Ev) : Ev := standalone we p out (fun _ => none) e

/-- NaN of a loaded element (R50). -/
def loadSite (we : WorkEnv) (coord : List Nat) (v : Word) : Option NanSite := seqSite we 4 0 coord v v 0 0

/-- Register value of an FP32 result as the destination's ST reads it (R137, R264). -/
def forStore (f : Fmt) (v : Val) : Word := if f.isInt then BitVec.ofNat 32 (encodeInt 32 v) else toF32 v

/-! ### Fixed sequences over chunks of 128 elements (R128, R276) -/

/-- A fixed sequence: its rows and their columns, what it reads for n columns from c of row r, what it writes there, and its first NaN. -/
structure FixedSpec where
  rows : Nat
  cols : Nat
  ins : Nat → Nat → Nat → List (Nat × Nat)
  go : WorkEnv → Mem → Nat → Nat → Nat → List (Nat × List Byte) × Option NanSite
  cost : Option Nat := none

/-- A fixed sequence over some rows, chunk by chunk. -/
def FixedSpec.over (f : FixedSpec) (we : WorkEnv) (rs : List Nat) (e : Ev) : Ev :=
  rs.foldl (fun e r => (chunkStarts 0 f.cols).foldl (fun (e : Ev) c =>
    let o := f.go we e.mem r c.1 c.2
    { e.note o.2 with mem := e.mem.puts o.1 }) e) e

def FixedSpec.eval (f : FixedSpec) (we : WorkEnv) (e : Ev) : Ev := f.over we (List.range f.rows) e

/-- Bytes of n elements of a row of a tensor from column c, and of their scales. -/
def Tensor.runBytes (t : Tensor) (c n i1 i2 i3 : Nat) : List (Nat × Nat) :=
  let w := t.fmt.elem.width
  (t.rowAddr i1 i2 i3 + c * w / 8, cdiv (c * w % 8 + n * w) 8) ::
    (if t.fmt.mx then [(t.scaleAddr (c / 32) i1 i2 i3, cdiv (c % 32 + n) 32)] else [])

/-- First NaN among n lanes. -/
def firstLane (n : Nat) (f : Nat → Option NanSite) : Option NanSite := (List.range n).findSome? f

/-- A list read by lane. -/
def laneOf (l : List Word) (j : Nat) : Word := l.getD j 0

/-- The fold of the parts of n lanes (R85), part by part: values and first NaN. -/
def foldLanes (we : WorkEnv) (coord : Nat → List Nat) (n : Nat) : List (List Word) → List Word × Option NanSite
  | [] => (List.replicate n f32Zero, none)
  | p :: r => r.foldl (fun (acc : List Word × Option NanSite) q =>
      let v := (acc.1.zip q).map fun x => fadd x.1 x.2
      (v, acc.2 <|> firstLane n (fun l => loadSite we (coord l) (laneOf q l)) <|>
        firstLane n (fun l => seqSite we 4 0 (coord l) (laneOf v l) (laneOf acc.1 l) (laneOf q l) 0)))
      (p, firstLane n fun l => loadSite we (coord l) (laneOf p l))

/-- REDUCE FOLD (R85). -/
def foldSpec (a b : Tensor) : FixedSpec :=
  let row := fun r => b.rows.getD r (0, 0, 0)
  { rows := b.rows.length, cols := b.e0
    ins := fun r c n => let i := row r; (List.range a.e3).flatMap fun p => a.runBytes c n i.1 i.2.1 p
    go := fun we m r c n =>
      let i := row r
      let v := foldLanes we (fun l => [c + l, i.1, i.2.1, i.2.2]) n ((List.range a.e3).map fun p => (List.range n).map fun l => a.load m (c + l) i.1 i.2.1 p)
      (rowWrites m b c i.1 i.2.1 i.2.2 (v.1.map fun x => forStore b.fmt (f32 x)), v.2) }

def evalFold (we : WorkEnv) (a b : Tensor) (e : Ev) : Ev := (foldSpec a b).eval we e

/-- Slots of a row of a STAT tensor folded over its records (R173), with the first NaN. -/
def foldRecords (we : WorkEnv) (a : Tensor) (m : Mem) (kinds : List Nat) (row bat slot : Nat) : Word × Option NanSite :=
  let k := kinds.getD slot 0
  let rec_ := fun t => a.load m (4 * t + slot) row bat 0
  let coord := [row, bat, 0, 0]
  (List.range (a.e0 / 4 - 1)).foldl (fun (acc : Word × Option NanSite) t =>
    let q := rec_ (t + 1)
    let v := statCombine k acc.1 q
    (v, acc.2 <|> loadSite we coord q <|> seqSite we 4 0 coord v acc.1 q 0)) (rec_ 0, loadSite we coord (rec_ 0))

/-- REDUCE ROWSTAT (R174): the fold of every row, then the finishing posy over the factor tensor. -/
def evalRowstat (we : WorkEnv) (a b : Tensor) (kinds : List Nat) (p : Posy) (e : Ev) : Ev :=
  let m := e.mem
  let e := (rowIndices a.e1 a.e2 1).foldl (fun (e : Ev) i => (List.range 4).foldl (fun (e : Ev) s =>
    e.note (foldRecords we a m kinds i.1 i.2.1 s).2) e) e
  standalone we p b (fun i => some fun slot col => (foldRecords we a m kinds col i.1 slot).1) e

/-- BF16 code of an FP32 pattern rounded toward +∞ (up) or −∞ (R205): neither saturates. -/
def bf16Toward (up : Bool) (w : Word) : Nat :=
  match f32 w with
  | .nan => 0x7FC0
  | .inf neg => if neg then 0xFF80 else 0x7F80
  | .fin neg 0 _ => if neg then 0x8000 else 0
  | .fin neg _ _ => w.toNat / 65536 + (if w.toNat % 65536 ≠ 0 ∧ neg ≠ up then 1 else 0)

/-- REDUCE CLOVER (R205): rows are heads by pages, columns the dimensions of hi, beside those of lo; a page with no key below LEN has
no stated value (entry 27). -/
def cloverSpec (q : SeqEntry) (k : Tensor) (stride first npages heads : Nat) : FixedSpec :=
  let at_ := fun r => (r / npages, first + r % npages)
  let tensor := fun r => pageTensor k (q.frames.getD (at_ r).2 0) stride (at_ r).1
  let keys := fun r => (List.range 128).filter fun j => decide (128 * (at_ r).2 + j < q.len)
  { rows := heads * npages, cols := k.e0
    ins := fun r c n => (keys r).flatMap fun j => (tensor r).runBytes c n j 0 0
    go := fun we m r c n =>
      let (h, page) := at_ r
      let cols := (List.range n).map fun e => (keys r).map fun j => (tensor r).load m (c + e) j 0 0
      let nan := (numbered cols).foldl (fun (x : Option NanSite) y => y.2.foldl (fun x v => x <|> loadSite we [c + y.1, page, h, 0] v) x) none
      let a := q.clover + (h * q.npCap + page) * roundUp (4 * k.e0) 64
      let free := fun o => (List.range (2 * n)).map fun j => Config.freeByte we.pe.draw (a + o + j)
      let side := fun (up : Bool) (f : Word → Word → Word) => cols.flatMap fun x => leBytes 2 (bf16Toward up (x.tail.foldl f (x.headD 0)))
      ([(a + 2 * c, if (keys r).isEmpty then free (2 * c) else side true fmax),
        (a + 2 * (k.e0 + c), if (keys r).isEmpty then free (2 * (k.e0 + c)) else side false fmin)], nan) }

def evalClover (we : WorkEnv) (q : SeqEntry) (k : Tensor) (stride first npages heads : Nat) (e : Ev) : Ev :=
  (cloverSpec q k stride first npages heads).eval we e

/-- REDUCE TRANSPOSE (R264). -/
def transposeSpec (a b : Tensor) : FixedSpec :=
  let row := fun r => b.rows.getD r (0, 0, 0)
  { rows := b.rows.length, cols := b.e0
    ins := fun r c n => let i := row r; (List.range n).flatMap fun l => a.runBytes i.1 1 (c + l) i.2.1 0
    go := fun we m r c n =>
      let i := row r
      let vs := (List.range n).map fun l => a.val m i.1 (c + l) i.2.1 0
      (rowWrites m b c i.1 i.2.1 i.2.2 (vs.map (forStore b.fmt)),
        if a.fmt.isInt then none else firstLane n fun l => loadSite we [c + l, i.1, i.2.1, 0] (toF32 (vs.getD l (.fin false 0 0)))) }

def evalTranspose (we : WorkEnv) (a b : Tensor) (e : Ev) : Ev := (transposeSpec a b).eval we e

/-- FILL (R335): every element holds VALUE, every block scale SCALE, and positions beyond EXT0 the PAD code. -/
def fillSpec (out : Tensor) (value scale : Nat) : FixedSpec :=
  let row := fun r => out.rows.getD r (0, 0, 0)
  { rows := out.rows.length, cols := out.e0, ins := fun _ _ _ => []
    go := fun _ m r c n =>
      let i := row r
      let a := out.rowAddr i.1 i.2.1 i.2.2
      let w := out.fmt.elem.width
      let k := n + out.tailPads (c + n)
      let m' := putCodes m 64 a w c (List.replicate n value ++ List.replicate (k - n) out.pad) false
      let len := cdiv (c * w % 8 + k * w) 8
      ((a + c * w / 8, m'.read (a + c * w / 8) len) ::
        (if out.fmt.mx then [(out.scaleAddr (c / 32) i.1 i.2.1 i.2.2, List.replicate (cdiv n 32) (BitVec.ofNat 8 scale))] else []), none) }

def evalFill (out : Tensor) (value scale : Nat) (e : Ev) : Ev := (fillSpec out value scale).eval { pe := { bind := { ex2 := [], lg2 := [], micro := [], std := false } }, core := 0 } e

/-- NOISE (R247, R336): the bound NORMAL for each element. -/
def noiseSpec (out : Tensor) : FixedSpec :=
  let row := fun r => out.rows.getD r (0, 0, 0)
  { rows := out.rows.length, cols := out.e0, ins := fun _ _ _ => []
    go := fun we m r c n =>
      let i := row r
      let o := chunkCall we.pe.bind (seqChunk we.pe out i c n) 0x10 fun _ => 0
      let vs := (List.range n).map o.1
      let coord := fun l => [c + l, i.1, i.2.1, i.2.2]
      (rowWrites m out c i.1 i.2.1 i.2.2 (vs.map fun v => forStore out.fmt (f32 v)),
        microSite we 4 0 coord o.2 <|> firstLane n fun l => seqSite we 4 0 (coord l) (laneOf vs l) 0 0 0) }

def evalNoise (we : WorkEnv) (out : Tensor) (e : Ev) : Ev := (noiseSpec out).eval we e

/-- What WUPD leaves of some elements: new masters, moments, and the first NaN. -/
structure WupdOut where
  x : List Word
  m : List Word
  v : List Word
  nan : Option NanSite

/-- FP32 of the BF16 value nearest to an FP32 value. -/
def toBf16 (w : Word) : Word := BitVec.ofNat 32 (encodeElem .bf16 (f32 w) * 65536)

/-- WUPD of the n elements of a chunk (R270, R273), operation by operation: operands as FP32, gradient parts, the element index of lane 0. -/
def wupdChunk (we : WorkEnv) (u : Wupd) (ch : Chunk) (coord : Nat → List Nat) (e n : Nat) (parts : List (List Word)) (xOld mOld vOld : List Word) : WupdOut :=
  let each := fun (f : Nat → Word) => (List.range n).map f
  let site := fun (r : List Word) (a b c : Nat → Word) => firstLane n fun l => seqSite we 4 0 (coord l) (laneOf r l) (a l) (b l) (c l)
  let k := fun (w : Word) (_ : Nat) => w
  let load := fun (r : List Word) => site r (laneOf r) (k 0) (k 0)
  let g0 := foldLanes we coord n parts
  let g := each fun l => fmul (laneOf g0.1 l) u.gscale
  let adaptive := u.algo == 1
  let g1 := if adaptive then each fun l => fmul u.oneB1 (laneOf g l) else g
  let m1 := each fun l => fma u.beta1 (laneOf mOld l) (laneOf g1 l)
  let mSt := m1.map toBf16
  let first := load xOld <|> load mOld <|> load vOld <|> g0.2 <|> site g (laneOf g0.1) (k u.gscale) (k 0) <|>
    (if adaptive then site g1 (k u.oneB1) (laneOf g) (k 0) else none) <|> site m1 (k u.beta1) (laneOf mOld) (laneOf g1)
  let g2 := each fun l => fmul (laneOf g l) (laneOf g l)
  let h2 := each fun l => fmul u.oneB2 (laneOf g2 l)
  let v1 := each fun l => fma u.beta2 (laneOf vOld l) (laneOf h2 l)
  let vSt := if adaptive then v1.map toBf16 else vOld
  let root := each fun l => fma (laneOf vSt l) u.bc2 u.eps2
  let rs := chunkCall we.pe.bind ch 8 (laneOf root)
  let mb := each fun l => fmul (laneOf mSt l) u.bc1
  let inf := fun l => (f32 (laneOf mSt l)).isInf || (f32 (laneOf vSt l)).isInf
  let uu := if !adaptive then mSt else each fun l => if inf l then f32NaN else fmul (laneOf mb l) (rs.1 l)
  let second := if !adaptive then none else
    site g2 (laneOf g) (laneOf g) (k 0) <|> site h2 (k u.oneB2) (laneOf g2) (k 0) <|> site v1 (k u.beta2) (laneOf vOld) (laneOf h2) <|>
      firstLane n (fun l => if inf l then some { inA := shown (laneOf mSt l), inB := shown (laneOf vSt l), coord := coord l, core := we.core, site := 4, cause := 1 } else none) <|>
      site root (laneOf vSt) (k u.bc2) (k u.eps2) <|> microSite we 4 0 coord rs.2 <|> site mb (laneOf mSt) (k u.bc1) (k 0) <|> site uu (laneOf mb) rs.1 (k 0)
  let d := each fun l => fma u.wd (laneOf xOld l) (laneOf uu l)
  let x := each fun l => fma (fneg u.lr) (laneOf d l) (laneOf xOld l)
  let r := fun l => (philox ((e + l + u.eoff) % 2 ^ 64) u.stream u.seed).2.2.1 % 65536
  { x := each fun l => BitVec.ofNat 32 (stochBf16 (laneOf x l) (r l) * 65536), m := mSt, v := vSt
    nan := first <|> second <|> site d (k u.wd) (laneOf xOld) (laneOf uu) <|> site x (k (fneg u.lr)) (laneOf d) (laneOf xOld) }

/-- WUPD (R270, R276): each chunk's operands are read before any of it is written. -/
def wupdSpec (u : Wupd) : FixedSpec :=
  let row := fun r => u.master.rows.getD r (0, 0, 0)
  { rows := u.master.rows.length, cols := u.master.e0
    ins := fun r c n =>
      let i := row r
      let own := fun (t : Tensor) => t.runBytes c n i.1 i.2.1 i.2.2
      own u.master ++ own u.m1 ++ (match u.m2 with | some t => own t | none => []) ++
        (if u.npart = 0 then own u.grad else (List.range u.npart).flatMap fun p => u.grad.runBytes c n i.1 i.2.1 p)
    go := fun we m r c n =>
      let i := row r
      let load := fun (t : Tensor) (i3 : Nat) => (List.range n).map fun l => t.load m (c + l) i.1 i.2.1 i3
      let parts := if u.npart = 0 then [load u.grad i.2.2] else (List.range u.npart).map (load u.grad)
      let o := wupdChunk we u (seqChunk we.pe u.master i c n) (fun l => [c + l, i.1, i.2.1, i.2.2]) (elemIndex u.master false c i.1 i.2.1 i.2.2) n parts
        (load u.master i.2.2) (load u.m1 i.2.2) (match u.m2 with | some t => load t i.2.2 | none => List.replicate n 0)
      let put := fun (t : Tensor) vs => rowWrites m t c i.1 i.2.1 i.2.2 vs
      (put u.master o.x ++ put u.m1 o.m ++ (match u.m2 with | some t => put t o.v | none => []) ++ (match u.fwd with | some t => put t o.x | none => []), o.nan)
    cost := some ((if u.m2.isSome then 126 else 112) + (u.npart - 1) + 2 * b2n u.fwd.isSome) }

def evalWupd (we : WorkEnv) (u : Wupd) (e : Ev) : Ev := (wupdSpec u).eval we e

/-- A whole run of a command that computes; the others leave memory alone. -/
def Work.eval (we : WorkEnv) (w : Work) (e : Ev) : Ev :=
  match w with
  | .matmul tb epi pro => evalMatmul we tb epi pro e
  | .chain tb1 tb2 e1 e2 pro2 => evalChain we tb1 tb2 e1 e2 pro2 e
  | .attend b epi => evalAttend we b epi e
  | .conv b pro => evalConv we b pro e
  | .pool b => evalPool we b e
  | .posy p out => evalPosy we p out e
  | .fold a b => evalFold we a b e
  | .rowstat a b ks p => evalRowstat we a b ks p e
  | .clover q k hs f n kv => evalClover we q k hs f n kv e
  | .transpose a b => evalTranspose we a b e
  | .fill o v s => evalFill o v s e
  | .noise o _ _ => evalNoise we o e
  | .wupd u => evalWupd we u e
  | .ferry _ => e
  | .tableLoad _ _ _ _ _ => e
  | .signal _ _ => e
  | .wait _ _ => e
  | .fence _ => e
  | .stamp _ _ => e
  | .codec _ _ _ => e

/-! ### What a run reads (R294, R352) -/

/-- Byte ranges that hold data of a tensor: positions beyond EXT0 are not used (R294). -/
def Tensor.used (t : Tensor) : List (Nat × Nat) :=
  (t.rows.map fun r => (t.rowAddr r.1 r.2.1 r.2.2, packedBytes t.fmt.elem.width t.e0)) ++
  (if t.fmt.mx then [(t.scaleBase, t.e1 * t.e2 * t.e3 * t.blocks)] else [])

def Stream.used (q : Stream) : List (Nat × Nat) :=
  if q.maskBits then q.t.rows.map fun r => (q.t.rowAddr r.1 r.2.1 r.2.2, cdiv q.t.e0 8) else q.t.used

def Posy.used (p : Posy) : List (Nat × Nat) := p.streams.flatMap Stream.used

/-- Pages that ATTEND may use of a sequence: those that hold a key below LEN, whole rows and scales. -/
def attendUsed (b : AttendBlock) : List (Nat × Nat) :=
  (b.seqs.flatMap fun q => (List.range q.pages).flatMap fun p => (List.range b.att.kvHeads).flatMap fun h =>
    let f := q.frames.getD p 0
    (pageTensor b.k f b.att.headStride h).used ++ (pageTensor b.v f b.att.headStride h).used) ++
  (if b.att.topP = 0 then [] else b.seqs.flatMap fun q => (List.range b.att.kvHeads).flatMap fun h =>
    (List.range q.pages).map fun p => (q.clover + (h * q.npCap + p) * roundUp (4 * b.q.e0) 64, 4 * b.q.e0)) ++
  (if b.att.bitMask then [(b.att.maskBase, maskOffset b b.seqs.length)] else [])

/-- Device memory that a run consumes. Partial sums that it writes itself are not among them. -/
def Work.ins : Work → List (Nat × Nat)
  | .matmul tb epi pro => tb.act.used ++ tb.wt.used ++ epi.used ++ (match pro with | some p => p.used | none => [])
  | .chain tb1 tb2 e1 e2 pro => tb1.act.used ++ tb1.wt.used ++ tb2.wt.used ++ e1.used ++ e2.used ++ (match pro with | some p => p.used | none => [])
  | .attend b epi => b.q.used ++ attendUsed b ++ epi.used
  | .conv b pro => b.act.used ++ (b.layers.flatMap fun l => l.wt.used ++ l.epi.used) ++ (match pro with | some p => p.used | none => [])
  | .pool b => b.act.used ++ b.layers.flatMap fun l => l.epi.used
  | .posy p _ => p.used
  | .fold a _ => a.used
  | .rowstat a _ _ p => a.used ++ p.used
  | .clover q k hs f n kv => (List.range kv).flatMap fun h => (List.range n).flatMap fun j =>
      if q.pages ≤ f + j then [] else (pageTensor k (q.frames.getD (f + j) 0) hs h).used
  | .transpose a _ => a.used
  | .fill _ _ _ => []
  | .noise _ _ _ => []
  | .wupd u => u.master.used ++ u.m1.used ++ (match u.m2 with | some t => t.used | none => []) ++ u.grad.used
  | .ferry _ => []
  | .tableLoad _ _ _ _ _ => []
  | .signal _ _ => []
  | .wait _ _ => []
  | .fence _ => []
  | .stamp _ _ => []
  | .codec _ _ _ => []

end Sys2Proof.Machine
end

