-- ==== Sys2Proof/Machine/CheckVector.lean ====
section
/-! DEFINITION. Validation of the standalone vector commands (Tables 4.7, 5.9, 7.4, 10.4), of FERRY chains (04 R121, R122, 15
R404, R410), of order commands and TABLE_LOAD, and the fetch-time checks of codec descriptors (12 R325). -/

namespace Sys2Proof.Machine

/-! ### POSY, REDUCE, FILL, NOISE -/

/-- POSY (R128): its output is FP32 only as a factor vector (R22). -/
def planPosy (v : VEnv) (d : Nat) : Plan :=
  let p := posyAt v.mem (bits d 383 320)
  let oa := bits d 319 256
  let raw := desc64 v.mem oa
  let out := tensorOf raw
  { reads := readable ([(oa, 64)] ++ p.reads)
    groups := [
      tensorFails raw 0 0 (out.e2 == 1 && out.e3 == 1) ++ p.forms,
      p.fails v.bind { kind := 3, e0 := out.e0, e1 := out.e1, e2 := out.e2, e3 := out.e3 }]
    work := some (.posy p.p out) }

/-- REDUCE FOLD (Table 13.4). -/
def planFold (v : VEnv) (d : Nat) : Plan :=
  let (aa, ba) := (bits d 383 320, bits d 319 256)
  let (ra, rb) := (desc64 v.mem aa, desc64 v.mem ba)
  let (a, b) := (tensorOf ra, tensorOf rb)
  { reads := readable [(aa, 64), (ba, 64)]
    groups := [
      tensorFails ra 0 0 true ++ tensorFails rb 0 0 true ++ flag (b.e3 != 1) (0x0212, 0, 0) ++
        flag (a.fmt.elem != .fp32 || decide (a.e3 < 2) || decide (64 < a.e3) || a.e0 != b.e0 || a.e1 != b.e1 || a.e2 != b.e2) (0x021B, 0, 0)]
    work := some (.fold a b) }

/-- REDUCE ROWSTAT (R174). -/
def planRowstat (v : VEnv) (d : Nat) : Plan :=
  let (aa, ba) := (bits d 383 320, bits d 319 256)
  let (ra, rb) := (desc64 v.mem aa, desc64 v.mem ba)
  let (a, b) := (tensorOf ra, tensorOf rb)
  let p := posyAt v.mem (bits d 255 192)
  let kinds := (List.range 4).map fun s => bits d (112 + 2 * s + 1) (112 + 2 * s)
  { reads := readable ([(aa, 64), (ba, 64)] ++ p.reads)
    groups := [
      tensorFails ra 0 0 true ++ tensorFails rb 0 0 true ++ p.forms,
      flag (a.fmt.elem != .fp32 || a.e0 % 4 != 0 || a.e3 != 1 || b.fmt.elem != .fp32 || b.exts != [a.e1, a.e2, 1, 1]) (0x0234, 0, 0) ++
        p.fails v.bind { kind := 3, rowstat := true, e0 := b.e0, e1 := b.e1, e2 := 1 }]
    work := some (.rowstat a b kinds p.p) }

/-- REDUCE CLOVER (R205), under the codes of Table 7.4 (entry 32). -/
def planClover (v : VEnv) (d : Nat) : Plan :=
  let (aa, ba) := (bits d 383 320, bits d 319 256)
  let (ra, rb) := (desc64 v.mem aa, desc64 v.mem ba)
  let q := seqOf v.mem ra
  let k := tensorOf rb
  let stride := bits d 255 192
  let (first, n, heads) := (bits d 95 64, bits d 63 48, bits d 47 40)
  let span := stride * (heads - 1) + max (k.base + k.spanOf k.rowBytes) (if k.fmt.mx then k.scaleBase + 128 * k.blocks else 0)
  { reads := readable ([(aa, 64), (ba, 64)] ++ (if listOk ra then [seqList ra] else []))
    groups := [
      tensorFails rb 0 0 false,
      flag (bits ra 303 0 != 0) (0x0250, 0, 0) ++ flag (decide (256 < k.e0) || [k.e1, k.e2, k.e3] != [128, 1, 1]) (0x0251, 0, 0) ++
        flag (stride % 64 != 0 || !listOk ra || q.frames.any fun f => f % 64 != 0 || !inDevice f span) (0x0254, 0, 0) ++
        flag (q.clover == 0 || decide (q.npCap < first + n) || !inDevice q.clover (heads * q.npCap * roundUp (4 * k.e0) 64)) (0x0255, 0, 0)]
    work := some (.clover q k stride first n heads) }

/-- Do two tensors' bytes overlap. -/
def tensorsMeet (a b : Tensor) : Bool := a.ranges.any fun r => b.ranges.any fun q => overlap r.1 r.2 q.1 q.2

/-- REDUCE TRANSPOSE (R264, TR_SHAPE). -/
def planTranspose (v : VEnv) (d : Nat) : Plan :=
  let (aa, ba) := (bits d 383 320, bits d 319 256)
  let (ra, rb) := (desc64 v.mem aa, desc64 v.mem ba)
  let (a, b) := (tensorOf ra, tensorOf rb)
  { reads := readable [(aa, 64), (ba, 64)]
    groups := [
      tensorFails ra 0 0 false ++ tensorFails rb 0 0 false,
      flag (a.e3 != 1 || b.exts != [a.e1, a.e0, a.e2, 1] || a.fmt.elem == .fp32 || b.fmt.elem == .fp32 || tensorsMeet a b) (0x0285, 0, 0)]
    work := some (.transpose a b) }

/-- FILL: SCALE is 0 for a plain output, VALUE within the element (Table 13.4). -/
def planFill (v : VEnv) (d : Nat) : Plan :=
  let oa := bits d 319 256
  let raw := desc64 v.mem oa
  let out := tensorOf raw
  let value := bits d 255 240
  let scale := bits d 239 232
  { reads := readable [(oa, 64)]
    groups := [
      flag (!out.fmt.mx && scale != 0) (0x0201, 0, 0),
      tensorFails raw 0 0 false ++ flag (decide (out.fmt.elem.width < 16) && value / 2 ^ out.fmt.elem.width != 0) (0x021F, 0, 0)]
    work := some (.fill out value scale) }

/-- NOISE (R336). -/
def planNoise (v : VEnv) (d : Nat) : Plan :=
  let oa := bits d 319 256
  let raw := desc64 v.mem oa
  { reads := readable [(oa, 64)], groups := [tensorFails raw 0 0 false], work := some (.noise (tensorOf raw) (bits d 255 192) (bits d 191 160)) }

/-! ### WUPD -/

/-- Bytes of a WUPD block (R269). -/
def wupdBytes (h : Nat) : Nat := 64 * (4 + b2n (bits h 95 88 == 1) + b2n (bit1 h 79))

/-- Word of the header with its lowest bit at `lo`. -/
def wupdWord (h lo : Nat) : Word := BitVec.ofNat 32 (bits h (lo + 31) lo)

/-- Is an FP32 pattern finite. -/
def finite32 (w : Word) : Bool := bits w.toNat 30 23 != 255

/-- WU_FIELD. -/
def wupdFieldBad (h : Nat) : Bool :=
  let algo := bits h 95 88
  bits h 78 64 != 0 || decide (1 < algo) || decide (64 < bits h 87 80) ||
    (algo == 0 && [320, 288, 256, 224, 192, 160].any fun lo => wupdWord h lo != 0) ||
    [384, 352, 320, 288, 256, 224, 192, 160, 128, 96].any (fun lo => !finite32 (wupdWord h lo)) ||
    (algo == 1 && !posNormal (wupdWord h 160))

/-- WUPD (Table 10.4). -/
def planWupd (v : VEnv) (d : Nat) : Plan :=
  let a := bits d 383 320
  let h := desc64 v.mem a
  let n := wupdBytes h
  if !inDevice a n then Plan.fail [] [(0x0280, 0, 0)]
  else
    let adaptive := bits h 95 88 == 1
    let npart := bits h 87 80
    let raw := fun i => desc64 v.mem (a + 64 * i)
    let gi := if adaptive then 4 else 3
    let t := fun i => tensorOf (raw i)
    let u : Wupd :=
      { seed := bits h 511 448, stream := bits h 447 416, lr := wupdWord h 384, beta1 := wupdWord h 352, beta2 := wupdWord h 320
        oneB1 := wupdWord h 288, oneB2 := wupdWord h 256, bc1 := wupdWord h 224, bc2 := wupdWord h 192, eps2 := wupdWord h 160
        wd := wupdWord h 128, gscale := wupdWord h 96, algo := bits h 95 88, npart := npart, qout := bit1 h 79, eoff := bits h 63 0
        master := t 1, m1 := t 2, m2 := if adaptive then some (t 3) else none, grad := t gi, fwd := if bit1 h 79 then some (t (gi + 1)) else none }
    let bf : Fmt := ⟨.bf16, false⟩
    let opt := fun (x : Option Tensor) (f : Tensor → Bool) => match x with | some y => f y | none => false
    let all := [u.master, u.m1] ++ u.m2.toList ++ [u.grad] ++ u.fwd.toList
    let e := u.master.exts.take 3
    { reads := readable [(a, n)]
      groups := [
        tensorFails (raw 1) 0 0 false ++ tensorFails (raw 2) 0 0 false ++ (if adaptive then tensorFails (raw 3) 0 0 false else []) ++
          tensorFails (raw gi) 0 0 (npart != 0) ++ (if u.qout then tensorFails (raw (gi + 1)) 0 0 false else []),
        flag (wupdFieldBad h) (0x0281, 0, 0) ++
          flag (u.master.fmt != bf || u.m1.fmt != bf || opt u.m2 (fun x => x.fmt != bf) ||
            u.grad.fmt != (if npart = 0 then ⟨.e5m2, true⟩ else ⟨.fp32, false⟩) ||
            opt u.fwd (fun x => !(x.fmt.mx && (x.fmt.elem == .e4m3 || x.fmt.elem == .e2m3 || x.fmt.elem == .e3m2 || x.fmt.elem == .e2m1)))) (0x0282, 0, 0) ++
          flag (all.any (fun x => x.exts.take 3 != e) || u.master.e3 != 1 || u.grad.e3 != max 1 npart) (0x0283, 0, 0) ++
          flag ((List.range all.length).any fun i => (List.range i).any fun j => tensorsMeet (all.getD i {}) (all.getD j {})) (0x0284, 0, 0)]
      work := some (.wupd u) }

/-! ### FERRY -/

/-- Transfer descriptor (Table 4.9). -/
def transferOf (v : Nat) : Transfer :=
  { src := bits v 511 448, dst := bits v 447 384, rows := bits v 383 352, rowBytes := bits v 351 320, srcStride := bits v 319 280,
    dstStride := bits v 279 240, slipAddr := bits v 239 176, slipInc := bits v 175 160, last := bit1 v 3, slip := bit1 v 2,
    dstHost := bit1 v 1, srcHost := bit1 v 0 }

/-- The chain's transfers from device memory (R122): it ends at LAST, at 4,096, or where it leaves device memory. -/
def chainAt (m : Mem) : Nat → Nat → List Nat
  | 0, _ => []
  | f + 1, a =>
    if !inDevice a 64 then []
    else
      let v := desc64 m a
      if bit1 v 3 then [v] else v :: chainAt m f (a + 64)

/-- The same from bytes that were read from the host: transfers, and the bytes after them. -/
def chainOf : Nat → List Byte → List Nat × List Byte
  | 0, bs => ([], bs)
  | f + 1, bs =>
    if bs.length < 64 then ([], bs)
    else
      let v := leNat (bs.take 64)
      if bit1 v 3 then ([v], bs.drop 64)
      else
        let r := chainOf f (bs.drop 64)
        (v :: r.1, r.2)

/-- Does a chain end (R122). -/
def chainEnds (ts : List Nat) : Bool := ts.any fun v => bit1 v 3

/-- Does a row of w bytes at lo meet one of n rows from b at stride sb. -/
def rowMeets (lo w b sb n : Nat) : Bool :=
  if sb = 0 then overlap lo w b w
  else
    let first := if lo < b + w then 0 else (lo - (b + w)) / sb + 1
    decide (b < lo + w) && decide (first ≤ min (n - 1) ((lo + w - b - 1) / sb))

/-- Is a byte that a transfer reads among those it writes (R121). -/
def selfMeets (t : Transfer) (a b : Nat) : Bool :=
  (List.range t.rows).any fun i => rowMeets (a + i * t.srcStride) t.rowBytes b t.dstStride t.rows

/-- One end of a transfer: host rows each in a window (R483), or bytes of a device. -/
def State.endFails (s : State) (c i : Nat) (t : Transfer) (a stride : Nat) (host wr : Bool) : List Failure :=
  let n := (t.rows - 1) * stride + t.rowBytes
  if host then
    flag ((List.range t.rows).any fun r => (winFor (s.ctx c).hwins (a + r * stride) t.rowBytes wr).isNone) (0x0204, i, 0)
  else if isBoard a && (t.srcHost || t.dstHost) then [(0x02A0, i, 0)]
  else match s.place a with
    | .here x => flag (!inDevice x n) (0x0220, i, 0)
    | .there dev x => flag (!s.routeOk dev) (0x02A0, i, 0) ++ flag (!inDevice x n) (0x0220, i, 0)
    | .nowhere => [(if isBoard a then 0x02A0 else 0x0220, i, 0)]

/-- Checks of transfer i (Tables 4.7, 13.5, 15.2). That ROWS or ROW_BYTES 0 is reported as EXTENT is the model's choice (entry 31). -/
def State.transferFails (s : State) (c i v : Nat) : List Failure :=
  let t := transferOf v
  flag (bits v 159 4 != 0) (0x0211, i, 0) ++ flag (t.rows == 0 || t.rowBytes == 0) (0x0212, i, 0) ++
  (if t.rows = 0 ∨ t.rowBytes = 0 then []
  else
    flag (t.srcHost && t.dstHost) (0x0220, i, 0) ++
    s.endFails c i t t.src t.srcStride t.srcHost false ++ s.endFails c i t t.dst t.dstStride t.dstHost true ++
    (if t.srcHost || t.dstHost then []
    else match s.place t.src, s.place t.dst with
      | .here x, .here y => flag (selfMeets t x y) (0x0220, i, 0)
      | .there _ _, .there _ _ => [(0x02A0, i, 0)]
      | _, _ => []) ++
    (if t.slip then s.boardFails t.slipAddr 64 64 0x0203 i true else []))

/-- Directed link groups that a route crosses, from a device to another (R402, R410). -/
def State.groupsOf (s : State) (dev : Nat) (out : Bool) : List (Nat × Nat) :=
  let me := s.boot.boardId
  let via := (s.routes.getD dev {}).via
  let fwd := if via = dev then [(me, dev)] else [(me, via), (via, dev)]
  if out then fwd else fwd.map fun g => (g.2, g.1)

/-- Bytes that a transfer sends, by directed group. -/
def State.loadsOf (s : State) (t : Transfer) : List ((Nat × Nat) × Nat) :=
  if t.srcHost || t.dstHost then []
  else match s.place t.src, s.place t.dst with
    | .here _, .there dev _ => (s.groupsOf dev true).map fun g => (g, t.rows * t.rowBytes)
    | .there dev _, .here _ => (s.groupsOf dev false).map fun g => (g, t.rows * t.rowBytes)
    | _, _ => []

/-- Limit of a group: 2 MiB when a port of it that is up stands at 4 lanes (R397, R410). -/
def State.groupLimit (s : State) (g : Nat × Nat) : Nat :=
  let me := s.boot.boardId
  let peer := if g.1 = me then g.2 else g.1
  let slow := (g.1 == me || g.2 == me) && s.ports.any fun p => p.state == 2 && p.peer == peer && p.width == 1
  if slow then 0x200000 else 0x400000

/-- ROLIG_SIZE. -/
def State.sizeBad (s : State) (ts : List Transfer) : Bool :=
  let ls := ts.flatMap s.loadsOf
  ls.any fun l => decide (s.groupLimit l.1 < ((ls.filter fun k => k.1 == l.1).map fun k => k.2).foldl (fun a b => a + b) 0)

/-- FERRY: `host` holds the transfers of a chain in host memory. -/
def State.planFerry (s : State) (c d : Nat) (host : List Nat) : Plan :=
  let a := bits d 383 320
  let inHost := bit1 d 319
  let raw := if inHost then host else chainAt s.mem 4096 a
  let n := raw.length
  let ts := raw.map transferOf
  { reads := if inHost then [] else [(a, 64 * n)]
    groups := [
      (numbered raw).flatMap (fun x => s.transferFails c x.1 x.2) ++
        (if inHost then (List.range (if chainEnds raw || decide (4096 ≤ n) then n else n + 1)).flatMap fun i => flag ((winFor (s.ctx c).hwins (a + 64 * i) 64 false).isNone) (0x0204, i, 0)
        else flag (!chainEnds raw && decide (n < 4096)) (0x0220, n, 0)) ++
        flag (!chainEnds raw && decide (4096 ≤ n)) (0x0221, 4095, 0) ++ flag (s.sizeBad ts) (0x02A1, 0, 0)]
    work := some (.ferry ts) }

/-! ### Codec descriptors -/

/-- Codec body (Table 12.5). -/
def codecOf (d : Nat) : CodecBody :=
  { src := bits d 383 320, dst := bits d 319 256, rec_ := bits d 255 192, stats := bits d 191 128, srcBytes := bits d 127 96,
    dstBytes := bits d 95 64, session := bits d 63 55, op := bits d 47 40, key := bit1 d 39, param := bits d 31 0 }

/-- Session block (Table 12.7). -/
def sessionOf (v : Nat) : SessionBlock :=
  { state := bits v 511 448, stateBytes := bits v 447 416, width := bits v 415 400, height := bits v 399 384, kind := bits v 383 380,
    depth := bit1 v 379, mono := bit1 v 378, nbuf := bits v 377 373, nref := bits v 372 371, gir := bits v 370 369,
    girPeriod := bits v 368 353, keyInterval := bits v 352 337, stray := bits v 336 0 != 0 }

/-- Scale block (Table 12.9). -/
def scaleOf (v : Nat) : ScaleBlock :=
  let i16 := fun lo => (BitVec.ofNat 16 (bits v (lo + 15) lo)).toInt
  { src := bits v 1023 960, dst := bits v 959 896, sw := bits v 895 880, sh := bits v 879 864, dw := bits v 863 848, dh := bits v 847 832,
    sfmt := bits v 831 828, dfmt := bits v 827 824, depth := bit1 v 823, bilinear := bit1 v 822
    m := (List.range 9).map fun j => i16 (806 - 16 * j), ioff := (List.range 3).map fun j => i16 (662 - 16 * j)
    ooff := (List.range 3).map fun j => i16 (614 - 16 * j), tgain := BitVec.ofNat 32 (bits v 581 550), toff := BitVec.ofNat 32 (bits v 549 518) }

/-- A scale block field outside Table 12.9. -/
def scaleBad (v : Nat) (q : ScaleBlock) : Bool :=
  [q.sw, q.sh, q.dw, q.dh].any (fun x => x == 0 || decide (16384 < x)) || decide (7 < q.sfmt) || decide (8 < q.dfmt) || bits v 517 0 != 0

/-- PARAM and KEY outside Table 12.5. -/
def codecParamBad (b : CodecBody) : Bool :=
  (match b.op with
    | 3 => decide (1 < b.param)
    | 4 => decide (255 < b.param)
    | 6 => bits b.param 6 0 == 0 || decide (100 < bits b.param 6 0) || bit1 b.param 7 || bits b.param 15 10 != 0
    | _ => b.param != 0) || (b.key && b.op != 4) || (b.srcBytes != 0 && b.op != 3 && b.op != 5)

/-- COD_ADDR for the body (Tables 12.4, 12.5). -/
def codecAddrBad (b : CodecBody) : Bool :=
  let at64 := fun a n => a % 64 == 0 && inDevice a n
  let unit := decide (3 ≤ b.op)
  (match b.op with
    | 2 => b.src != 0
    | 3 => !inDevice b.src b.srcBytes
    | 5 => !inDevice b.src b.srcBytes
    | 7 => !at64 b.src 128
    | _ => !at64 b.src 64) ||
    (if unit && b.op != 7 then !at64 b.dst b.dstBytes else b.dst != 0) ||
    (if unit then !at64 b.rec_ 64 else b.rec_ != 0) ||
    (if b.op = 3 ∨ b.op = 4 then b.stats != 0 && !at64 b.stats 64 else b.stats != 0)

/-- CODEC: the checks made when it is fetched. -/
def planCodec (v : VEnv) (d : Nat) : Plan :=
  let b := codecOf d
  let n := if b.op = 1 then 64 else if b.op = 7 then 128 else 0
  let raw := leNat (v.mem.read b.src n)
  let sc := if b.op = 7 then some (scaleOf raw) else none
  let se := if b.op = 1 then some (sessionOf raw) else none
  let known := decide (1 ≤ b.op) && decide (b.op ≤ 7)
  { reads := readable [(b.src, n)]
    groups := [
      flag (known && codecAddrBad b) (0x0290, 0, 0) ++
        (match sc with
          | some q => flag (!scaleBad raw q && (q.src % 64 != 0 || !inDevice q.src (pictureBytes q.sfmt q.depth q.sw q.sh) || q.dst % 64 != 0 ||
              !inDevice q.dst (pictureBytes q.dfmt q.depth q.dw q.dh) || decide (b.dstBytes < pictureBytes q.dfmt q.depth q.dw q.dh))) (0x0290, 0, 0) ++
              flag (scaleBad raw q) (0x0295, 0, 0)
          | none => []) ++
        flag (!known) (0x0291, 0, 0) ++ flag (decide (5 ≤ b.op) && b.session != 0) (0x0292, 0, 0) ++ flag (codecParamBad b) (0x0295, 0, 0)]
    work := some (.codec b sc se) }

end Sys2Proof.Machine
end

