-- ==== Sys2Proof/Machine/Lists.lean ====
section
/-! DEFINITION. The flattened sequence of a step list and its order (09 R233, R235, R240, R245), its stages with their
substituted constants, and when it is over (R257). -/

namespace Sys2Proof.Machine

/-- Stage entries of a phase, in entry order (R233). -/
def StepList.stagesOf (l : StepList) (p : Nat) : List Nat :=
  (List.range l.stages.length).filter fun j => (l.stages[j]?.map fun (g : Stage) => g.phase) == some p

/-- One execution: its stage entry, phase and step (STEPS in the suffix). -/
structure Execution where
  stage : Nat
  phase : Nat
  step : Nat
  deriving DecidableEq, Repr

/-- Executions of the flattened sequence. -/
def StepList.total (l : StepList) : Nat :=
  (l.stagesOf 0).length + l.steps * (l.stagesOf 1).length + (l.stagesOf 2).length

/-- Execution e of the flattened sequence. -/
def StepList.execution (l : StepList) (e : Nat) : Option Execution :=
  let p := l.stagesOf 0
  let q := l.stagesOf 1
  let k := e - p.length
  if e < p.length then some { stage := p.getD e 0, phase := 0, step := 0 }
  else if k < l.steps * q.length then some { stage := q.getD (k % q.length) 0, phase := 1, step := k / q.length }
  else (l.stagesOf 2)[k - l.steps * q.length]?.map fun j => { stage := j, phase := 2, step := l.steps }

/-- The stage entry of execution e. -/
def StepList.stageAt (l : StepList) (e : Nat) : Option Stage :=
  (l.execution e).bind fun (x : Execution) => l.stages[x.stage]?

/-- Is execution e ordered after the earlier execution y (R235). -/
def StepList.after (l : StepList) (e y : Nat) : Bool :=
  match l.stageAt e, l.stageAt y with
  | some a, some b => a.mb == b.mb || a.barrier || b.barrier
  | _, _ => false

/-- Every execution that e is ordered after has completed. -/
def StepList.orderMet (l : StepList) (p : StepProg) (e : Nat) : Bool :=
  (List.range e).all fun y => !l.after e y || NatSet.mem y p.done

/-- Every prefix execution has completed (R250). -/
def StepList.prefixDone (l : StepList) (p : StepProg) : Bool :=
  (List.range (l.stagesOf 0).length).all fun e => NatSet.mem e p.done

/-- Every execution of step t has completed (R254). -/
def StepList.stepDone (l : StepList) (p : StepProg) (t : Nat) : Bool :=
  let n := (l.stagesOf 1).length
  (List.range n).all fun j => NatSet.mem ((l.stagesOf 0).length + t * n + j) p.done

/-- STEP of a completion record (Table 13.6), and STEP_INDEX of a trap record (R258). -/
def Execution.recStep (x : Execution) : Nat := if x.phase = 0 then 0x7FE else x.step
def Execution.trapStep (x : Execution) : Nat := if x.phase = 0 then 0xFFFFFFFE else x.step

/-- Row of the coefficient table (R240). -/
def StepList.rowOf (l : StepList) (x : Execution) : List Word :=
  l.coefs.getD (if x.phase = 0 then 0 else if x.phase = 1 then x.step else l.steps - 1) []

/-- Constant k replaced. -/
def Posy.subst (p : Posy) (k : Nat) (v : Word) : Posy :=
  { p with consts := (List.range 32).map fun j => if j = k then v else p.consts.getD j 0 }

/-- The epilogue of layer k changed. -/
def ConvBlock.onLayer (b : ConvBlock) (k : Nat) (f : Posy → Posy) : ConvBlock :=
  let ls := (List.range b.layers.length).filterMap fun j =>
    b.layers[j]?.map fun (y : ConvLayer) => if j = k then { y with epi := f y.epi } else y
  { b with layers := ls }

/-- A posy of a command changed, by the code of Table 9.3. -/
def Work.mapPosy (code : Nat) (f : Posy → Posy) : Work → Work
  | .matmul tb epi pro => if code = 0 then .matmul tb (f epi) pro else if code = 1 then .matmul tb epi (pro.map f) else .matmul tb epi pro
  | .chain a b e1 e2 pro =>
    if code = 0 then .chain a b e1 (f e2) pro else if code = 1 then .chain a b e1 e2 (pro.map f)
    else if code = 2 then .chain a b (f e1) e2 pro else .chain a b e1 e2 pro
  | .attend b epi => if code = 0 then .attend b (f epi) else .attend b epi
  | .conv b pro =>
    if code = 0 then .conv (b.onLayer (b.layers.length - 1) f) pro
    else if code = 1 then .conv b (pro.map f)
    else if 3 ≤ code then .conv (b.onLayer (code - 3) f) pro else .conv b pro
  | .pool b =>
    if code = 0 then .pool { b with layers := b.layers.map fun (y : ConvLayer) => { y with epi := f y.epi } } else .pool b
  | .posy p out => if code = 0 then .posy (f p) out else .posy p out
  | .rowstat a b ks p => if code = 0 then .rowstat a b ks (f p) else .rowstat a b ks p
  | w => w

/-- The work of an execution with its constants substituted (R240). -/
def StepList.workOf (l : StepList) (g : Stage) (x : Execution) : Work :=
  g.cmaps.foldl (fun w k => w.mapPosy k.posy fun p => p.subst k.const ((l.rowOf x).getD k.col 0)) g.work

/-! ### Pins (R250) -/

/-- Home die of a context: the model runs a list's cores on it (entry 28). -/
def Ctx.homeDie (x : Ctx) : Nat := (x.blk.map fun (b : CtxBlock) => b.home).getD 0

/-- Pinned ranges replaced by the copies of a die that holds them (R250). -/
def StepList.overlay (l : StepList) (die : Nat) (buf mem : Mem) : Mem :=
  l.pins.foldl (fun m p => if bit1 p.dies die then m.graft buf 64 p.src (p.dbOff * 64) p.bytes else m) mem

/-- Copies of pinned ranges that a die's reads of some ranges go to: byte ranges of its die buffer (R250). -/
def StepList.pinReads (l : StepList) (die : Nat) (rs : List (Nat × Nat)) : List (Nat × Nat) :=
  (l.pins.filter fun p => bit1 p.dies die).flatMap fun p => rs.filterMap fun r =>
    if overlap p.src p.bytes r.1 r.2 then some (p.dbOff * 64 + (max p.src r.1 - p.src), min (p.src + p.bytes) (r.1 + r.2) - max p.src r.1) else none

/-- The list of a command. -/
def Cmd.list? (m : Cmd) : Option StepList :=
  match m.phase, m.job with
  | .checked, some (.steps l) => some l
  | .started, some (.steps l) => some l
  | _, _ => none

/-- A command waits for an answer from outside. -/
def State.awaits (s : State) (c uid : Nat) : Bool :=
  s.reads.any (fun q => q.ctx == c && q.uid == uid) || s.remote.any fun q => q.ctx == c && q.uid == uid

/-- A step list completes once every execution, every step and every write has (R257). -/
def State.listEnd (s : State) (c uid : Nat) : State :=
  match (s.ctx c).byUid uid with
  | none => s
  | some m =>
    match m.list? with
    | none => s
    | some l =>
      if (s.ctx c).alive && !(s.ctx c).halted && decide (l.total ≤ m.steps.done.length) && decide (l.steps ≤ m.steps.stepsDone) &&
          !s.awaits c uid
      then s.finish c uid else s

end Sys2Proof.Machine
end

