-- ==== Sys2Proof/Machine/Rings.lean ====
section
/-! DEFINITION. Rings, doorbells, records and the management ring (spec file 13), and the order commands: fences,
slipways and timestamps. A row whose condition does not hold changes nothing (entry 3). -/

namespace Sys2Proof.Machine

/-! ### Polls and doorbell lines -/

/-- DOORBELL_POLL (R330, R421): reads the doorbell line of every context that exists and is not torn down, and the
management line. -/
def execDoorbellPoll (s : State) : Host.Outcome State Fault Refusal :=
  .next (
    if !s.hostUp || s.power.cur == 4 then s
    else
      let s := (List.range 64).foldl (fun s c =>
        let x := s.ctx c
        match x.blk with
        | some b => if x.alive then (s.send (.hostRead b.dbAddr 64 none)).count 9581 1 else s
        | none => s) s
      let s := if s.mgmt.active then (s.send (.hostRead s.mgmt.base 64 none)).count 9581 1 else s
      { s.ltrUpdate with power := { s.ltrUpdate.power with polls := s.power.polls + 1 } })

/-- A CQ_HEAD read at a poll is accepted within the records written (R506). -/
def headAccept (head next v : Word) : Word := if (v - head).toNat ≤ (next - head).toNat then v else head

/-- Word r of SQ_TAIL. -/
def lineTail (line r : Nat) : Word := BitVec.ofNat 32 (bits line (32 * r + 31) (32 * r))

/-- Is a tail accepted (R331). -/
def tailOk (e tail : Word) (logN : Nat) : Bool := decide ((tail - e).toNat ≤ 2 ^ logN)

/-- What a poll does to one ring: resume byte (R345), tail (R331). Answers the ring and a bad tail to report; a word that was bad is
ignored until it changes. -/
def ringPoll (y : Ring) (t : Word) (byte : Nat) : Ring × Option Word :=
  let y :=
    if !y.paused then y
    else match y.resumeByte with
      | none => { y with resumeByte := some byte }
      | some b => if b = byte then y else { y with paused := false, resumeByte := none }
  if y.bad = some t then (y, none)
  else if tailOk y.e t y.logN then ({ y with tail := t, bad := none }, none)
  else ({ y with bad := some t }, some t)

/-- A poll of ring r of a context. -/
def State.pollRing (s : State) (c line r : Nat) : State :=
  let x := s.ctx c
  let y := x.ring r
  if !y.en then s
  else
    let (y', bad) := ringPoll y (lineTail line r) (bits line (288 + 8 * r + 7) (288 + 8 * r))
    let dirty := x.lineDirty || y'.paused != y.paused || y'.resumeByte != y.resumeByte
    let s := s.setCtx c { x.setRing r y' with lineDirty := dirty }
    let s := if y'.tail = y.tail then s else s.wake
    match bad with
    | some t => s.message 0x04 t.toNat c r false 0 0
    | none => s

/-- The management ring's part of a poll (R348). -/
def State.pollMgmt (s : State) (line : Nat) : State :=
  let g := s.mgmt
  let y : Ring := { en := true, logN := g.logN, e := g.e, tail := g.tail, bad := g.bad, paused := g.paused, resumeByte := g.resumeByte }
  let (y', bad) := ringPoll y (lineTail line 0) (bits line 295 288)
  let head := headAccept g.cqHead g.mseq (BitVec.ofNat 32 (bits line 287 256))
  let dirty := g.lineDirty || head != g.cqHead || y'.paused != g.paused || y'.resumeByte != g.resumeByte
  let s := { s with mgmt := { g with
    tail := y'.tail, bad := y'.bad, paused := y'.paused, resumeByte := y'.resumeByte, cqHead := head, lineDirty := dirty } }
  let s := if y'.tail = g.tail then s else s.wake
  match bad with
  | some t => s.message 0x04 t.toNat 0 0 true 0 0
  | none => s

/-- DOORBELL_READ (R331, R345, R506): a read of a doorbell line returned. -/
def execDoorbellRead (a : Agent) (line : HostData) (s : State) : Host.Outcome State Fault Refusal :=
  .next (
    let s := s.fetched line
    if !s.hostUp then s
    else match a, line with
      | .ctx c, .ok bs ep =>
        let x := s.ctx c
        if !x.alive || ep || bs.length != 64 then s
        else
          let v := leNat bs
          let head := headAccept x.cqHead x.nextCseq (BitVec.ofNat 32 (bits v 287 256))
          let s := s.setCtx c { x with cqHead := head, lineDirty := x.lineDirty || head != x.cqHead }
          (List.range 8).foldl (fun s r => s.pollRing c v r) s
      | .ctx c, .failed => s.faultCtx c 0x314 none
      | .mgmt, .ok bs ep => if s.mgmt.active && !ep && bs.length == 64 then s.pollMgmt (leNat bs) else s
      | .mgmt, .failed => s)

/-! ### Fetching (R328, R332, R339, R344) -/

/-- Commands of a ring that are fetched and not completed. -/
def Ctx.inFlight (x : Ctx) (r : Nat) : Nat := (x.cmds.filter fun m => m.ring == r).length

/-- May a context fetch from ring r. -/
def Ctx.canFetch (x : Ctx) (r : Nat) : Bool :=
  let y := x.ring r
  y.en && !y.paused && y.e != y.tail && decide (x.inFlight r < 16) && x.slotFree

/-- The ring whose turn it is: the first fetchable one at or after the pointer (R332). -/
def Ctx.nextRing (x : Ctx) : Option Nat :=
  ((List.range 8).map fun k => (x.fetchPtr + k) % 8).find? x.canFetch

/-- A descriptor of ring r arrives: slot reserved, SEQ checked (R339, R344). -/
def Ctx.fetch (x : Ctx) (r d : Nat) (ep : Bool) : Ctx :=
  let y := x.ring r
  let seq : Word := BitVec.ofNat 32 (bits d 511 480)
  let m : Cmd := { uid := x.nextUid, ring := r, seq := seq, tag := BitVec.ofNat 32 (bits d 447 416), opcode := bits d 479 472,
                   irq := bit1 d 471, desc := d, poisoned := ep, phase := if seq = y.e then .fetched else .badSeq,
                   job := none, banks := [] }
  let y := if seq = y.e then { y with e := y.e + 1 } else { y with paused := true, resumeByte := none }
  { x.setRing r y with cmds := x.cmds ++ [m], reserved := x.reserved + 1, nextUid := x.nextUid + 1,
                       fetchPtr := (x.fetchPtr + 1) % 8, lineDirty := true }

/-- Host address of the descriptor with number e in a ring (R327). -/
def slotOf (base : Nat) (e : Word) (logN : Nat) : Nat := base + 64 * (e.toNat % 2 ^ logN)

/-- The read of the doorbell line that a pause makes (R345). -/
def State.rereadLine (s : State) (c r : Nat) : State :=
  match (s.ctx c).blk with
  | some b => if ((s.ctx c).ring r).paused then s.toHost (.hostRead b.dbAddr 64 none) else s
  | none => s

/-- DESCRIPTOR_FETCHED (R327, R328, R332, R339, R344, R345, R349): the descriptor of the next slot is read and has arrived. -/
def execDescriptorFetched (a : Agent) (r : Nat) (d : HostData) (s : State) : Host.Outcome State Fault Refusal :=
  .next (
    if !s.hostUp then s
    else match a with
      | .ctx c =>
        let x := s.ctx c
        if !x.runs || x.preempted || x.nextRing != some r then s
        else
          let s := (s.send (.hostRead (slotOf (x.ring r).base (x.ring r).e (x.ring r).logN) 64 none)).fetched d
          match d with
          | .failed => s.faultCtx c 0x314 none
          | .ok bs ep => if bs.length != 64 then s else (s.setCtx c (x.fetch r (leNat bs) ep)).rereadLine c r
      | .mgmt =>
        let g := s.mgmt
        if !g.active || g.paused || g.running.isSome || g.fetched.isSome || g.e == g.tail || !g.room then s
        else
          let s := (s.send (.hostRead (slotOf (g.base + 4096) g.e g.logN) 64 none)).fetched d
          match d with
          | .failed => s
          | .ok bs _ =>
            if bs.length != 64 then s
            else
              let v := leNat bs
              let seq : Word := BitVec.ofNat 32 (bits v 511 480)
              if seq = g.e then
                { s with mgmt := { g with
                  e := g.e + 1, lineDirty := true, reserved := g.reserved + 1
                  fetched := some { seq := seq, opcode := bits v 479 472, desc := v, start := 0 } } }
              else
                let s := { s.send (.hostRead g.base 64 none) with mgmt := { g with paused := true, resumeByte := none, lineDirty := true } }
                s.message 0x01 seq.toNat 0 0 false 2 0)

/-! ### Management descriptors (R334, R337, R349) -/

/-- Reserved bits of a management body that must be zero: the bits its opcode defines are left out. -/
def mgmtReserved (op d : Nat) : Nat :=
  let body := bits d 383 0
  match op with
  | 0x12 => body % 2 ^ 383
  | 0x13 => body % 2 ^ 319
  | 0x14 => body % 2 ^ 352
  | 0x18 => body % 2 ^ 239
  | 0x19 => body % 2 ^ 303
  | 0x1A => body % 2 ^ 320
  | _ => 0

/-- Opcodes of the management ring (Table 13.3). -/
def isMgmtOp (op : Nat) : Bool :=
  op == 0x12 || op == 0x13 || op == 0x14 || op == 0x18 || op == 0x19 || op == 0x1A

/-- Table 13.5 and 15.2 for a management descriptor: 0 when it passes. -/
def State.mgmtCheck (s : State) (d : MgmtDesc) : Nat :=
  let v := d.desc
  let addr := bits v 383 320
  if !isMgmtOp d.opcode then 0x0200
  else if bits v 470 448 != 0 || bits v 415 384 != 0 || mgmtReserved d.opcode v != 0 ||
      (d.opcode == 0x14 && bits v 383 352 == 0) || (d.opcode == 0x19 && decide (4096 < bits v 319 304)) then 0x0201
  else if d.opcode = 0x13 then
    if bit1 v 319 then
      (if addr % 8 != 0 then 0x0202 else if (winFor s.mgmt.wins addr 8 true).isNone then 0x0204 else 0)
    else if isBoard addr then
      (if addr % 8 != 0 then 0x0202 else match s.place addr with
        | .here _ => 0
        | .there dev _ => if s.routeOk dev then 0 else 0x02A0
        | .nowhere => 0x02A0)
    else if addr % 8 != 0 || decide (devTop < addr + 8) then 0x0202 else 0
  else if d.opcode = 0x19 then
    let n := bits v 319 304 * 16
    if addr = 0 then 0
    else if addr % 64 != 0 then 0x0202
    else if bit1 v 303 then (if (winFor s.mgmt.wins addr n true).isNone then 0x0204 else 0)
    else if devTop < addr + n then 0x0202 else 0
  else 0

/-- MGMT_DESCRIPTOR_START (R349): the fetched descriptor starts once the one before has completed. -/
def execMgmtDescriptorStart (s : State) : Host.Outcome State Fault Refusal :=
  .next (
    match s.mgmt.fetched with
    | none => s
    | some d =>
      if !s.awake || s.mgmt.running.isSome then s
      else
        let d := { d with start := s.now }
        let s := { s with mgmt := { s.mgmt with fetched := none, running := some d } }
        let code := s.mgmtCheck d
        if code = 0 then s else s.mgmtDone code 0)

/-! ### Records (R340, R341, R346) -/

/-- What the record of a finished command carries: status, code, item, detail, time; none while it has none to write.
A SEQUENCE record waits for the RESUME byte (R345). -/
def Ctx.recordOf (x : Ctx) (m : Cmd) (now : Tick) : Option (Nat × Nat × Nat × Nat × Tick) :=
  match m.phase with
  | .written t => some (0, 0, 0, 0, t)
  | .rejected code item detail => some (1, code, item, detail, now)
  | .badSeq => if (x.ring m.ring).resumeByte.isSome then some (2, 0, 0, 0, now) else none
  | _ => none

/-- May the record of command i be written now: ring order in an ordered context (R353, R357). -/
def Ctx.recordTurn (x : Ctx) (i : Nat) (m : Cmd) : Bool := x.relaxed || (x.earlier i m.ring).isEmpty

/-- COMPLETION_RECORD_WRITE (R340, R341, R346): the record of command i, the status line, the interrupt test. Pins and
copies of the command are released (R252, R380). -/
def execCompletionRecordWrite (c i : Nat) (s : State) : Host.Outcome State Fault Refusal :=
  .next (
    let x := s.ctx c
    match x.cmd? i with
    | none => s
    | some m =>
      if !s.hostUp || !x.alive || !x.recordTurn i m then s
      else match x.recordOf m s.now with
        | none => s
        | some (st, err, item, detail, t) =>
          let s := s.putRecord c m st err item detail t
          let x := s.ctx c
          let s := s.setCtx c { x with cmds := x.cmds.filter (fun y => y.uid != m.uid) }
          (s.count (9584 + 6 * c) 1).afterRecords c)

/-- IRQ_DELAY_EXPIRY (R341): the oldest record is DELAY ticks old. -/
def execIrqDelayExpiry (c : Nat) (s : State) : Host.Outcome State Fault Refusal :=
  .next (if s.hostUp && (s.ctx c).alive then s.considerIrq c else s)

/-- STATUS_LINE_REFRESH (R346): a changed status line is written within P ticks. -/
def execStatusLineRefresh (a : Agent) (s : State) : Host.Outcome State Fault Refusal :=
  .next (
    match a with
    | .ctx c => if s.hostUp && (s.ctx c).live && (s.ctx c).lineDirty then s.writeLine c else s
    | .mgmt => if s.hostUp && s.mgmt.active && s.mgmt.lineDirty then s.mgmtLine else s)

/-! ### Fences, timestamps and slipways (R359 to R364) -/

/-- The work of a checked or started command that is a single piece of work. -/
def Cmd.work? (m : Cmd) : Option Work :=
  match m.phase, m.job with
  | .checked, some (.work w) => some w
  | .started, some (.work w) => some w
  | _, _ => none

/-- FENCE of ring scope (R359); on the management ring every earlier descriptor has completed (R349). -/
def execFenceRing (a : Agent) (i : Nat) (s : State) : Host.Outcome State Fault Refusal :=
  .next (
    match a with
    | .mgmt =>
      match s.mgmt.running with
      | some d => if s.awake && d.opcode == 0x12 then s.mgmtDone 0 0 else s
      | none => s
    | .ctx c =>
      let x := s.ctx c
      match x.cmd? i with
      | none => s
      | some m =>
        match m.work? with
        | some (.fence false) => if s.ready c && x.allEarlier i m then s.finish c m.uid else s
        | _ => s)

/-- FENCE of context scope (R359): every descriptor that the context fetched before it. -/
def execFenceContext (c i : Nat) (s : State) : Host.Outcome State Fault Refusal :=
  .next (
    let x := s.ctx c
    match x.cmd? i with
    | none => s
    | some m =>
      match m.work? with
      | some (.fence true) => if s.ready c && (x.cmds.take i).all Cmd.finished then s.finish c m.uid else s
      | _ => s)

/-- TIMESTAMP (R364): the tick is written, then the record. -/
def execTimestamp (a : Agent) (i : Nat) (s : State) : Host.Outcome State Fault Refusal :=
  .next (
    match a with
    | .mgmt =>
      match s.mgmt.running with
      | none => s
      | some d =>
        if !s.awake || d.opcode != 0x13 || d.waiting then s
        else
          let addr := bits d.desc 383 320
          let bs := leBytes 8 s.now.toNat
          if bit1 d.desc 319 then
            (s.toHost (.hostWrite addr bs false false ((winFor s.mgmt.wins addr 8 true).bind HWin.tag))).mgmtDone 0 0
          else match s.place addr with
            | .here x => (s.hubWrite x bs false).mgmtDone 0 0
            | .there dev x =>
              if !s.routeOk dev then s.mgmtDone 0x315 0
              else State.remoteReq { s with mgmt := { s.mgmt with running := some { d with waiting := true } } } { ctx := mgmtCtx, uid := 0 } dev x
                (fun p => .roligWrite p dev x bs false) .written 0 8 true
            | .nowhere => s.mgmtDone 0x0202 0
    | .ctx c =>
      let x := s.ctx c
      match x.cmd? i with
      | none => s
      | some m =>
        match m.work? with
        | some (.stamp addr host) =>
          if !(s.ready c && x.allEarlier i m && m.phase == .checked) then s
          else
            let bs := leBytes 8 s.now.toNat
            if host then
              (s.toHost (.hostWrite addr bs false false ((winFor x.hwins addr 8 true).bind HWin.tag))).finish c m.uid
            else match s.place addr with
              | .here y => (s.hubWrite y bs false).finish c m.uid
              | .there dev y => (s.setPhase c m.uid .started).remoteReq { ctx := c, uid := m.uid } dev y (fun p => .roligWrite p dev y bs false) .written 0 8 true
              | .nowhere => s
        | _ => s)

/-- An advance of a slipway by a command: atomic at its home; a poisoned line tears the context down (R361, R294). -/
def State.signal (s : State) (w : Asker) (addr inc : Nat) (last : Bool) : State :=
  match s.place addr with
  | .here a =>
    let s := s.settle [(a, 4)] (some w.ctx)
    if s.mem.poisoned 64 a 4 then (s.setPhase w.ctx w.uid .started).failAsker w 0x310
    else
      let s := s.slipAdd a inc
      if last then s.finish w.ctx w.uid else s
  | .there dev a => (s.setPhase w.ctx w.uid .started).remoteReq w dev a (fun p => .roligAdd p dev a inc) .added 0 4 last
  | .nowhere => (s.setPhase w.ctx w.uid .started).failAsker w 0x316

/-- SLIPWAY_SIGNAL (R361): once every earlier descriptor of the ring has completed. -/
def execSlipwaySignal (c i : Nat) (s : State) : Host.Outcome State Fault Refusal :=
  .next (
    let x := s.ctx c
    match x.cmd? i with
    | none => s
    | some m =>
      match m.work? with
      | some (.signal addr inc) =>
        if s.ready c && x.allEarlier i m && m.phase == .checked then s.signal { ctx := c, uid := m.uid } addr inc true else s
      | _ => s)

/-- Is the target reached (R360). -/
def reached (value target : Word) : Bool := decide ((value - target).toNat < 2 ^ 31)

/-- SLIPWAY_WAIT (R362): completes when its target is reached, else waits; a poisoned line tears the context down. -/
def execSlipwayWait (c i : Nat) (s : State) : Host.Outcome State Fault Refusal :=
  .next (
    let x := s.ctx c
    match x.cmd? i with
    | none => s
    | some m =>
      match m.work? with
      | some (.wait addr target) =>
        if !(s.ready c && x.inOrder i m) then s
        else match s.place addr with
          | .here a =>
            let s := s.settle [(a, 4)] (some c)
            if s.mem.poisoned 64 a 4 then (s.setPhase c m.uid .started).faultCtx c 0x310 (some m.uid)
            else if reached (s.slip a) (BitVec.ofNat 32 target) then s.finish c m.uid
            else s.setPhase c m.uid .started
          | _ => s
      | _ => s)

/-! ### The end of a teardown (R385, R340, R407) -/

/-- ABORTED or faulting record of one command of a torn-down context. -/
def State.lastRecord (s : State) (c : Nat) (m : Cmd) (status code : Nat) : State :=
  (s.putRecord c m status code 0 0 s.now).count (9584 + 6 * c) 1

/-- A teardown can be completed: remote requests answered, and a slot for a trapped command's record (R407, R339). -/
def State.teardownReady (s : State) (c : Nat) : Bool :=
  let x := s.ctx c
  s.up && x.teardown.isSome && !s.remote.any (fun q => q.ctx == c) &&
    (x.slotFree || !x.cmds.any fun m => m.phase == .trapped)

/-- The faulting command's record, the ABORTED records, the status line, the TEARDOWN message (R385). -/
def State.teardownDone (s : State) (c : Nat) : State :=
  let x := s.ctx c
  match x.teardown with
  | none => s
  | some (code, status, uid) =>
    let s := match uid.bind x.byUid with
      | some m => s.lastRecord c m status code
      | none => s
    let rest := x.cmds.filter fun m => uid != some m.uid
    let s := rest.foldl (fun s m =>
      match m.phase with
      | .written t => (s.putRecord c m 0 0 0 0 t).count (9584 + 6 * c) 1
      | _ => s.lastRecord c m 7 0) s
    let s := s.setCtx c { s.ctx c with cmds := [], reserved := 0, teardown := none }
    (s.afterRecords c).message 0x03 0 c 0 false status 0

/-- TEARDOWN_COMPLETE (R385, R407). -/
def execTeardownComplete (c : Nat) (s : State) : Host.Outcome State Fault Refusal :=
  .next (if s.teardownReady c then s.teardownDone c else s)

end Sys2Proof.Machine
end

