-- ==== Sys2Proof/Machine/Context.lean ====
section
/-! DEFINITION. Context operations (14 R367 to R371, R378, R387, R388) and the rise of the management ring (13 R348). -/

namespace Sys2Proof.Machine

/-- The operation that CTX_OP holds runs now: BUSY, this operation and context, no apply pending (R367, R457). -/
def State.opIs (s : State) (op c : Nat) : Bool :=
  match s.opHeld with
  | some v => s.up && s.opBusy && bits v.toNat 2 0 == op && bits v.toNat 13 8 == c && s.shadow.isNone
  | none => false

/-- Completes the operation with a result (Table 14.6). -/
def State.finishOp (s : State) (c code : Nat) : State :=
  { s with opBusy := false, opHeld := none, opCtx := c, opResult := code }

/-- One host window entry from its 32 bytes (Table 19.2). -/
def hwinOf (bs : List Byte) : HWin :=
  let v := leNat bs
  { base := bits v 255 192, limit := bits v 191 128, pasid := bits v 127 108, pasidEn := bit1 v 107, prefetch := bit1 v 106,
    read := bit1 v 105, write := bit1 v 104 }

/-- The 16 entries of a window table. -/
def hwinsOf (bs : List Byte) : List HWin := (List.range 16).map fun i => hwinOf ((bs.drop (32 * i)).take 32)

/-- The context block header (Table 14.1) from its 1,024 bits. -/
def blockOf (v : Nat) : CtxBlock :=
  { cqBase := bits v 1023 960, dbAddr := bits v 959 896
    land := [bits v 895 832, bits v 831 768, bits v 767 704, bits v 703 640]
    nanLine := bits v 639 576, dlmBase := bits v 575 512, hwinAddr := bits v 511 448, cseq0 := bits v 447 416
    slice := bits v 415 384, delay := bits v 383 352, dbaOff := bits v 351 332, dbaLen := bits v 331 312
    slots := bits v 311 296, bcoreFirst := bits v 295 288, bcoreCount := bits v 287 279, vector := bits v 278 268
    count := bits v 267 260, logNc := bits v 259 255, logDlm := bits v 254 251, prio := bits v 250 249
    home := bits v 248 247, relaxed := bit1 v 246, bounded := bit1 v 245, nanEn := bit1 v 244, tblRight := bit1 v 243 }

/-- A ring entry (Table 14.2) from its 128 bits. -/
def ringOf (v : Nat) : Ring :=
  let e : Word := BitVec.ofNat 32 (bits v 63 32)
  { en := bit1 v 25, codec := bit1 v 26, base := bits v 127 64, logN := bits v 31 27, e := e, tail := e }

/-- Landing area size (R370). -/
def landBytes : Nat := 0xDC00000

/-- Field rules of Tables 14.1 and 14.2 (code CTX_FIELD). -/
def fieldsBad (v : Nat) (b : CtxBlock) (rings : List Ring) (ringBits : List Nat) : Bool :=
  bits v 242 0 != 0 || ringBits.any (fun w => w % 2 ^ 25 != 0) ||
  b.cqBase % 4096 != 0 || b.dbAddr % 64 != 0 || b.nanLine % 64 != 0 || decide (devTop < b.nanLine + 64) ||
  b.dlmBase % 64 != 0 || (b.dlmBase != 0 && decide (devTop < b.dlmBase + 32 * 2 ^ b.logDlm)) || b.hwinAddr % 64 != 0 ||
  (b.slice != 0 && (decide (b.slice < 20000) || decide (100000000 < b.slice))) || decide (524288 < b.dbaLen) ||
  decide (b.count < 1) || decide (b.logNc < 6) || decide (17 < b.logNc) || decide (b.logDlm < 4) || decide (12 < b.logDlm) ||
  !rings.any (fun y => y.en) ||
  rings.any (fun y => y.en && (y.base % 4096 != 0 || decide (y.logN < 6) || decide (16 < y.logN))) ||
  (!b.bounded && (b.slots != 0 || b.bcoreFirst != 0 || b.bcoreCount != 0))

/-- Landing rules (R370): aligned, in device memory, disjoint, on its die in die-local interleave. -/
def State.landBad (s : State) (b : CtxBlock) : Bool :=
  let others := s.ctxs.flatMap fun x => match x.blk with | some o => (if x.live then o.land else []) | none => []
  b.land.any (fun a => a % 65536 != 0 || decide (devTop < a + landBytes)) ||
  (List.range 4).any (fun i => (List.range i).any fun j => overlap (b.land.getD i 0) landBytes (b.land.getD j 0) landBytes) ||
  b.land.any (fun a => others.any fun o => overlap a landBytes o landBytes) ||
  (s.cfg.memMap.toNat % 4 == 0 && (List.range 4).any fun d =>
    let a := b.land.getD d 0
    a / 0x17E8000000 != d || (a + landBytes - 1) / 0x17E8000000 != d)

/-- Allotment rules (R371). -/
def State.allotBad (s : State) (b : CtxBlock) : Bool :=
  decide (0x2000000 < (b.dbaOff + b.dbaLen) * 64) ||
  s.ctxs.any fun x => x.live && match x.blk with
    | some o => overlap b.dbaOff b.dbaLen o.dbaOff o.dbaLen
    | none => false

/-- Rules of a bounded context (R388). -/
def State.boundBad (s : State) (b : CtxBlock) : Bool :=
  b.bounded && (s.cfg.bound.toNat % 2 != 1 || b.prio != 0 || b.bcoreCount == 0 || decide (256 < b.bcoreFirst + b.bcoreCount) ||
    b.slots == 0 || s.ctxs.any fun x => x.live && match x.blk with
      | some o => o.bounded && (overlap b.bcoreFirst b.bcoreCount o.bcoreFirst o.bcoreCount || b.slots &&& o.slots != 0)
      | none => false)

/-- The first failing code of Table 14.7 for a block that was read, else 0. -/
def State.createCode (s : State) (v : Nat) (b : CtxBlock) (rings : List Ring) (ringBits : List Nat) : Nat :=
  if fieldsBad v b rings ringBits then 0x304
  else if s.landBad b then 0x305
  else if s.allotBad b then 0x306
  else if s.boundBad b then 0x307
  else 0

/-- The context that CREATE brings into existence (R369, R344, R506, R51). -/
def newCtx (b : CtxBlock) (rings : List Ring) (ws : List HWin) : Ctx :=
  { live := true, blk := some b, hwins := ws, rings := rings, nextCseq := BitVec.ofNat 32 b.cseq0,
    cqHead := BitVec.ofNat 32 b.cseq0, armed := b.nanEn, lineDirty := true }

/-- CREATE (R367 to R371, R482): the block and its window table are read and checked; the first failure is RESULT. -/
def execCreate (c : Nat) (block wins : HostData) (s : State) : Host.Outcome State Fault Refusal :=
  .next (
    if !s.opIs 1 c || !s.hostUp then s
    else if (s.ctx c).live then s.finishOp c 0x301
    else
      let s := (s.toHost (.hostRead s.opCb 256 none)).fetched block
      match block with
      | .failed => s.finishOp c 0x303
      | .ok bs ep =>
        if ep || bs.length != 256 then s.finishOp c 0x303
        else
          let v := leNat (bs.take 128)
          let b := blockOf v
          let ringBits := (List.range 8).map fun r => leNat ((bs.drop (128 + 16 * r)).take 16)
          let rings := ringBits.map ringOf
          let s := if b.hwinAddr = 0 then s else (s.toHost (.hostRead b.hwinAddr 512 none)).fetched wins
          let winsBad := b.hwinAddr != 0 && match wins with | .ok ws e => e || ws.length != 512 | .failed => true
          if winsBad then s.finishOp c 0x303
          else
            let code := s.createCode v b rings ringBits
            if code != 0 then s.finishOp c code
            else
              let ws := if b.hwinAddr = 0 then [] else match wins with | .ok w _ => hwinsOf w | .failed => []
              ((s.setCtx c (newCtx b rings ws)).writeLine c).finishOp c 0)

/-- Does a context hold started commands. -/
def Ctx.anyActive (x : Ctx) : Bool := x.cmds.any Cmd.active

/-- The command that carries DESTROYED: the trapped one of a halted context, else the earliest started (entry 21). -/
def Ctx.destroyedCmd (x : Ctx) : Option Nat :=
  match x.cmds.find? (fun m => m.phase == .trapped) with
  | some m => some m.uid
  | none => (x.cmds.find? Cmd.active).map fun m => m.uid

/-- DESTROY's teardown: a halted context first reserves the slot of the trapped command's final record (R339, R387). -/
def State.destroyFault (s : State) (c : Nat) : State :=
  let x := s.ctx c
  let x' := { x with reserved := x.reserved + b2n x.halted,
                     cmds := x.cmds.map fun (m : Cmd) => if m.phase = .trapped then { m with phase := .started } else m }
  (s.setCtx c x').faultCtx c 0x317 x.destroyedCmd

/-- DESTROY (R387): tears down started commands, then releases number, allotment and landings. -/
def execDestroy (c : Nat) (s : State) : Host.Outcome State Fault Refusal :=
  .next (
    if !s.opIs 2 c then s
    else
      let x := s.ctx c
      if !x.live then s.finishOp c 0x302
      else if x.halted && !x.slotFree then s
      else
        let s := if x.alive && x.anyActive then s.destroyFault c else s
        let s := if s.teardownReady c then s.teardownDone c else s
        if (s.ctx c).teardown.isSome then s
        else
          let s := { s with cores := s.cores.map (Core.leave c) }.dropSessions fun q => q.ctx == c
          (s.setCtx c {}).finishOp c 0)

/-- PREEMPT (R376, R383): it completes when the save does. -/
def execPreempt (c : Nat) (s : State) : Host.Outcome State Fault Refusal :=
  .next (
    if !s.opIs 3 c then s
    else
      let x := s.ctx c
      if !x.live then s.finishOp c 0x302
      else if x.halted || x.torn then s.finishOp c 0x308
      else if x.saving then s
      else if x.preempted then s.finishOp c 0
      else s.preemptCtx c)

/-- RESUME (R387, R54, R339): a halted context goes on with its trap disarmed until the trapped command completes. -/
def execResume (c : Nat) (s : State) : Host.Outcome State Fault Refusal :=
  .next (
    if !s.opIs 4 c then s
    else
      let x := s.ctx c
      if !x.live then s.finishOp c 0x302
      else if !x.halted then s.finishOp c 0x308
      else if !x.slotFree then s
      else
        let x' := { x with
          halted := false, reserved := x.reserved + 1, armed := (match x.blk with | some b => b.nanEn | none => false), lineDirty := true
          preempted := !x.savedCores.isEmpty
          cmds := x.cmds.map fun (m : Cmd) => if m.phase = .trapped then { m with phase := .started, disarm := true } else m }
        (s.setCtx c x').finishOp c 0)

/-- MGMT_ENABLE_WRITE (R348, Table 13.12): a write of CTX_MGMT_CTRL. At the rise of ENABLE the base, the size and the
window table take effect and the sequences start at 0; ACTIVE stays 0 with LOG_ENTRIES out of range. -/
def execMgmtEnableWrite (v : Word) (wins : HostData) (s : State) : Host.Outcome State Fault Refusal :=
  .next (
    if !s.up then s
    else
      let n := v.toNat
      let s := s.wake.received 4
      let old := s.mgmtCtrl.toNat % 2
      let s := { s with mgmtCtrl := BitVec.ofNat 32 (bits n 18 8 * 256 + bits n 7 4 * 16 + n % 2) }
      let logN := bits n 7 4
      if n % 2 = 1 && old == 0 then
        if 4 ≤ logN && logN ≤ 12 then
          let base := s.mgmtHi.toNat * 2 ^ 32 + s.mgmtLo.toNat / 4096 * 4096
          let s := (s.toHost (.hostRead (base + 512) 512 none)).fetched wins
          let ws := match wins with | .ok bs _ => hwinsOf bs | .failed => []
          { s with mgmt := { active := true, base := base, logN := logN,
                             wins := ws, lineDirty := true } }
        else s
      else if n % 2 = 0 then
        { s with mgmt := { s.mgmt with active := false, fetched := none, reserved := b2n s.mgmt.running.isSome } }
      else s)

end Sys2Proof.Machine
end

