-- ==== Sys2Proof/Machine/Host.lean ====
section
/-! DEFINITION. The host's accesses: BAR0 registers (20, 14, 16, 17, 18, 19, 15), BAR2 (19 R478, R479), configuration
requests, debug and test controls (18), and the management descriptors HINT_LATENCY, SNAPSHOT, CFG_CHECK, CFG_APPLY. -/

namespace Sys2Proof.Machine

/-! ### Which registers answer (R500) -/

/-- Offsets of the ID and version block and of the security block. -/
def secBlock (off : Nat) : Bool := decide (off < 0x10000) || (decide (0x80000 ≤ off) && decide (off < 0xA0000))

/-- Does BAR0 answer at an offset (Table 20.8). -/
def State.answers (s : State) (off : Nat) : Bool :=
  match s.boot.life with
  | .ready => !s.boot.fired || secBlock off
  | .recovery => secBlock off
  | _ => false

/-! ### Reading registers -/

/-- The applied cap of a die: the more restrictive of the power cap and its thermal cap; 0b11 under an AVS fault
(R425, R433). -/
def State.capOf (s : State) (d : Nat) : Nat :=
  if s.power.avsHeld then 3 else max s.power.powerCap (s.power.thermalCap.getD d 0)

/-- PWR_CAP (Table 16.12). -/
def State.pwrCap (s : State) : Nat :=
  b2n s.power.avsHeld * 2 ^ 13 + b2n (s.power.powerCap != 0) * 2 ^ 12 +
    (List.range 4).foldl (fun n d => n + b2n (decide (s.power.powerCap < s.power.thermalCap.getD d 0)) * 2 ^ (8 + d)) 0 +
    (List.range 4).foldl (fun n d => n + s.capOf d * 4 ^ d) 0

/-- Anti-rollback count: consecutive 1 bits from bit 0 of OTP bytes 2,560 to 2,575 (R447). -/
def countOnes : Nat → Nat → Nat
  | 0, _ => 0
  | f + 1, v => if v % 2 = 1 then 1 + countOnes f (v / 2) else 0

def Boot.otpByte (b : Boot) (n : Nat) : Byte := Cells.get 0 n b.otp
def Boot.otpNat (b : Boot) (n len : Nat) : Nat := leNat ((List.range len).map fun i => b.otpByte (n + i))
def Boot.svnCount (b : Boot) : Nat := countOnes 128 (b.otpNat 2560 16)

/-- A byte of the OTP window: the device secret and the manufacturing area read as zero (R443). -/
def Boot.otpWindow (b : Boot) (n : Nat) : Byte := if 2592 ≤ n then 0 else b.otpByte n

/-- SEC_BOOT_STATUS (Table 17.11). -/
def Boot.statusWord (b : Boot) : Nat :=
  b.stage * 2 ^ 28 + b.failA * 2 ^ 24 + b.failB * 2 ^ 20 + b2n b.slot * 2 ^ 19 + b.cfgGen * 2 ^ 17 + b2n b.cfgDefault * 2 ^ 16 +
    b.rsaSlot * 2 ^ 14 + b.slhSlot * 2 ^ 12 + b.pkg * 2 ^ 8

/-- Two's complement code in w bits, saturating. -/
def satCode (w : Nat) (i : Int) : Nat := intCode w (clampInt (-(2 ^ (w - 1))) (2 ^ (w - 1) - 1) i)

/-- LNK_BOARD with given SA fields (Table 15.3). -/
def State.boardWord (s : State) (sa : Word) : Nat :=
  b2n s.synced * 2 ^ 31 + s.boardStatus * 2 ^ 28 + sa.toNat + s.boot.boardId

/-- LNK_PORT_STATUS (Table 15.6). -/
def Port.word (p : Port) : Nat :=
  p.peer * 2 ^ 28 + p.peerPort * 2 ^ 24 + p.downs * 2 ^ 16 + p.width * 4 + p.state

/-- LNK_ROUTE (Table 15.7). -/
def Route.word (r : Route) : Nat := b2n r.valid * 2 ^ 31 + r.via * 2 ^ 16 + r.ports

/-- LNK_PCIE_STATUS with IDE_SECURE as the streams stand (Table 19.6). -/
def State.pcieWord (s : State) : Nat :=
  s.link.pcieStatus.toNat % 2 ^ 10 + b2n s.ideSecure * 2 ^ 10 + s.link.pcieStatus.toNat / 2 ^ 11 * 2 ^ 11

/-- The registers of Table 20.2 that stand at a fixed offset, as a read returns them without its side effects. -/
def State.regFixed (s : State) (off : Nat) : Nat :=
  let recovery := s.boot.life == .recovery
  match off with
  | 0x0 => 0x4D4241FF
  | 0x4 => 0x01010418
  | 0x8 => if recovery then 0 else s.boot.fwVersion.toNat
  | 0x10000 => s.pcieWord
  | 0x10004 => s.link.bar2Units
  | 0x2E000 => s.cbLo.toNat
  | 0x2E004 => s.cbHi.toNat
  | 0x2E00C => b2n s.opBusy * 2 ^ 31 + s.opCtx * 2 ^ 16 + s.opResult
  | 0x2F000 => s.mgmtLo.toNat
  | 0x2F004 => s.mgmtHi.toNat
  | 0x2F008 => s.mgmtCtrl.toNat + 2 * b2n s.mgmt.active
  | 0x2F00C => s.hostToken.toNat
  | 0x40000 => s.power.latTol.toNat
  | 0x40004 => s.power.maxDepth * 256 + s.power.target * 16 + s.power.cur
  | 0x4000C => s.staged.pwrLimit.toNat
  | 0x40010 => s.pwrCap
  | 0x40014 => s.power.avg
  | 0x40018 => b2n s.power.ptmLock * 2 ^ 31 + satCode 16 s.power.ptmOffset
  | 0x60000 => b2n s.shadow.isSome * 2 ^ 31 + b2n s.cfgClean * 2 ^ 30 + min s.cfgConflicts 0xFFFF
  | 0x60008 => s.applyTime.toNat % 2 ^ 32
  | 0x6000C => match s.hiApply with | some w => w.toNat | none => s.applyTime.toNat / 2 ^ 32
  | 0x60100 => s.staged.memMap.toNat
  | 0x60104 => s.staged.bound.toNat
  | 0x80000 => s.boot.statusWord
  | 0x80004 => b2n s.boot.svnTarget.isSome * 2 ^ 31 + s.boot.imageSvn * 256 + s.boot.svnCount
  | 0x8000C => b2n s.boot.fired * 2 ^ 31 + s.boot.heartbeat
  | 0x80010 => s.boot.recLo.toNat
  | 0x80014 => s.boot.recHi.toNat
  | 0xA0000 => 0x010026FD
  | 0xA0004 => s.now.toNat % 2 ^ 32
  | 0xA0008 => match s.hiTel with | some w => w.toNat | none => s.now.toNat / 2 ^ 32
  | 0xC0000 => b2n s.boot.debugPermit * 2 + b2n s.dbg.dbgEn
  | 0xC0008 => b2n (s.ctx s.dbg.ctx).dbgStopped * 2 ^ 31 + b2n s.dbg.err * 2 ^ 30 + s.dbg.ctx
  | 0xC000C => s.dbg.sel.toNat
  | 0xE0000 => b2n s.boot.testPermit * 2 + b2n s.dbg.tstEn
  | 0xE0004 => s.dbg.handshake.toNat
  | 0xE0008 => s.dbg.credit.toNat
  | 0xE000C => s.dbg.delay.toNat
  | 0xE0010 => s.dbg.eccLo.toNat
  | 0xE0014 => s.dbg.eccHi.toNat
  | 0xE0018 => s.dbg.eccCtrl.toNat + b2n s.dbg.eccArmed * 2 ^ 31
  | 0xE001C => s.dbg.nan.toNat + b2n s.dbg.nanArmed * 2 ^ 31
  | 0x100000 => s.sessions.length * 2 ^ 16
  | 0x200000 => s.boardWord s.staged.board
  | 0x200004 => s.inBase.toNat
  | 0x200008 => s.inLimit.toNat
  | 0x20000C => s.inRefused * 2 ^ 16 + s.inPeers
  | _ => 0

/-- A temperature register (Table 16.15). -/
def tempWord (t : Int × Int) : Nat := satCode 16 t.2 * 2 ^ 16 + satCode 16 t.1

/-- What a 32-bit read of a BAR0 offset returns, without the side effects of the read (Table 20.2, R11, R500). -/
def State.reg (s : State) (off : Nat) : Word :=
  BitVec.ofNat 32 (
    if !s.answers off then 0
    else if 0x11000 ≤ off && off < 0x11100 then
      (List.range 32).foldl (fun n i => n + b2n (NatSet.mem ((off - 0x11000) * 8 + i) s.pba) * 2 ^ i) 0
    else if 0x18000 ≤ off && off < 0x20000 then (s.msixWord ((off - 0x18000) / 4)).toNat
    else if 0x40020 ≤ off && off < 0x40034 then tempWord (s.power.temps.getD ((off - 0x40020) / 4) (0, 0))
    else if 0x40040 ≤ off && off < 0x40058 then
      let r := s.power.rails.getD ((off - 0x40040) / 4) (0, 0)
      r.2 * 2 ^ 16 + r.1
    else if 0x81000 ≤ off && off < 0x83000 then
      leNat ((List.range 4).map fun i => s.boot.otpWindow (off - 0x81000 + i))
    else if 0x200100 ≤ off && off < 0x200130 then (s.ports.getD ((off - 0x200100) / 4) {}).word
    else if 0x200200 ≤ off && off < 0x200240 then (s.routes.getD ((off - 0x200200) / 4) {}).word
    else if 0x400000 ≤ off && off < 0x800000 then
      let d := (off - 0x400000) / 0x100000
      let y := s.die d
      match off % 0x100000 with
      | 0x1000 => (s.staged.mu.getD d 0).toNat
      | 0x2000 => (s.staged.scrub.getD d 0).toNat
      | 0x2004 => y.uncorr * 2 ^ 16 + y.corr
      | 0x2008 => y.logLo.toNat
      | 0x200C => y.logHi.toNat
      | _ => 0
    else s.regFixed off)

/-- A read completion of 4 bytes. -/
def State.cpl4 (s : State) (w : Word) : State := s.send (.cpl (leBytes 4 w.toNat) false)

/-- Is an offset in the MSI-X table or pending-bit array (R495). -/
def isMsix (off : Nat) : Bool :=
  (decide (0x18000 ≤ off) && decide (off < 0x20000)) || (decide (0x11000 ≤ off) && decide (off < 0x11100))

/-- Is an access of BAR0 one that the device accepts (R12, R495): 32 bits aligned, or 64 bits aligned in the MSI-X structures. The spec
names widths only; that a misaligned access is answered in the same way is the model's choice (entry 90). -/
def bar0Access (off width : Nat) : Bool := (isMsix off && width == 8 && off % 8 == 0) || (width == 4 && off % 4 == 0)

/-- The answer to a plain read of BAR0 (R11, R12, R495, R500): no row of the table is such a read, which changes no state. -/
def State.readAnswer (s : State) (off width : Nat) : Tx :=
  if bar0Access off width then .cpl (leBytes 4 (s.reg off).toNat ++ if width = 8 then leBytes 4 (s.reg (off + 4)).toNat else []) false
  else .unsupported

/-! ### Debug and test controls (18) -/

/-- Marks the cores of a context stopped or running again. -/
def State.markStop (s : State) (c : Nat) (stop : Bool) (step : Option Nat) : State :=
  { s with cores := s.cores.map fun (y : Core) => if y.runsFor c then { y with dbgStop := stop, stepLeft := step } else y }

/-- The slice of a stopped context does not run: what is left of it is kept (R468). -/
def Ctx.pauseSlice (x : Ctx) (now : Tick) : Ctx :=
  match x.sliceStart with
  | some t => { x with sliceStart := none, sliceLen := x.sliceLen - (now.toNat - t.toNat) }
  | none => x

/-- It goes on, for a context that holds a core. -/
def Ctx.runSlice (x : Ctx) (holds : Bool) (now : Tick) : Ctx := if holds then { x with sliceStart := some now } else x

/-- DEBUG message (Table 18.3). -/
def State.debugMsg (s : State) (c : Nat) (stopped : Bool) : State :=
  s.message 0x20 0 0 0 false 0 (c + 256 * b2n stopped)

/-- DBG_STOP with OP 0b01 (R468, R471). -/
def State.debugStop (s : State) (c : Nat) : State :=
  if !s.dbg.dbgEn || !s.up then s
  else
    let x := s.ctx c
    let s := { s with dbg := { s.dbg with ctx := c } }
    if !x.live || x.halted || x.torn || x.saving then { s with dbg := { s.dbg with err := true } }
    else ((s.setCtx c { x.pauseSlice s.now with dbgStopped := true }).markStop c true none).debugMsg c true

/-- Resume after a stop; a slice runs on from here (R468, R469). -/
def State.debugResume (s : State) (c : Nat) : State :=
  if !s.dbg.dbgEn || !s.up then s
  else
    let x := s.ctx c
    let s := { s with dbg := { s.dbg with ctx := c } }
    if !x.dbgStopped then s
    else ((s.setCtx c { x.runSlice (s.holds c) s.now with dbgStopped := false }).markStop c false none).debugMsg c false

/-- OP 0b11: run STEP issue slots on each core, then stop again; 0 stops the cores at once (R469). -/
def State.debugStep (s : State) (c n : Nat) : State :=
  if !s.dbg.dbgEn || !s.up then s
  else
    let x := s.ctx c
    let s := { s with dbg := { s.dbg with ctx := c } }
    if !x.dbgStopped then s
    else if n = 0 || !s.cores.any (fun y => y.runsFor c) then s
    else ((s.setCtx c { x.runSlice (s.holds c) s.now with dbgStopped := false }).markStop c false (some n)).debugMsg c false

/-- MODE message (Table 18.3). -/
def State.modeMsg (s : State) : State := s.message 0x21 0 0 0 false 0 (b2n s.dbg.dbgEn + 2 * b2n s.dbg.tstEn)

/-- Clearing DEBUG_EN resumes every stopped context (R471). -/
def State.resumeAll (s : State) : State :=
  { s with ctxs := (List.range s.ctxs.length).map fun c =>
             let x := s.ctx c
             if x.dbgStopped then { x.runSlice (s.holds c) s.now with dbgStopped := false } else x
           cores := s.cores.map fun (y : Core) => { y with dbgStop := false, stepLeft := none } }

/-- A write of DEBUG_EN (R467). -/
def State.setDebug (s : State) (v : Bool) : State :=
  if !s.up || v == s.dbg.dbgEn || (v && !s.boot.debugPermit) then s
  else
    let s := { s with dbg := { s.dbg with dbgEn := v } }
    (if v then s else s.resumeAll).modeMsg

/-- A write of TEST_EN: clearing it resets the perturbation registers and disarms (R467, R473). -/
def State.setTest (s : State) (v : Bool) : State :=
  if !s.up || v == s.dbg.tstEn || (v && !s.boot.testPermit) then s
  else
    let g := s.dbg
    let g := if v then { g with tstEn := true }
      else { dbgEn := g.dbgEn, err := g.err, ctx := g.ctx, sel := g.sel : Dbg }
    State.modeMsg { s with dbg := g }

/-- A write of TST_ECC_CTRL (Table 18.15, R497): ARM with NSYM not 0 arms, at the address that TST_ECC_ADDR holds then. -/
def State.setEcc (s : State) (v : Word) : State :=
  if !s.up || !s.dbg.tstEn then s
  else
    let n := v.toNat
    let g := { s.dbg with eccCtrl := BitVec.ofNat 32 (bits n 16 4 * 16) }
    { s with dbg := if n % 2 = 1 ∧ bits n 7 4 ≠ 0 then { g with eccArmed := true, armLo := g.eccLo, armHi := g.eccHi } else g }

/-- A write of TST_NAN (Table 18.16). -/
def State.setNan (s : State) (v : Word) : State :=
  if !s.up || !s.dbg.tstEn then s
  else
    let n := v.toNat
    { s with dbg := { s.dbg with nan := BitVec.ofNat 32 (bits n 18 1 * 2), nanArmed := s.dbg.nanArmed || n % 2 == 1 } }

/-- A write of SEC_SVN_COMMIT (Table 17.13). -/
def State.svnCommit (s : State) (v : Word) : State :=
  if bits v.toNat 31 16 != 0x5356 || s.boot.svnTarget.isSome || !(s.boot.life == .ready || s.boot.life == .recovery) then s
  else { s with boot := { s.boot with svnTarget := some (bits v.toNat 7 0) } }

/-- A write of SEC_RECOVERY_LO (R442): GO starts a load while STAGE is 0x2. -/
def State.recoveryLo (s : State) (v : Word) : State :=
  let b := { s.boot with recLo := BitVec.ofNat 32 (v.toNat / 4096 * 4096) }
  if v.toNat % 2 = 1 && s.boot.life == .recovery && s.boot.stage == 2 then
    let s := { s with boot := { b with stage := 3 } }
    s.send (.hostRead (s.boot.recHi.toNat * 2 ^ 32 + b.recLo.toNat) 0x8000 none)
  else { s with boot := b }

/-- A write of PWR_WAKE (R421). -/
def State.pwrWake (s : State) : State := if s.up then s.wake else s

/-- W1C of DIE_ECC_LOG_LO: VALID only (R298). -/
def State.logClear (s : State) (d : Nat) (v : Word) : State :=
  if v.toNat % 2 = 1 then
    let y := s.die d
    s.setDie d { y with logLo := BitVec.ofNat 32 (y.logLo.toNat / 2 * 2) }
  else s

/-! ### Writes of BAR0 (Table 20.2, R11, R12, R501, R502) -/

/-- A staging write: the staged value changes and CLEAN clears (R453). -/
def State.stage (s : State) (f : Cfg → Cfg) : State := { s with staged := f s.staged, cfgClean := false }

/-- A write of CTX_OP (R367, R497): ignored while BUSY, else it takes the address in CTX_CB; a reserved OP completes at once. -/
def State.ctxOp (s : State) (v : Word) : State :=
  if s.opBusy then s
  else
    let op := bits v.toNat 2 0
    let c := bits v.toNat 13 8
    if op = 0 ∨ 4 < op then { s with opCtx := c, opResult := 0x300 }
    else { s with opBusy := true, opCtx := c, opHeld := some v, opCb := s.cbHi.toNat * 2 ^ 32 + s.cbLo.toNat }

/-- A write of a word of the MSI-X table; unmasking a vector with its bit pending sends it (R495). -/
def State.msixWrite (s : State) (i : Nat) (v : Word) : State :=
  let v := if i % 4 = 3 then BitVec.ofNat 32 (v.toNat % 2) else v
  let s := { s with msix := Cells.set (if i % 4 = 3 then 1 else 0) i v s.msix }
  if i % 4 = 3 && v == 0 && NatSet.mem (i / 4) s.pba then
    State.sendMsix { s with pba := NatSet.del (i / 4) s.pba } (i / 4)
  else s

/-- A write of LNK_IN_PEERS and the like, by offset. Registers with an event of their own act here as in that event;
the rise of CTX_MGMT_CTRL.ENABLE alone belongs to MGMT_ENABLE_WRITE, which carries the table that it reads. -/
def State.writeReg (s : State) (off : Nat) (v : Word) : State :=
  let n := v.toNat
  let w := fun k => BitVec.ofNat 32 (n % 2 ^ k)
  match off with
  | 0x10004 => { s with link := { s.link with bar2Units := n % 32 } }
  | 0x2E000 => { s with cbLo := BitVec.ofNat 32 (n / 64 * 64) }
  | 0x2E004 => { s with cbHi := v }
  | 0x2E008 => s.ctxOp v
  | 0x2F000 => { s with mgmtLo := BitVec.ofNat 32 (n / 4096 * 4096) }
  | 0x2F004 => { s with mgmtHi := v }
  | 0x2F008 =>
    if n % 2 = 1 && s.mgmtCtrl.toNat % 2 == 0 then s
    else
      let s := { s with mgmtCtrl := BitVec.ofNat 32 (bits n 18 8 * 256 + bits n 7 4 * 16 + n % 2) }
      if n % 2 = 0 then
        { s with mgmt := { s.mgmt with active := false, fetched := none, reserved := b2n s.mgmt.running.isSome } }
      else s
  | 0x2F00C => { s with hostToken := v }
  | 0x40000 => if n = 0 then s else State.ltrUpdate { s with power := { s.power with latTol := v } }
  | 0x40004 => { s with power := { s.power with maxDepth := bits n 10 8 } }
  | 0x40008 => s.pwrWake
  | 0x4000C => s.stage fun g => { g with pwrLimit := w 12 }
  | 0x60100 => s.stage fun g => { g with memMap := w 2 }
  | 0x60104 => s.stage fun g => { g with bound := w 1 }
  | 0x80008 => s.svnCommit v
  | 0x80010 => s.recoveryLo v
  | 0x80014 => { s with boot := { s.boot with recHi := v } }
  | 0xC0000 => s.setDebug (n % 2 == 1)
  | 0xC0004 =>
    match bits n 31 30 with
    | 1 => s.debugStop (bits n 21 16)
    | 2 => s.debugResume (bits n 21 16)
    | 3 => s.debugStep (bits n 21 16) (bits n 15 0)
    | _ => s
  | 0xC0008 => if bit1 n 30 then { s with dbg := { s.dbg with err := false } } else s
  | 0xC000C => if s.dbg.dbgEn then { s with dbg := { s.dbg with sel := BitVec.ofNat 32 (bits n 31 20 * 2 ^ 20 + bits n 7 0) } } else s
  | 0xE0000 => s.setTest (n % 2 == 1)
  | 0xE0004 => if s.dbg.tstEn then { s with dbg := { s.dbg with handshake := v } } else s
  | 0xE0008 => if s.dbg.tstEn then { s with dbg := { s.dbg with credit := v } } else s
  | 0xE000C => if s.dbg.tstEn then { s with dbg := { s.dbg with delay := v } } else s
  | 0xE0010 => if s.dbg.tstEn then { s with dbg := { s.dbg with eccLo := v } } else s
  | 0xE0014 => if s.dbg.tstEn then { s with dbg := { s.dbg with eccHi := v } } else s
  | 0xE0018 => s.setEcc v
  | 0xE001C => s.setNan v
  | 0x200000 => s.stage fun g => { g with board := BitVec.ofNat 32 (bits n 15 6 * 64) }
  | 0x200004 => { s with inBase := w 18 }
  | 0x200008 => { s with inLimit := w 18 }
  | 0x20000C => { s with inPeers := n % 2 ^ 16 }
  | off =>
    if 0x400000 ≤ off && off < 0x800000 then
      let d := (off - 0x400000) / 0x100000
      match off % 0x100000 with
      | 0x1000 => s.stage fun g => { g with mu := g.mu.set d (w 4) }
      | 0x2000 => s.stage fun g => { g with scrub := g.scrub.set d (w 8) }
      | 0x2008 => s.logClear d v
      | _ => s
    else s

/-- REGISTER_WRITE: a write of BAR0 by the host (R11, R12, R495, R500): other widths, and misaligned writes (entry 90), get Unsupported Request. -/
def execRegisterWrite (off width : Nat) (v : Tick) (s : State) : Host.Outcome State Fault Refusal :=
  .next (
    if s.boot.life == .held || s.boot.life == .stopped then s
    else
      let s := if s.up then s.wake.received width else s
      let wide := width == 8
      if !bar0Access off width then s.send .unsupported
      else if !s.answers off then s
      else if 0x18000 ≤ off && off < 0x20000 then
        let i := (off - 0x18000) / 4
        let s := s.msixWrite i (BitVec.ofNat 32 (v.toNat % 2 ^ 32))
        if wide then s.msixWrite (i + 1) (BitVec.ofNat 32 (v.toNat / 2 ^ 32)) else s
      else s.writeReg off (BitVec.ofNat 32 (v.toNat % 2 ^ 32)))

/-! ### Registers with an event of their own -/

/-- DEBUG_STOP (R468). -/
def execDebugStop (c : Nat) (s : State) : Host.Outcome State Fault Refusal := .next ((s.received 4).debugStop c)

/-- DEBUG_RESUME (R469). -/
def execDebugResume (c : Nat) (s : State) : Host.Outcome State Fault Refusal := .next ((s.received 4).debugResume c)

/-- DEBUG_STEP (R469). -/
def execDebugStep (c n : Nat) (s : State) : Host.Outcome State Fault Refusal := .next ((s.received 4).debugStep c n)

/-- DEBUG_EN_WRITE (R467). -/
def execDebugEnWrite (v : Bool) (s : State) : Host.Outcome State Fault Refusal := .next ((s.received 4).setDebug v)

/-- TEST_EN_WRITE (R467, R473). -/
def execTestEnWrite (v : Bool) (s : State) : Host.Outcome State Fault Refusal := .next ((s.received 4).setTest v)

/-- ECC_ARM (R475). -/
def execEccArm (v : Word) (s : State) : Host.Outcome State Fault Refusal := .next ((s.received 4).setEcc v)

/-- NAN_ARM (R476). -/
def execNanArm (v : Word) (s : State) : Host.Outcome State Fault Refusal := .next ((s.received 4).setNan v)

/-- PWR_WAKE (R421). -/
def execPwrWake (_v : Word) (s : State) : Host.Outcome State Fault Refusal := .next (s.received 4).pwrWake

/-- SVN_COMMIT (R447). -/
def execSvnCommit (v : Word) (s : State) : Host.Outcome State Fault Refusal := .next ((s.received 4).svnCommit v)

/-- RECOVERY_GO (R442). -/
def execRecoveryGo (v : Word) (s : State) : Host.Outcome State Fault Refusal := .next ((s.received 4).recoveryLo v)

/-- DIE_ECC_COUNT_READ (R297): both counts are returned and cleared in one access. -/
def execDieEccCountRead (die : Nat) (s : State) : Host.Outcome State Fault Refusal :=
  .next (
    if 4 ≤ die || !s.up then s
    else
      let s := s.wake.received 0
      let off := 0x402004 + die * 0x100000
      (s.cpl4 (s.reg off)).setDie die { s.die die with corr := 0, uncorr := 0 })

/-- ECC_LOG_CLEAR (R298). -/
def execEccLogClear (die : Nat) (v : Word) (s : State) : Host.Outcome State Fault Refusal :=
  .next (if 4 ≤ die || !s.up then s else (s.wake.received 4).logClear die v)

/-- TEL_TIME_LO_READ (R497, R498): captures the HI word; before the timebase is set it does not complete. -/
def execTelTimeLoRead (s : State) : Host.Outcome State Fault Refusal :=
  .next (
    if !s.up then s
    else
      let s := s.wake.received 0
      if !s.tbValid then s
      else { s.cpl4 (BitVec.ofNat 32 (s.now.toNat % 2 ^ 32)) with hiTel := some (BitVec.ofNat 32 (s.now.toNat / 2 ^ 32)) })

/-- CFG_APPLY_TIME_LO_READ (R497). -/
def execCfgApplyTimeLoRead (s : State) : Host.Outcome State Fault Refusal :=
  .next (
    if !s.up then s
    else
      let s := s.wake.received 0
      { s.cpl4 (s.reg 0x60008) with hiApply := some (BitVec.ofNat 32 (s.applyTime.toNat / 2 ^ 32)) })

/-- TIME_HI_READ (R497): the captured word, released; the current one without a capture. -/
def execTimeHiRead (p : TimePair) (s : State) : Host.Outcome State Fault Refusal :=
  .next (
    if !s.up then s
    else
      let s := s.wake.received 0
      match p with
      | .telTime => { s.cpl4 (s.reg 0xA0008) with hiTel := none }
      | .applyTime => { s.cpl4 (s.reg 0x6000C) with hiApply := none })

/-! ### Debug window (R470, Table 18.4) -/

/-- Byte j of the selected item of core k; the layout of the issue position's 64 bytes is open (entry 47). -/
def Core.itemByte (y : Core) (k item index j : Nat) : Byte :=
  let field := fun (w : Nat) (n : Nat) => BitVec.ofNat 8 (w / 256 ^ n)
  let bank := fun (b : Nat) =>
    let lane := index / 32 * 256 + j / 16
    field (Cells.get 0 (lane * 32 + index % 32) (y.banks.getD b {}).elems) (j % 16)
  match item with
  | 0 => if j < 1024 then field (Cells.get 0 ((index / 64 * 256 + j / 4) * 64 + index % 64) y.acc).toNat (j % 4) else 0
  | 1 => if j < 4096 then bank 0 else 0
  | 2 => if j < 4096 then bank 1 else 0
  | 3 =>
    if j < 256 then
      let lane := index / 64 * 256 + j
      BitVec.ofNat 8 (Cells.get 0 (lane * 32 + index % 32) (y.banks.getD (index / 32 % 2) {}).scales)
    else 0
  | 4 =>
    if j < 512 && index < 64 then
      field ((Cells.get [] index y.veng.v).getD (j / 4) (Config.freeReg (coreDraw k) index (j / 4))).toNat (j % 4)
    else 0
  | 5 =>
    if index != 0 then 0
    else if j < 64 then
      Config.freeByte (y.pos.pass + y.pos.seg * 2 ^ 32 + y.pos.entry * 2 ^ 64 + y.pos.row * 2 ^ 96) j
    else if j < 320 then field (Cells.get 0x3F800000 ((j - 64) / 4) y.scales).toNat ((j - 64) % 4)
    else 0
  | _ => 0

/-- Context and command that a parity error of the selected item faults (R91, R296): the owner of the bank, of the pass that owns the
accumulator, or of the run that owns the register. -/
def Core.itemOwner (y : Core) (item index : Nat) : Option (Nat × Nat) :=
  let ofBank := fun (b : Nat) => let q := y.banks.getD b {}; q.owner.bind fun c => q.tag.map fun g => (c, g.1)
  let ofTile := fun (t : Option TileCmd) => t.map fun x => (x.ctx, x.uid)
  match item with
  | 0 => ofTile (y.run <|> y.prev)
  | 1 => ofBank 0
  | 2 => ofBank 1
  | 3 => ofBank (index / 32 % 2)
  | _ => ofTile (match y.veng.cur with | some r => y.tile r.who | none => y.run <|> y.prev)

/-- Log source of a parity error of an item (Table 11.8), and what ADDR then names for the word at byte `off` (R298); `pick` chooses
among four lanes of one word of scale fields. -/
def parityPlace (item index off pick : Nat) : Nat × Nat :=
  match item with
  | 0 => (5, 64 * (index / 64 * 256 + off / 4))
  | 1 => (4, 64 * (index / 32 * 256 + off / 16))
  | 2 => (4, 64 * (index / 32 * 256 + off / 16))
  | 3 => (4, 64 * (index / 64 * 256 + off + pick % 4))
  | _ => (6, 64 * index)

/-- DBG_WINDOW_READ (R470): zero and ERR while the core is not stopped by debug; groups issued before the stop have updated (R87). A
parity error faults the owner, and the register is not copied out: the value read is then open (R91, R296). A misaligned read is
answered as another width is (entry 90). -/
def execDbgWindowRead (off : Nat) (par : Bool) (s : State) : Host.Outcome State Fault Refusal :=
  .next (
    if !s.up || 4096 ≤ off then s
    else
      let s := s.wake.received 0
      let v := s.dbg.sel.toNat
      let k := bits v 31 24
      let y := s.core k
      if off % 4 != 0 then s.send .unsupported
      else if !y.dbgStop then { s.cpl4 0 with dbg := { s.dbg with err := true } }
      else
        let item := bits v 23 20
        let index := bits v 7 0
        if par && item ≤ 4 then
          let s := (s.cpl4 (BitVec.ofNat 32 (Config.freeNat s.free))).drawn
          let at_ := parityPlace item index off (Config.freeNat s.free)
          let s := if item = 3 then s.drawn else s
          match y.itemOwner item index with
          | some o => s.parityFault k o.1 o.2 (parityCode at_.1) at_.1 at_.2
          | none => s.memError (k / 64) at_.1 at_.2 0 0 k none
        else s.cpl4 (BitVec.ofNat 32 (leNat ((List.range 4).map fun i => y.drained.1.itemByte k item index (off + i)))))

/-! ### BAR2 (R478, R479, R472) -/

/-- BASE of BAR2. -/
def State.bar2Base (s : State) : Nat :=
  let sz := 2 ^ s.boot.bar2Size
  min s.link.bar2Units 23 / sz * sz * 0x400000000

/-- Which context's landing area holds an address, with the offset. -/
def State.landingAt (s : State) (a : Nat) : Option (Nat × Nat) :=
  (List.range 64).findSome? fun c =>
    let x := s.ctx c
    match x.blk with
    | some b =>
      if x.live then
        (List.range 4).findSome? fun d =>
          let l := b.land.getD d 0
          if l ≤ a && a < l + landBytes then some (c, a - l) else none
      else none
    | none => none

/-- A byte of a landing area in debug mode (R472): memory, but for the die area and the control areas of core slots, whose layout the
spec leaves to the part and which read as open bytes (Tables 14.9, 14.10). -/
def State.landingByte (s : State) (c off a : Nat) : Byte :=
  if off < 0x400000 || slotBytes ≤ (off - 0x400000) % 0x360000 then Config.freeByte c a else s.mem.byte a

/-- One byte that a BAR2 read returns. -/
def State.bar2Byte (s : State) (a : Nat) : Byte :=
  match s.landingAt a with
  | some (c, off) => if s.dbg.dbgEn then s.landingByte c off a else 0
  | none => s.mem.byte a

/-- May BAR2 be used (R452). -/
def State.bar2Up (s : State) : Bool := s.up && (!s.boot.ideRequired || s.ideSecure)

/-- BAR2_READ (R478, R472, R287, R294): lines are corrected as they are read, and poison in a byte that is returned sets EP. -/
def execBar2Read (off n : Nat) (s : State) : Host.Outcome State Fault Refusal :=
  .next (
    if !s.up then s
    else
      let s := s.wake.received 0
      let a := s.bar2Base + off
      if !s.bar2Up || devTop < a + n then s.send .unsupported
      else
        let seen := if s.dbg.dbgEn then [(a, n)]
          else ((List.range n).filter fun i => (s.landingAt (a + i)).isNone).map fun i => (a + i, 1)
        let s := (s.settle seen).carryFrom seen 4
        s.send (.cpl ((List.range n).map fun i => s.bar2Byte (a + i)) (seen.any fun r => s.mem.poisoned 64 r.1 r.2)))

/-- BAR2_WRITE (R478, R479): EP stores the data poisoned. -/
def execBar2Write (off : Nat) (data : List Byte) (ep : Bool) (s : State) : Host.Outcome State Fault Refusal :=
  .next (
    if !s.up then s
    else
      let s := s.wake.received data.length
      let a := s.bar2Base + off
      let landing := (List.range data.length).any fun i => (s.landingAt (a + i)).isSome
      if !s.bar2Up || devTop < a + data.length || (landing && !s.dbg.dbgEn) then s.send .unsupported
      else (s.carryTo 4 a data.length).devWrite a data ep)

/-- LNK_PCIE_STATUS as the link trained and as the host enabled the features of Table 19.6: a legal word from free bits (entry 98). -/
def linkWord (n : Nat) : Word :=
  let speed := 1 + n % 7
  let flit := decide (6 ≤ speed) || n / 7 % 2 == 1
  BitVec.ofNat 32 (n / 14 % 8 * 2 ^ 11 + b2n flit * 2 ^ 9 + 2 ^ (n / 112 % 5) * 16 + speed)

/-- What the host's configuration accesses leave: the state of the link, and the size of BAR2 within Table 19.1 (R477, entry 98). -/
def State.hostConfigures (s : State) : State :=
  { s with link := { s.link with pcieStatus := linkWord (Config.freeNat s.free) }
           boot := { s.boot with bar2Size := Config.freeNat (s.free + 1) % 6 }, free := s.free + 2 }

/-- CONFIG_REQUEST (R436, R441, R477): Retry Status until the device is ready. -/
def execConfigRequest (s : State) : Host.Outcome State Fault Refusal :=
  .next (
    match s.boot.life with
    | .ready => (if s.up then s.wake.received 0 else s).hostConfigures.send .cplDone
    | .recovery => s.send .cplDone
    | .booting => s.send .retryStatus
    | .flr => s.send .retryStatus
    | .held => s
    | .stopped => s)

/-! ### Management descriptors -/

/-- The running management descriptor with an opcode. -/
def State.mgmtRun (s : State) (op : Nat) : Option MgmtDesc :=
  match s.mgmt.running with
  | some d => if s.awake && d.opcode == op && !d.waiting then some d else none
  | none => none

/-- HINT_LATENCY (Table 16.8, R422, R484): TOL becomes L at its completion. -/
def execHintLatency (s : State) : Host.Outcome State Fault Refusal :=
  .next (
    match s.mgmtRun 0x14 with
    | none => s
    | some d =>
      let tol : Word := BitVec.ofNat 32 (bits d.desc 383 352)
      let s := { s with power := { s.power with latTol := tol } }
      (s.wake.ltrUpdate).mgmtDone 0 0)

/-- First and count of the catalogue indexes of a group code (Table 18.1). -/
def groupRange (g : Nat) : Nat × Nat :=
  match g with
  | 1 => (0, 3072) | 2 => (3072, 1536) | 3 => (4608, 96) | 4 => (4704, 16) | 5 => (4720, 4608) | 6 => (9328, 32)
  | 7 => (9360, 144) | 8 => (9504, 72) | 9 => (9576, 8) | 10 => (9584, 384) | 11 => (9968, 13)
  | _ => (0, 0)

/-- Catalogue indexes of the selected groups, ascending (R465). -/
def groupIndexes (groups : Nat) : List Nat :=
  (List.range 12).flatMap fun g => if bit1 groups g then (List.range (groupRange g).2).map fun i => (groupRange g).1 + i else []

/-- SNAPSHOT (R463): refused with the first code that applies, else pending until its tick. -/
def execSnapshot (s : State) : Host.Outcome State Fault Refusal :=
  .next (
    match s.mgmtRun 0x18 with
    | none => s
    | some d =>
      let start := d.start.toNat
      let time := if bits d.desc 319 256 = 0 then start + 2000 else bits d.desc 319 256
      let groups := bits d.desc 255 240
      let addr := bits d.desc 383 320
      let host := bit1 d.desc 239
      let n := 64 + 8 * (groupIndexes groups).length
      if time < start + 2000 || start + 1000000000 < time then s.mgmtDone 0x420 0
      else if addr % 64 != 0 || (if host then (winFor s.mgmt.wins addr n true).isNone else decide (devTop < addr + n)) then
        s.mgmtDone 0x421 0
      else if groups = 0 || groups % 2 == 1 || decide (4096 ≤ groups) then s.mgmtDone 0x422 0
      else
        { s with snap := some { time := BitVec.ofNat 64 time, seq := d.seq, groups := groups, addr := addr, host := host },
                 mgmt := { s.mgmt with running := some { d with waiting := true } } })

/-- SNAPSHOT_LATCH (R464, R465): at T the selected counters are latched and written behind their header. -/
def execSnapshotLatch (s : State) : Host.Outcome State Fault Refusal :=
  .next (
    match s.snap with
    | none => s
    | some q =>
      if !s.awake || s.now.toNat < q.time.toNat then s
      else
        let is := groupIndexes q.groups
        let head := q.time.toNat + q.seq.toNat * 2 ^ 64 + q.groups * 2 ^ 96 + is.length * 2 ^ 128
        let data := leBytes 64 head ++ is.flatMap fun i => leBytes 8 (s.counterNow i)
        let s := { s with snap := none }
        let s := if q.host then s.toHost (.hostWrite q.addr data false false ((winFor s.mgmt.wins q.addr data.length true).bind HWin.tag))
          else s.hubWrite q.addr data false
        s.mgmtDone 0 q.time.toNat)

/-! ### Staged configuration (R453 to R457) -/

/-- A conflict: offset, lowest bit, width, code, staged and live register values (Table 17.7). -/
structure Conflict where
  offset : Nat
  low : Nat
  width : Nat
  code : Nat
  staged : Nat
  live : Nat
  deriving DecidableEq, Repr

/-- Does any context exist. -/
def State.anyCtx (s : State) : Bool := s.ctxs.any fun x => x.live

/-- Is SIZE and BOARD_ID within Table 15.1 for TOPO. -/
def boardSizeOk (topo size id : Nat) : Bool :=
  match topo with
  | 0 => size == 0
  | 1 => decide (1 ≤ size) && decide (size ≤ 7) && decide (id ≤ size)
  | 2 => size == 15
  | _ => true

/-- The conflicts of the staged set, in ascending OFFSET then LOW (R454, R83, R282, R388, R412, R426). -/
def State.conflicts (s : State) : List Conflict :=
  let g := s.staged
  let l := s.cfg
  let ctx := s.anyCtx
  let one := fun (bad : Bool) (off low width code st lv : Nat) =>
    if bad then [({ offset := off, low := low, width := width, code := code, staged := st, live := lv } : Conflict)] else []
  let bs := s.boardWord g.board
  let bl := s.boardWord l.board
  let f := fun (w : Word) (hi lo : Nat) => bits w.toNat hi lo
  let watts := g.pwrLimit.toNat
  one (decide (watts < 2000) || decide (3600 < watts)) 0x4000C 0 12 0x401 watts l.pwrLimit.toNat ++
  one (g.memMap == 3) 0x60100 0 2 0x401 g.memMap.toNat l.memMap.toNat ++
  one (ctx && g.memMap != l.memMap) 0x60100 0 2 0x402 g.memMap.toNat l.memMap.toNat ++
  one (ctx && g.bound != l.bound) 0x60104 0 1 0x402 g.bound.toNat l.bound.toNat ++
  one (f g.board 7 6 == 3) 0x200000 6 2 0x401 bs bl ++
  one (ctx && f g.board 7 6 != f l.board 7 6) 0x200000 6 2 0x402 bs bl ++
  one (ctx && f g.board 11 8 != f l.board 11 8) 0x200000 8 4 0x402 bs bl ++
  one (!boardSizeOk (f g.board 7 6) (f g.board 11 8) s.boot.boardId) 0x200000 8 4 0x404 bs bl ++
  one (ctx && f g.board 15 12 != f l.board 15 12) 0x200000 12 4 0x402 bs bl ++
  one (decide (f g.board 11 8 < f g.board 15 12)) 0x200000 12 4 0x404 bs bl ++
  (List.range 4).flatMap fun d =>
    one ((g.mu.getD d 0).toNat % 4 == 3 && !s.dbg.tstEn) (0x401000 + d * 0x100000) 0 2 0x403 (g.mu.getD d 0).toNat (l.mu.getD d 0).toNat

/-- The 16 bytes of a conflict record (Table 17.7). -/
def Conflict.bytes (k : Conflict) : List Byte :=
  leBytes 16 (k.staged * 2 ^ 96 + k.live * 2 ^ 64 + k.code * 2 ^ 48 + k.width * 2 ^ 40 + k.low * 2 ^ 32 + k.offset)

/-- CFG_CHECK (R454). -/
def execCfgCheck (s : State) : Host.Outcome State Fault Refusal :=
  .next (
    match s.mgmtRun 0x19 with
    | none => s
    | some d =>
      let ks := s.conflicts
      let list := bits d.desc 383 320
      let data := (ks.take (bits d.desc 319 304)).flatMap Conflict.bytes
      let s := if list = 0 || data.isEmpty then s
        else if bit1 d.desc 303 then s.toHost (.hostWrite list data false false ((winFor s.mgmt.wins list data.length true).bind HWin.tag))
        else s.hubWrite list data false
      let s := { s with cfgConflicts := ks.length, cfgClean := ks.isEmpty }
      s.mgmtDone (if ks.isEmpty then 0 else 0x400) (ks.length % 2 ^ 32))

/-- CFG_APPLY (R455, R456): refused with the first code that holds, else the shadow is taken and PENDING set. -/
def execCfgApply (s : State) : Host.Outcome State Fault Refusal :=
  .next (
    match s.mgmtRun 0x1A with
    | none => s
    | some d =>
      let t := bits d.desc 383 320
      let start := d.start.toNat
      let ks := s.conflicts
      if !s.cfgClean then s.mgmtDone 0x405 0
      else if !ks.isEmpty then ({ s with cfgClean := false, cfgConflicts := ks.length }).mgmtDone 0x400 ks.length
      else if t != 0 && (decide (t < start + 10000) || decide (start + 490000 < t)) then s.mgmtDone 0x406 0
      else
        let time := if t = 0 then start + 10000 else t
        { s with shadow := some { time := BitVec.ofNat 64 time, cfg := s.staged, decided := false },
                 mgmt := { s.mgmt with running := some { d with waiting := true } } })

/-- CFG_APPLY_DECISION (R456): at TIME − 2,000 the hub commits when every island has acknowledged, else aborts. -/
def execCfgApplyDecision (acked : Bool) (s : State) : Host.Outcome State Fault Refusal :=
  .next (
    match s.shadow with
    | none => s
    | some w =>
      if !s.up || w.decided || s.now.toNat + 2000 < w.time.toNat then s
      else if acked then { s with shadow := some { w with decided := true } }
      else ({ s with shadow := none }).mgmtDone 0x407 0)

/-- Device memory under a new interleave (R282): what an address reads as is undefined; poison and bad symbols stay on their lines. -/
def Mem.remapped (m : Mem) (old new draw : Nat) : Mem :=
  let line := fun (x : Nat) => let h := shareOf old (64 * x); addrOf new h.1 h.2 / 64
  { fill := some draw
    poison := m.poison.foldl (fun l x => NatSet.add (line x) l) []
    latent := m.latent.foldl (fun l x => Cells.set 0 (line x.1) x.2 l) [] }

/-- A new ramp length takes a ramp in progress to the start of its phase (R82). -/
def Ramp.restarted : Ramp → Ramp
  | .up p _ => .up p 0
  | .down p _ => .down p 0
  | r => r

/-- What a change of the live set does beside the values: contents after a re-map (R282), the training of the links
of a new board, or of one that was found at fault (R412). -/
def State.applied (s : State) (old : Cfg) : State :=
  let s := if old.memMap = s.cfg.memMap then s
    else { s with mem := s.mem.remapped (old.memMap.toNat % 4) (s.cfg.memMap.toNat % 4) s.free, free := s.free + 1 }
  let ramp := fun (k : Nat) => if old.mu.getD (k / 64) 0 = s.cfg.mu.getD (k / 64) 0 then s.core k else { s.core k with ramp := (s.core k).ramp.restarted }
  let s := { s with cores := (List.range s.cores.length).map ramp }
  if old.board = s.cfg.board ∧ s.boardStatus < 2 then s
  else { s with boardStatus := 0, synced := false, routes := List.replicate 16 {},
                ports := s.ports.map fun (p : Port) => { p with state := if bits s.cfg.board.toNat 7 6 = 0 then 0 else 1, width := 0, fails := 0 } }

/-- CFG_APPLY_COMMIT (R456): at TIME every island changes over. -/
def execCfgApplyCommit (s : State) : Host.Outcome State Fault Refusal :=
  .next (
    match s.shadow with
    | none => s
    | some w =>
      if !s.up || !w.decided || s.now.toNat < w.time.toNat then s
      else
        let old := s.cfg
        let s := { s with cfg := w.cfg, shadow := none, applyTime := w.time }
        (s.applied old).mgmtDone 0 w.time.toNat)

end Sys2Proof.Machine
end

