-- ==== Sys2Proof/Machine/MemSteps.lean ====
section
/-! DEFINITION. Reads and writes of the bonded memory and their errors (spec file 11): MEMORY_READ, MEMORY_WRITE_HOME,
SCRUB_READ, REFRESH. -/

namespace Sys2Proof.Machine

/-- A context uses the bytes as data: poison tears it down (R294). -/
def State.consume (s : State) (t : MemTarget) (a : Nat) (ctx : Option Nat) : State :=
  match ctx with
  | none => s
  | some c => if (s.memOf t).poisoned (memUnit t) a 1 then s.faultCtx c 0x310 none else s

/-- A read of the unit at an address (R287, R291): nsym further symbols of it are bad in this read; `user` is the context that uses the
data. -/
def State.readUnit (s : State) (m : MemTarget) (addr nsym : Nat) (user : Option Nat) : State :=
  let s := match m with
    | .dram => let h := s.home addr; s.count (4720 + 6 * (h.2.1 * 32 + h.2.2.1)) 1
    | .dieBuf d => s.count (4704 + 4 * d) 64
    | _ => s
  (s.unitRead m (addr / memUnit m) nsym user).consume m addr user

/-- MEMORY_READ (R287, R291): an address that the memory does not have is a fault of the model. -/
def execMemoryRead (m : MemTarget) (addr nsym : Nat) (user : Option Nat) (s : State) : Host.Outcome State Fault Refusal :=
  if !memHas m addr then .fault .absentAddress
  else .next (if !s.up then s else s.readUnit m addr nsym user)

/-- A command, or an execution of its list, has run all its tile commands: what its rings and T3 slots counted is over. -/
def State.tilesOver (s : State) (c uid : Nat) (exec : Option Nat) : State :=
  let x := s.ctx c
  { s.setCtx c { x with bufSlots := x.bufSlots.filter fun b => !(b.uid == uid && b.exec == exec) } with
    cores := s.cores.map fun (y : Core) => { y with rings := y.rings.filter fun r => r.1 != (c, uid, exec) } }

/-- The last write of a tile command is home: its last tile command ends the command, or lets its execution end (R235, R340). -/
def State.tileHome (s : State) (q : Pending) : State :=
  let x := s.ctx q.ctx
  match x.byUid q.uid, q.exec with
  | none, _ => s
  | some m, none =>
    let m := { m with tilesDone := m.tilesDone - 1 }
    let s := s.setCtx q.ctx (x.putCmd m)
    if m.tilesDone = 0 && m.unplaced.isEmpty then (s.tilesOver q.ctx q.uid none).finish q.ctx q.uid else s
  | some m, some e =>
    let ts := m.steps.tiles.map fun x => if x.1 = e then (e, x.2.1, x.2.2 - 1) else x
    let s := s.setCtx q.ctx (x.putCmd { m with steps := { m.steps with tiles := ts } })
    if ts.any fun x => x.1 == e && x.2.2 == 0 then s.tilesOver q.ctx q.uid (some e) else s

/-- The output slot that a write was the last to drain is FREE (R116). -/
def State.slotHome (s : State) (q : Pending) : State :=
  match q.out with
  | none => s
  | some off =>
    let y := s.core q.core
    s.setCore q.core { y with slots := y.slots.filter fun z => !(z.off == off && match z.operand with | .out _ => true | _ => false) }

/-- MEMORY_WRITE_HOME (R283, R292, R475): the oldest write sent is accepted by its home controller. -/
def execMemoryWriteHome (s : State) : Host.Outcome State Fault Refusal :=
  .next (
    match s.writes with
    | [] => s
    | q :: r =>
      if !s.up then s
      else
        let s := ({ s with writes := r }).carryTo (q.core / 64) q.addr q.data.length
        let s := s.devWrite q.addr q.data q.poison
        let s := s.slotHome q
        if q.last then s.tileHome q else s)

/-- Device address of a die's scrub position; none in the reserved area (R279, R281, R288). -/
def scrubAddr (mode die pos : Nat) : Option Nat :=
  let off := pos / 192 * 64
  let ci := pos % 192
  if 510 * 1048576 ≤ off then none
  else
    let u := off / 256 * 192 + ci / 6 * 6 + ci % 6
    let o := u * 256 + off % 256
    some (addrOf mode die o)

/-- Stack and channel of a scrub position. -/
def scrubChannel (die pos : Nat) : Nat × Nat := (die * 6 + pos % 192 % 6, pos % 192 / 6)

/-- SCRUB_READ (R288 to R290), paused in A3 and A4: the die's next line is read; it is corrected, or poisoned and logged with SOURCE 0b001. -/
def execScrubRead (die nsym : Nat) (s : State) : Host.Outcome State Fault Refusal :=
  .next (
    if !s.up || 4 ≤ die || 2 < s.power.cur || (s.cfg.scrub.getD die 0) == 0 then s
    else
      let y := s.die die
      let pos := y.scrubPos
      let ch := scrubChannel die pos
      let s := s.setDie die { y with scrubPos := (pos + 1) % (192 * 8388608) }
      let base := 4720 + 6 * (ch.1 * 32 + ch.2)
      let s := s.count (base + 5) 1
      match scrubAddr (s.cfg.memMap.toNat % 4) die pos with
      | none =>
        if NatSet.mem pos y.scrubBad then s
        else (match found true nsym s.free with
          | .good => s
          | .bad =>
            let k := Config.freeNat s.free % 7
            let s := { s with tables := { s.tables with bad := if k < 6 then NatSet.add k s.tables.bad else s.tables.bad }, free := s.free + 1 }
            let s := s.setDie die { s.die die with scrubBad := NatSet.add pos (s.die die).scrubBad }
            (s.count (base + 3) 1).memError die 1 0 ch.1 ch.2 0 none
          | _ => ({ s with free := s.free + 1 }.count (base + 2) 1).corrected die)
      | some a =>
        let x := a / 64
        if NatSet.mem x s.mem.poison then s
        else
          let clean := { s.mem with latent := Cells.set 0 x 0 s.mem.latent }
          match found true (Cells.get 0 x s.mem.latent + nsym) s.free with
          | .good => s
          | .fixed => ({ s with mem := clean }.count (base + 2) 1).corrected die
          | .bad =>
            let s := { s with mem := { clean with poison := NatSet.add x clean.poison }, free := s.free + 1 }
            (s.count (base + 3) 1).memError die 1 a ch.1 ch.2 0 none
          | .wrong _ => ({ s with mem := clean.havoc 64 (x * 64) 64 s.free, free := s.free + 1 }.count (base + 2) 1).corrected die)

/-- REFRESH (R391, R429): a channel refreshes; twice as often above 85 °C; none in self-refresh. -/
def execRefresh (stack ch : Nat) (s : State) : Host.Outcome State Fault Refusal :=
  .next (
    if !s.up || 24 ≤ stack || 32 ≤ ch || 2 < s.power.cur then s
    else s.count (4720 + 6 * (stack * 32 + ch) + 4) (if s.power.doubleRefresh.getD (stack / 6) false then 2 else 1))

end Sys2Proof.Machine
end

