-- ==== Sys2Proof/Machine/Compute.lean ====
section
/-! DEFINITION. The compute commands as whole runs (13 R334, R335): banks bound (06 R161), Philox inputs (06 R505), poison (11
R294), the first-NaN trap (02 R51), the writes of the run and its completion (13 R340). -/

namespace Sys2Proof.Machine

/-! ### Surroundings of a run -/

/-- The banks that a command is bound to (R161): bank numbers of EX2, LG2 and the micro-program store. -/
def State.bound (s : State) (banks : List Nat) : Bound :=
  { ex2 := s.tables.ex2.getD (banks.getD 0 0) []
    lg2 := s.tables.lg2.getD (banks.getD 1 0) []
    micro := s.tables.micro.getD (banks.getD 2 0) []
    std := s.tables.microStd.getD (banks.getD 2 0) false }

/-- Philox inputs of a run (R245, R336, R505): membership of a step list, key by batch index, stream number. -/
structure Philox where
  inList : Bool := false
  key : Nat → Nat := fun _ => 0
  ctr : Nat := 0

/-- Philox inputs outside a step list: those of NOISE and WUPD, else 0 (R505). -/
def Work.philox : Work → Philox
  | .noise _ key stream => { key := fun _ => key, ctr := stream }
  | .wupd u => { key := fun _ => u.seed, ctr := u.stream }
  | _ => {}

/-- Philox inputs of an execution (R245). -/
def StepList.philox (l : StepList) (g : Stage) (x : Execution) : Philox :=
  { inList := true
    key := fun b => if l.images ≤ g.imgBase + b then 0 else l.seeds.getD (g.imgBase + b) 0
    ctr := g.stream + 4096 * (if x.phase = 0 then 0 else x.step + 1) }

/-- The work that a command or one execution of its list asks cores for: command, opcode, work, Philox inputs, and the execution
(R234, R240, R258). -/
structure TileJob where
  m : Cmd
  op : Nat
  w : Work
  px : Philox
  x : Option Execution := none

/-- The work of a command, or of an execution of its list. -/
def State.jobOf (s : State) (c uid : Nat) (exec : Option Nat) : Option TileJob :=
  match (s.ctx c).byUid uid with
  | none => none
  | some m =>
    match exec with
    | none => m.work?.map fun w => { m := m, op := m.opcode, w := w, px := w.philox }
    | some e =>
      match m.list? with
      | none => none
      | some l =>
        match l.execution e, l.stageAt e with
        | some x, some g => some { m := m, op := g.opcode, w := l.workOf g x, px := l.philox g x, x := some x }
        | _, _ => none

/-- The surroundings of a run; the core that a trap record names is free (entry 16). -/
def State.workEnv (s : State) (m : Cmd) (p : Philox) : WorkEnv :=
  { pe := { bind := s.bound m.banks, inList := p.inList, key := p.key, ctr := p.ctr, draw := s.free }
    core := Config.freeNat s.free % 256 }

/-- How a run ends: at an address outside device memory (EXEC_ADDR), poison consumed, the first NaN trapped, or memory as it
leaves it and saturation; `defer` when only its tile commands can tell what happens first. -/
inductive Ran where
  | addr
  | poison
  | trap (n : NanSite)
  | defer
  | done (mem : Mem) (sat : Bool)

/-- Does a whole run read memory that it may not use: ATTEND reads all pages of its sequences, and uses those it selects (R211). -/
def Work.overReads : Work → Bool
  | .attend _ _ => true
  | _ => false

/-- Runs a piece of work over a memory. An address that validation does not check, such as that of a mask row, faults (Table 14.11,
entry 83). Whether poison or a NaN comes first, and whether ATTEND uses a poisoned line at all, its tile commands show (R53, R294, R295). -/
def runWork (we : WorkEnv) (armed : Bool) (w : Work) (mem : Mem) : Ran :=
  let bad := w.ins.any fun r => mem.poisoned 64 r.1 r.2
  if w.ins.any fun r => r.2 != 0 && !inDevice r.1 r.2 then .addr
  else if bad && w.overReads then .defer
  else
    let e := w.eval we { mem := mem }
    match e.nan with
    | some n => if armed then (if bad then .defer else .trap n) else if bad then .poison else .done e.mem e.sat
    | none => if bad then .poison else .done e.mem e.sat

/-- Puts a run's memory in place; an armed ECC injection takes the first of its lines that it names (R475). -/
def State.commit (s : State) (m : Mem) (outs : List (Nat × Nat)) : State :=
  match outs.findSome? fun r => s.eccHits 0 0 64 r.1 r.2 with
  | none => { s with mem := m }
  | some x =>
    { s with mem := { m with latent := Cells.set 0 x s.eccSyms m.latent }, dbg := { s.dbg with eccArmed := false } }

/-- Replaces a command of a context. -/
def State.putCmd (s : State) (c : Nat) (m : Cmd) : State := s.setCtx c ((s.ctx c).putCmd m)

/-- The trap of a context is armed: no command of it that trapped has still to complete (R54). -/
def State.trapArmed (s : State) (c : Nat) : Bool := (s.ctx c).armed && !(s.ctx c).cmds.any fun m => m.disarm && !m.finished

/-! ### One command -/

/-- No tile command of the command has been placed or has completed. -/
def Cmd.whole (m : Cmd) : Bool := m.unplaced.length == m.tilesDone

/-- Runs a command from beginning to end, or leaves it to its tile commands. -/
def State.runWhole (s : State) (c : Nat) (m : Cmd) (w : Work) : State :=
  let s := s.settle w.ins (some c)
  match runWork (s.workEnv m w.philox) (s.trapArmed c) w s.mem with
  | .addr => (s.drawn.setPhase c m.uid .started).faultCtx c 0x316 (some m.uid)
  | .poison => (s.drawn.setPhase c m.uid .started).faultCtx c 0x310 (some m.uid)
  | .trap n => s.drawn.takeTrap c m.opcode m none m.recStep m.recStage n
  | .defer => s
  | .done mem sat =>
    ((s.drawn.commit mem w.outs).putCmd c { m with sat := m.sat || sat, unplaced := [], tilesDone := 0 }).finish c m.uid

/-- Command i of context c runs when it is its turn and its work is of the kind asked for. -/
def State.runCmd (s : State) (c i : Nat) (kind : Work → Bool) : State :=
  match (s.ctx c).cmd? i with
  | none => s
  | some m =>
    match m.work? with
    | none => s
    | some w => if kind w && s.ready c && (s.ctx c).inOrder i m && m.whole then s.runWhole c m w else s

def Work.isMatmul : Work → Bool | .matmul _ _ _ => true | _ => false
def Work.isChain : Work → Bool | .chain _ _ _ _ _ => true | _ => false
def Work.isAttend : Work → Bool | .attend _ _ => true | _ => false
def Work.isConv : Work → Bool | .conv _ _ => true | _ => false
def Work.isPool : Work → Bool | .pool _ => true | _ => false
def Work.isPosy : Work → Bool | .posy _ _ => true | _ => false
def Work.isFold : Work → Bool | .fold _ _ => true | _ => false
def Work.isRowstat : Work → Bool | .rowstat _ _ _ _ => true | _ => false
def Work.isClover : Work → Bool | .clover _ _ _ _ _ _ => true | _ => false
def Work.isTranspose : Work → Bool | .transpose _ _ => true | _ => false
def Work.isFill : Work → Bool | .fill _ _ _ => true | _ => false
def Work.isNoise : Work → Bool | .noise _ _ _ => true | _ => false
def Work.isWupd : Work → Bool | .wupd _ => true | _ => false

/-- MATMUL (R103): the whole command while none of its tile commands is placed (R372). -/
def execMatmul (c i : Nat) (s : State) : Host.Outcome State Fault Refusal := .next (s.runCmd c i Work.isMatmul)
/-- CHAIN (R146, R147). -/
def execChain (c i : Nat) (s : State) : Host.Outcome State Fault Refusal := .next (s.runCmd c i Work.isChain)
/-- ATTEND (R195). -/
def execAttend (c i : Nat) (s : State) : Host.Outcome State Fault Refusal := .next (s.runCmd c i Work.isAttend)
/-- CONV (R217). -/
def execConv (c i : Nat) (s : State) : Host.Outcome State Fault Refusal := .next (s.runCmd c i Work.isConv)
/-- POOL (R229). -/
def execPool (c i : Nat) (s : State) : Host.Outcome State Fault Refusal := .next (s.runCmd c i Work.isPool)
/-- POSY (R128). -/
def execPosy (c i : Nat) (s : State) : Host.Outcome State Fault Refusal := .next (s.runCmd c i Work.isPosy)
/-- REDUCE FOLD (R85). -/
def execReduceFold (c i : Nat) (s : State) : Host.Outcome State Fault Refusal := .next (s.runCmd c i Work.isFold)
/-- REDUCE ROWSTAT (R174). -/
def execReduceRowstat (c i : Nat) (s : State) : Host.Outcome State Fault Refusal := .next (s.runCmd c i Work.isRowstat)
/-- REDUCE CLOVER (R205). -/
def execReduceClover (c i : Nat) (s : State) : Host.Outcome State Fault Refusal := .next (s.runCmd c i Work.isClover)
/-- REDUCE TRANSPOSE (R264). -/
def execReduceTranspose (c i : Nat) (s : State) : Host.Outcome State Fault Refusal := .next (s.runCmd c i Work.isTranspose)
/-- FILL (R335). -/
def execFill (c i : Nat) (s : State) : Host.Outcome State Fault Refusal := .next (s.runCmd c i Work.isFill)
/-- NOISE (R336). -/
def execNoise (c i : Nat) (s : State) : Host.Outcome State Fault Refusal := .next (s.runCmd c i Work.isNoise)
/-- WUPD (R270). -/
def execWupd (c i : Nat) (s : State) : Host.Outcome State Fault Refusal := .next (s.runCmd c i Work.isWupd)

end Sys2Proof.Machine
end

