-- ==== Sys2Proof/Machine/Codec.lean ====
section
/-! DEFINITION. Codec sessions and media engines (12): SESSION_OPEN and SESSION_CLOSE, the start of a unit's turn with its session
checks (R304, R325), the engines (R305, R427), and the end of a unit with its frame record (R306). What a video
standard or a bitstream decides is a free value, one function of the unit's inputs (R302, entry 13). -/

namespace Sys2Proof.Machine

/-! ### Sessions -/

/-- Bytes of one reference buffer (R308). -/
def bufBytes (b : SessionBlock) : Nat :=
  let blocks := cdiv b.width 32 * cdiv b.height 8
  let luma := if b.depth then 320 else 256
  let chroma := if b.mono then 0 else if b.depth then 160 else 128
  roundUp (blocks * (2 + luma + chroma) + cdiv b.width 16 * cdiv b.height 16 * 16) 4096

/-- State that a session needs. -/
def sessionBytes (b : SessionBlock) : Nat := 65536 + b.nbuf * bufBytes b

/-- A session block outside Tables 12.2 and 12.7. -/
def sessionBad (b : SessionBlock) : Bool :=
  let enc := decide (3 ≤ b.kind)
  b.stray || decide (4 < b.kind) || b.state % 4096 != 0 || !inDevice b.state b.stateBytes ||
  (if enc then decide (b.width < 64) || decide (8192 < b.width) || decide (b.height < 64) || decide (8192 < b.height) ||
      decide (35651584 < b.width * b.height)
    else decide (b.width < 16) || decide (16384 < b.width) || decide (b.height < 16) || decide (16384 < b.height)) ||
  (b.depth && b.kind == 2) || (b.mono && b.kind != 0) ||
  (if enc then b.nref == 0 || decide (2 < b.nref) || b.nbuf != b.nref + 1 || b.gir == 3 ||
      (if b.gir = 0 then b.girPeriod != 0 else decide (b.girPeriod < 2))
    else b.nref != 0 || decide (b.nbuf < 2) || decide (17 < b.nbuf) || b.gir != 0 || b.girPeriod != 0 || b.keyInterval != 0)

/-- COD_BLOCK. -/
def State.blockBad (s : State) (b : SessionBlock) : Bool :=
  sessionBad b || decide (b.stateBytes < sessionBytes b) ||
    s.sessions.any fun (q : Session) => overlap q.blk.state q.blk.stateBytes b.state b.stateBytes

/-- The open session of a number. -/
def State.session? (s : State) (n : Nat) : Option Session := s.sessions.find? fun q => q.num == n

/-- The session of a descriptor, open on its ring. -/
def State.ownSession (s : State) (c ring n : Nat) : Option Session :=
  match s.session? n with
  | some q => if q.ctx = c ∧ q.ring = ring then some q else none
  | none => none

/-- Body of a codec command. -/
def Cmd.codec? (m : Cmd) : Option CodecBody :=
  match m.job with
  | some (.work (.codec b _ _)) => some b
  | _ => none

/-- A codec operation that names a session. -/
def CodecBody.named (b : CodecBody) : Bool := decide (b.op ≤ 4)

/-- Every earlier descriptor of the ring that names the same session has completed (R304). -/
def Ctx.sessionTurn (x : Ctx) (i : Nat) (m : Cmd) (b : CodecBody) : Bool :=
  !b.named || (x.earlier i m.ring).all fun e => e.finished ||
    match e.codec? with
    | some y => !(y.named && y.session == b.session)
    | none => true

/-- Command i of context c, a checked codec descriptor of operation op whose turn has come (R304). -/
def State.codecTurn (s : State) (c i op : Nat) : Option (Cmd × CodecBody) :=
  let x := s.ctx c
  match x.cmd? i with
  | none => none
  | some m =>
    match m.codec? with
    | none => none
    | some b => if m.phase == .checked && m.unplaced.isEmpty && b.op == op && s.ready c && x.inOrder i m && x.sessionTurn i m b then some (m, b) else none

/-- SESSION_OPEN (R307, R308, Table 12.11). -/
def execSessionOpen (c i : Nat) (s : State) : Host.Outcome State Fault Refusal :=
  .next (
    match s.codecTurn c i 1 with
    | none => s
    | some (m, b) =>
      match m.job with
      | some (.work (.codec _ _ (some q))) =>
        let fails := flag (s.session? b.session).isSome (0x0292, 0, 0) ++ flag (s.blockBad q) (0x0293, 0, 0) ++
          flag (decide (512 ≤ s.sessions.length)) (0x0294, 0, 0)
        (match lowest fails with
          | some f => s.setPhase c m.uid (.rejected f.1 f.2.1 f.2.2)
          | none =>
            { s.finish c m.uid with sessions := s.sessions ++ [{ num := b.session, ctx := c, ring := m.ring, blk := q }] })
      | _ => s)

/-- SESSION_CLOSE (R307): the state memory is undefined afterwards. -/
def execSessionClose (c i : Nat) (s : State) : Host.Outcome State Fault Refusal :=
  .next (
    match s.codecTurn c i 2 with
    | none => s
    | some (m, b) =>
      match s.ownSession c m.ring b.session with
      | none => s.setPhase c m.uid (.rejected 0x0292 0 0)
      | some q => (s.dropSessions fun y => y.num == q.num).finish c m.uid)

/-! ### A unit's turn -/

/-- Session checks of a unit: KIND fits, an HEVC quantiser is at most 51 (Tables 12.5, 12.11). -/
def State.unitFails (s : State) (c : Nat) (m : Cmd) (b : CodecBody) : List Failure :=
  if 5 ≤ b.op then []
  else match s.ownSession c m.ring b.session with
    | none => [(0x0292, 0, 0)]
    | some q =>
      flag ((b.op == 3) != decide (q.blk.kind ≤ 2)) (0x0292, 0, 0) ++
        flag (b.op == 4 && q.blk.kind == 4 && decide (51 < b.param)) (0x0295, 0, 0)

/-- A unit becomes ready for an engine, or its descriptor is rejected (R305, R325). `unplaced` holds the one unit until an
engine takes it and the descriptor starts (R338). -/
def State.queueUnit (s : State) (c i op : Nat) : State :=
  match s.codecTurn c i op with
  | none => s
  | some (m, b) =>
    match lowest (s.unitFails c m b) with
    | some f => s.setPhase c m.uid (.rejected f.1 f.2.1 f.2.2)
    | none => s.putCmd c { m with unplaced := [0] }

/-- DECODE (R302, R309): queued for a video decoder. -/
def execDecode (c i : Nat) (s : State) : Host.Outcome State Fault Refusal := .next (s.queueUnit c i 3)
/-- ENCODE (R320): queued for a video encoder. -/
def execEncode (c i : Nat) (s : State) : Host.Outcome State Fault Refusal := .next (s.queueUnit c i 4)
/-- JPEG_DEC (R322): queued for a JPEG decoder. -/
def execJpegDec (c i : Nat) (s : State) : Host.Outcome State Fault Refusal := .next (s.queueUnit c i 5)
/-- JPEG_ENC (R303): queued for a JPEG encoder. -/
def execJpegEnc (c i : Nat) (s : State) : Host.Outcome State Fault Refusal := .next (s.queueUnit c i 6)
/-- SCALE (R324): queued for a scale and colour unit. -/
def execScale (c i : Nat) (s : State) : Host.Outcome State Fault Refusal := .next (s.queueUnit c i 7)

/-! ### Engines -/

/-- Kind of an engine by its number (R461), as the operation that it runs. -/
def engineOp (e : Nat) : Nat :=
  if e < 8 then 3 else if e < 12 then 4 else if e < 28 then 5 else if e < 32 then 6 else 7

/-- An engine may take a unit: idle, and when the hub is hot idle for as long as its last unit ran (R427). -/
def State.engineFree (s : State) (e : Nat) : Bool :=
  let g := s.engines.getD e {}
  decide (e < 36) && g.unit.isNone && (!s.power.hot || decide (g.lastRun ≤ s.now.toNat - g.idleFrom.toNat))

/-- The unit of an operation that a context would start next: the first in fetch order that R304 allows and that passes its session
checks, once its own row has made it ready (R305). -/
def State.nextUnit (s : State) (c op : Nat) : Option Cmd :=
  let x := s.ctx c
  if !s.ready c then none
  else
    let allowed := fun (e : Nat × Cmd) => e.2.phase == .checked && x.inOrder e.1 e.2 &&
      match e.2.codec? with
      | some b => b.op == op && x.sessionTurn e.1 e.2 b && (lowest (s.unitFails c e.2 b)).isNone
      | none => false
    ((numbered x.cmds).find? allowed).bind fun e => if e.2.unplaced.isEmpty then none else some e.2

/-- CODEC_UNIT_START (R305, R374, R392): the winner's next unit goes onto the engine. -/
def execCodecUnitStart (e : Nat) (s : State) : Host.Outcome State Fault Refusal :=
  .next (
    let op := engineOp e
    if !s.engineFree e then s
    else match s.winner (kindRes (op - 3)) true ((List.range 64).filter fun c => (s.nextUnit c op).isSome) with
      | none => s
      | some c =>
        match s.nextUnit c op with
        | none => s
        | some m =>
          let g := s.engines.getD e {}
          let s := s.putCmd c { m with phase := .started, unplaced := [] }
          { s.granted (kindRes (op - 3)) c with engines := s.engines.set e { g with unit := some (c, m.uid), started := s.now } })

/-! ### What a unit does -/

/-- What a unit leaves: memory, the fields of Table 12.6, and its session after it. -/
structure UnitOut where
  mem : Mem
  status : Nat := 0
  concealed : Nat := 0
  bytes : Nat := 0
  order : Nat := 0
  w : Nat := 0
  h : Nat := 0
  ftype : Nat := 0
  shown : Bool := false
  recovered : Bool := false
  grain : Bool := false
  keyreq : Bool := false
  jsamp : Nat := 0
  resyncs : Nat := 0
  ses : Option Session := none

/-- The number that stands for a unit's inputs: free values are functions of it (R302); `Nat.pair` gives each free value its own. -/
def keyOf (fields : List Nat) (bytes : List Byte) : Nat := leNat (bytes ++ fields.flatMap fun f => leBytes 8 f)

/-- Fields of a session that its units depend on. -/
def Session.inputs (q : Session) : List Nat :=
  [q.blk.width, q.blk.height, q.blk.kind, b2n q.blk.depth, b2n q.blk.mono, q.blk.nbuf, q.blk.nref, q.blk.gir, q.blk.girPeriod,
    q.blk.keyInterval, q.units, q.refresh, q.sinceKey, b2n q.discarding, b2n q.ref.isSome]

/-- State memory that a unit depends on: none before the session's first unit. -/
def Session.held (q : Session) : List (Nat × Nat) := if q.units = 0 then [] else [(q.blk.state, q.blk.stateBytes)]

/-! Reference pictures (R312, R313) -/

/-- Blocks of a reference buffer, and raw bytes of a luma and of a chroma block. -/
def SessionBlock.refBlocks (b : SessionBlock) : Nat := cdiv b.width 32 * cdiv b.height 8
def SessionBlock.lumaRaw (b : SessionBlock) : Nat := if b.depth then 320 else 256
def SessionBlock.chromaRaw (b : SessionBlock) : Nat := if b.mono then 0 else if b.depth then 160 else 128

/-- A header byte for a block of r raw bytes: RAW with the full count of 32-byte units, or a smaller count; which, the compression decides. -/
def refHeader (key r : Nat) : Byte :=
  if Config.raceBit key then BitVec.ofNat 8 (128 + r / 32) else BitVec.ofNat 8 (1 + Config.codecSize key % (r / 32 - 1))

/-- The bytes of a reference buffer: luma headers, chroma headers, data in slots of the raw size, motion data. Without chroma the chroma
headers are open. -/
def refBuffer (b : SessionBlock) (key : Nat) : List Byte :=
  let n := b.refBlocks
  let open_ := fun (g len : Nat) => (List.range len).map fun i => Config.codecByte (Nat.pair key g) i
  (List.range n).map (fun i => refHeader (Nat.pair key (8 + 2 * i)) b.lumaRaw) ++
    (if b.mono then open_ 0 n else (List.range n).map fun i => refHeader (Nat.pair key (9 + 2 * i)) b.chromaRaw) ++
    open_ 1 (n * b.lumaRaw) ++ open_ 2 (n * b.chromaRaw) ++ open_ 3 (cdiv b.width 16 * cdiv b.height 16 * 16)

/-- A session's state memory after a unit: 65,536 open bytes, then NBUF reference buffers one after another (entry 95), of which the unit
writes some. -/
def Mem.newState (m : Mem) (q : Session) (key : Nat) : Mem :=
  let m := m.write 64 q.blk.state ((List.range 65536).map fun j => Config.codecByte (Nat.pair key 2) j) false
  (List.range q.blk.nbuf).foldl (fun m j =>
    if Config.raceBit (Nat.pair key (32 + j)) then m.write 64 (q.blk.state + 65536 + j * bufBytes q.blk) (refBuffer q.blk (Nat.pair key (32 + j))) false
    else m) m

/-- Layout of a session's pictures (R311). -/
def SessionBlock.layout (b : SessionBlock) : Nat := if b.mono then 4 else 0

/-- A free sample of a picture. -/
def freeSample (key : Nat) (ten : Bool) (i x y : Nat) : Nat :=
  let j := 4 * (x + 32768 * (y + 16384 * i))
  if ten then leNat [Config.codecByte key j, Config.codecByte key (j + 1)] % 1024 else (Config.codecByte key j).toNat

/-- Is unit j of n lost: at least one is (R316, R317). -/
def lostUnit (key n j : Nat) : Bool := j == Config.codecSize (Nat.pair key 8) % n || Config.raceBit (Nat.pair (Nat.pair key 8) j)
def lostCount (key n : Nat) : Nat := ((List.range n).filter (lostUnit key n)).length

/-- A sample of a lost block: copied from the reference picture, displaced by the vector of the block in quarter samples and clamped to the
picture, chroma by half of it rounded down; mid-grey where the session holds no reference picture (R317). -/
def concealedSample (ref : Option RefPic) (ten : Bool) (v : Int × Int) (i x y : Nat) : Nat :=
  match ref with
  | none => if ten then 512 else 128
  | some r =>
    let at_ := fun (x y : Nat) => ((r.planes.getD i []).getD y []).getD x 0
    let move := fun (n p : Nat) (d : Int) => (clampInt 0 ((n : Int) - 1) (p + d)).toNat
    if i = 0 then at_ (move r.w x (v.1 / 4)) (move r.h y (v.2 / 4))
    else at_ (2 * move (cdiv r.w 2) (x / 2) (v.1 / 8) + x % 2) (move (cdiv r.h 2) y (v.2 / 8))

/-- A sample of a decoded picture: free, but in a lost block concealed (R317). -/
def decodedSample (key : Nat) (ten : Bool) (w : Nat) (lost : Nat → Bool) (vs : List (Int × Int)) (ref : Option RefPic) (i x y : Nat) : Nat :=
  let (bx, by_) := if i = 0 then (x / 16, y / 16) else (x / 2 / 8, y / 8)
  let j := bx + cdiv w 16 * by_
  if lost j then concealedSample ref ten (vs.getD j (0, 0)) i x y else freeSample key ten i x y

/-- The samples of a picture, kept as the session's reference. -/
def refPicture (w h : Nat) (ps : List Plane) (f : Nat → Nat → Nat → Nat) : RefPic :=
  { w := w, h := h
    planes := ((List.range ps.length).zip ps).map fun q =>
      (List.range q.2.rows).map fun y => (List.range q.2.n).map fun x => f q.1 x y }

/-- Status of a decode, found in this order: no sequence header in force, or a unit to discard; no picture; a tool or size outside Tables 12.2 and
12.3; a frame outside the session's limits (R309); lost areas (R316, R317). What the bitstream holds is free. -/
def decodeStatus (key w h : Nat) (q : Session) : Nat :=
  let told := fun j => Config.raceBit (Nat.pair key j)
  if told 9 || (q.discarding && told 10) then 3
  else if told 11 then 2
  else if told 12 || w < 16 || 16384 < w || h < 16 || 16384 < h then 4
  else if q.blk.width < w || q.blk.height < h || told 13 then 6
  else if told 14 then 1 else 0

/-- DECODE of a session: which pictures are references the bitstream says (R301, R309, R311, R314 to R317, R321). -/
def decodeUnit (m : Mem) (b : CodecBody) (q : Session) : UnitOut :=
  let key := keyOf (q.inputs ++ [b.param]) (m.read b.src b.srcBytes ++ q.held.flatMap fun r => m.read r.1 r.2)
  let w := Config.codecSize (Nat.pair key 0) % 65536
  let h := Config.codecSize (Nat.pair key 1) % 65536
  let found := decodeStatus key w h q
  let lay := q.blk.layout
  let pic := decide (found ≤ 1)
  let status := if pic && decide (b.dstBytes < pictureBytes lay q.blk.depth w h) then 5 else found
  let info : UnitOut :=
    { mem := m, status := status, order := Config.codecSize (Nat.pair key 3) % 2 ^ 32, w := w, h := h, ftype := Config.codecSize (Nat.pair key 6) % 4
      shown := Config.raceBit (Nat.pair key 3), grain := q.blk.kind == 0 && Config.raceBit (Nat.pair key 4)
      resyncs := Config.codecSize (Nat.pair key 7) % 256, ses := some q }
  if status = 5 then info
  else
    let q' := { q with units := q.units + 1, discarding := status == 3 || status == 4 }
    if !pic then { info with mem := m.newState q key, ses := some q' }
    else
      let n := cdiv w 16 * cdiv h 16
      let lost := fun i => status == 1 && lostUnit key n i
      let intra := fun (_ : Nat) => decide (info.ftype ≤ 1)
      let vs := blockVectors key (cdiv w 16) n lost intra
      let ps := planesOf lay q.blk.depth w h
      let f := decodedSample key q.blk.depth w lost vs q.ref
      let m' := (m.newState q key).putPicture b.dst (sampleBytes lay q.blk.depth) ps f
      let m' := if b.stats = 0 then m' else m'.putStats b.stats key w h lost intra vs (f 0)
      let q' := if Config.raceBit (Nat.pair key 15) then { q' with ref := some (refPicture w h ps f) } else q'
      { info with mem := m', bytes := sampleTotal lay q.blk.depth w h, concealed := if status = 1 then lostCount key n else 0
                  resyncs := if status = 0 then 0 else info.resyncs, ses := some q' }

/-- A frame is key (R320). -/
def Session.keyDue (q : Session) (b : CodecBody) : Bool :=
  q.units == 0 || b.key || (q.blk.keyInterval != 0 && decide (q.blk.keyInterval ≤ q.sinceKey))

/-- A session after a coded frame (R319, R320): a key picture starts a new cycle with the next frame. -/
def Session.coded (q : Session) (key : Bool) : Session :=
  let n := if key || q.blk.gir == 0 || decide (q.blk.girPeriod ≤ q.refresh + 1) then 0 else q.refresh + 1
  { q with units := q.units + 1, sinceKey := if key then 1 else q.sinceKey + 1, refresh := n }

/-- The frame completes a refresh: a key picture, or the last frame of a cycle. -/
def Session.completes (q : Session) (key : Bool) : Bool := key || (q.blk.gir != 0 && q.refresh + 1 == q.blk.girPeriod)

/-- Is 16 × 16 block i of a frame in the refresh units that the frame codes intra (R319). -/
def Session.sweeps (q : Session) (w i : Nat) : Bool :=
  let nx := cdiv w 16
  let c := if q.blk.gir = 1 then cdiv w 64 else cdiv q.blk.height 64
  let u := if q.blk.gir = 1 then i % nx / 4 else i / nx / 4
  let p := q.blk.girPeriod
  q.blk.gir != 0 && decide (q.refresh * c / p ≤ u) && decide (u < (q.refresh + 1) * c / p)

/-- ENCODE of a session (R314, R319 to R321): the bitstream and the vectors are free, the record follows the rules. -/
def encodeUnit (m : Mem) (b : CodecBody) (q : Session) : UnitOut :=
  let lay := q.blk.layout
  let (w, h, ten) := (q.blk.width, q.blk.height, q.blk.depth)
  let key := keyOf (q.inputs ++ [b.param, b2n b.key]) (m.read b.src (pictureBytes lay ten w h) ++ q.held.flatMap fun r => m.read r.1 r.2)
  let isKey := q.keyDue b
  let size := 1 + Config.codecSize key
  let bytes := (List.range (min size b.dstBytes)).map fun j => Config.codecByte key j
  let p := (planesOf lay ten w h).getD 0 ⟨0, 0, 0, 0⟩
  let luma := fun x y => m.sample b.src (sampleBytes lay ten) p x y
  let m1 := m.write 64 b.dst bytes false
  let intra := fun i => isKey || q.sweeps w i
  let m1 := if b.stats = 0 then m1 else m1.putStats b.stats key w h (fun _ => false) intra
    (blockVectors key (cdiv w 16) (cdiv w 16 * cdiv h 16) (fun _ => false) intra) luma
  let info : UnitOut :=
    { mem := m1, order := Config.codecSize (Nat.pair key 3) % 2 ^ 32, w := w, h := h
      ftype := if isKey then 0 else if q.blk.nref = 1 then 2 else 2 + b2n (Config.raceBit key), keyreq := isKey, ses := some q }
  if b.dstBytes < size then { info with status := 5, bytes := b.dstBytes, recovered := q.completes isKey }
  else { info with mem := m1.newState q key, bytes := size, recovered := q.completes isKey, ses := some (q.coded isKey) }

/-- JPEG_DEC (R311, R317, R321, R322): the entropy decoder's coefficients are free, the transform is exact. -/
def jpegDecodeUnit (m : Mem) (b : CodecBody) : UnitOut :=
  let key := keyOf [5] (m.read b.src b.srcBytes)
  let samp := Config.codecSize key % 4
  let w := 1 + Config.codecSize (Nat.pair key 1) % 16384
  let h := 1 + Config.codecSize (Nat.pair key 2) % 16384
  let lay := jpegLayout samp
  let progressive := Config.raceBit (Nat.pair key 1)
  let found := [0, 1, 2, 4].getD (Config.codecStatus key % 4) 0
  let pic := decide (found ≤ 1)
  let need := pictureBytes lay false w h + (if progressive then 2 * sampleTotal lay false w h else 0)
  let status := if pic && decide (b.dstBytes < need) then 5 else found
  let info : UnitOut := { mem := m, status := status, w := w, h := h, ftype := 4, jsamp := samp, resyncs := Config.codecSize (Nat.pair key 7) % 256 }
  if !pic || status == 5 then info
  else
    let mcus := mcuCount samp w h
    let m' := m.putPicture b.dst 1 (planesOf lay false w h) (jpegSample key samp w (fun j => status == 1 && lostUnit key mcus j) progressive)
    let n := pictureBytes lay false w h
    let m' := if progressive then m'.havoc 64 (b.dst + n) (need - n) (Nat.pair key 3) else m'
    { info with mem := m', bytes := sampleTotal lay false w h, concealed := if status = 1 then lostCount key mcus else 0
                resyncs := if status = 0 then 0 else info.resyncs }

/-- The size of the picture that JPEG_ENC reads: the spec's descriptor gives none, so width and height are free functions of its fields
(R302, entry 34). -/
def CodecBody.encSize (b : CodecBody) : Nat × Nat :=
  let key := keyOf [6, b.src, b.dst, b.dstBytes, b.param] []
  (1 + Config.codecSize (Nat.pair key 1) % 16384, 1 + Config.codecSize (Nat.pair key 2) % 16384)

/-- JPEG_ENC (R303): the bits of the file are free (entry 13), a function of the picture, the tables and the parameters. -/
def jpegEncodeUnit (m : Mem) (b : CodecBody) : UnitOut :=
  let (w, h) := b.encSize
  let lay := jpegLayout (bits b.param 9 8)
  let tables := (List.range 128).map fun j => jpegQuant (bits b.param 6 0) (Config.annexK (j / 64) (j % 64))
  let key := keyOf ([6, bits b.param 9 8, bits b.param 31 16, w, h] ++ tables) (m.read b.src (pictureBytes lay false w h))
  let size := 1 + Config.codecSize key
  let m' := m.write 64 b.dst ((List.range (min size b.dstBytes)).map fun j => Config.codecByte key j) false
  { mem := m', status := if b.dstBytes < size then 5 else 0, bytes := min size b.dstBytes, w := w, h := h, ftype := 4 }

/-- SCALE (R323, R324). -/
def scaleUnit (m : Mem) (q : ScaleBlock) : UnitOut :=
  let key := keyOf [7, q.src, q.sw, q.sh, q.dw, q.dh, q.sfmt, q.dfmt] (m.read q.src (pictureBytes q.sfmt q.depth q.sw q.sh))
  { mem := runScale m q key, bytes := sampleTotal q.dfmt q.depth q.dw q.dh, w := q.dw, h := q.dh, ftype := 5 }

/-- Byte ranges that a unit reads (R318). -/
def State.unitReads (s : State) (b : CodecBody) (sc : Option ScaleBlock) (ses : Option Session) : List (Nat × Nat) :=
  (match ses with | some q => q.held | none => []) ++
  match b.op, ses, sc with
  | 3, _, _ => [(b.src, b.srcBytes)]
  | 4, some q, _ => [(b.src, pictureBytes q.blk.layout q.blk.depth q.blk.width q.blk.height)]
  | 5, _, _ => [(b.src, b.srcBytes)]
  | 6, _, _ => [(b.src, pictureBytes (jpegLayout (bits b.param 9 8)) false b.encSize.1 b.encSize.2)]
  | 7, _, some q => [(q.src, pictureBytes q.sfmt q.depth q.sw q.sh)]
  | _, _, _ => []

/-- The unit of a body. -/
def State.runUnit (s : State) (b : CodecBody) (sc : Option ScaleBlock) (ses : Option Session) : UnitOut :=
  match b.op, ses, sc with
  | 3, some q, _ => decodeUnit s.mem b q
  | 4, some q, _ => encodeUnit s.mem b q
  | 5, _, _ => jpegDecodeUnit s.mem b
  | 6, _, _ => jpegEncodeUnit s.mem b
  | 7, _, some q => scaleUnit s.mem q
  | _, _, _ => { mem := s.mem }

/-- The 512 bits of the frame record (Table 12.6). -/
def frameBits (now : Tick) (seq : Word) (session : Nat) (o : UnitOut) : Nat :=
  now.toNat * 2 ^ 448 + seq.toNat * 2 ^ 416 + o.concealed % 2 ^ 32 * 2 ^ 384 + o.bytes % 2 ^ 32 * 2 ^ 352 + o.order * 2 ^ 320 +
    o.w * 2 ^ 304 + o.h * 2 ^ 288 + session * 2 ^ 279 + o.status * 2 ^ 264 + o.ftype * 2 ^ 256 + b2n o.shown * 2 ^ 255 +
    b2n o.recovered * 2 ^ 254 + b2n o.grain * 2 ^ 253 + b2n o.keyreq * 2 ^ 252 + o.jsamp * 2 ^ 248 + o.resyncs * 2 ^ 240

/-- An engine is idle again; its counters (Table 18.1). -/
def State.releaseEngine (s : State) (e : Nat) (px lost : Nat) : State :=
  let g := s.engines.getD e {}
  let ran := s.now.toNat - g.started.toNat
  let s := { s with engines := s.engines.set e { g with unit := none, idleFrom := s.now, lastRun := ran } }
  (((s.count (9360 + 4 * e) 1).count (9361 + 4 * e) px).count (9362 + 4 * e) ran).count (9363 + 4 * e) lost

/-- Byte ranges that a unit writes, as they go from the hub die to their homes (R14): output, statistics, session state, record. -/
def unitWrites (b : CodecBody) (sc : Option ScaleBlock) (ses : Option Session) (o : UnitOut) : List (Nat × Nat) :=
  [((match sc with | some q => q.dst | none => b.dst), o.bytes), (b.rec_, 64)] ++
    (if b.stats = 0 || 1 < o.status then [] else [(b.stats, statsBytes o.w o.h)]) ++
    (match ses with | some q => if o.status = 5 then [] else [(q.blk.state, q.blk.stateBytes)] | none => [])

/-- The end of the unit of command m on engine e: poison tears the context down (R318), else its writes, its frame record
and its session (R306). -/
def State.endUnit (s : State) (e c : Nat) (m : Cmd) (b : CodecBody) (sc : Option ScaleBlock) : State :=
  let ses := if b.named then s.ownSession c m.ring b.session else none
  let rs := s.unitReads b sc ses
  let s := (s.settle rs (some c)).carryFrom rs 4
  if rs.any (fun r => s.mem.poisoned 64 r.1 r.2) then s.faultCtx c 0x310 (some m.uid)
  else
    let o := s.runUnit b sc ses
    let s := (unitWrites b sc ses o).foldl (fun s r => s.carryTo 4 r.1 r.2) s
    let s := { s with mem := o.mem, free := s.free + 2
                      sessions := match o.ses with
                        | some q => s.sessions.map fun (y : Session) => if y.num = q.num then q else y
                        | none => s.sessions }
    let s := s.devWrite b.rec_ (leBytes 64 (frameBits s.now m.seq b.session o)) false
    (s.releaseEngine e (o.w * o.h) (if b.op = 3 ∨ b.op = 5 then o.concealed else 0)).finish c m.uid

/-- CODEC_UNIT_DONE (R305, R306, R309): a unit that has started runs to its end whatever becomes of its context short of a
teardown. -/
def execCodecUnitDone (e : Nat) (s : State) : Host.Outcome State Fault Refusal :=
  .next (
    if !s.up then s
    else match (s.engines.getD e {}).unit with
      | none => s
      | some (c, uid) =>
        match (s.ctx c).byUid uid with
        | none => s
        | some m =>
          match m.job with
          | some (.work (.codec b sc _)) => s.endUnit e c m b sc
          | _ => s)

end Sys2Proof.Machine
end

