-- ==== Sys2Proof/Machine/Region.lean ====
section
/-! DEFINITION. What the slots of core memory and of the die buffers hold (04 R101, R103, R119): regions of tensors, what a fill
copies, and how the lane rows and the posies read a slot. -/

namespace Sys2Proof.Machine

/-! ### Regions -/

/-- A run of n elements of a row of a tensor, from column c0, that takes w columns of its slot. -/
structure Part where
  t : Tensor
  i1 : Nat
  i2 : Nat := 0
  i3 : Nat := 0
  c0 : Nat
  n : Nat
  w : Nat := n

/-- What a slot holds: rows, each of parts side by side, in one format; `mask` for a bit mask. -/
structure Region where
  fmt : Fmt := ⟨.bf16, false⟩
  pad : Nat := 0
  mask : Bool := false
  rows : List (List Part) := []

/-- Elements of a row; a row that lies outside its tensor has no parts. -/
def Region.width (r : Region) : Nat := r.rows.foldl (fun n ps => max n (ps.foldl (fun n p => n + p.w) 0)) 0

/-- Columns start at a block of an MX tensor, and at a byte of a packed one. -/
def alignCol (t : Tensor) (mask : Bool) (c : Nat) : Nat :=
  if mask then c / 8 * 8 else if t.fmt.mx then c / 32 * 32 else if t.fmt.elem.width = 4 then c / 2 * 2 else if t.fmt.elem.width = 6 then c / 4 * 4 else c

/-- Columns [lo, hi) of rows of a tensor. -/
def regionOf (t : Tensor) (mask : Bool) (rows : List (Nat × Nat × Nat)) (lo hi : Nat) : Region :=
  let c0 := alignCol t mask lo
  { fmt := t.fmt, pad := t.pad, mask := mask
    rows := rows.map fun x => [{ t := t, i1 := x.1, i2 := x.2.1, i3 := x.2.2, c0 := c0, n := min hi t.e0 - c0 }] }

/-- A slot as a tensor of its rows (R101): in core memory FP6 is widened (R24). -/
def Region.tensor (r : Region) (core : Bool) (off : Nat) : Tensor :=
  let t : Tensor := { base := off, e0 := r.width, e1 := r.rows.length, fmt := if core then r.fmt.core else r.fmt
                      pad := if core then widenFp6 r.fmt.elem r.pad else r.pad }
  let pitch := roundUp (if r.mask then cdiv r.width 8 else t.rowBytes) 64
  { t with s1 := pitch, scaleBase := if r.fmt.mx then off + pitch * r.rows.length else 0 }

/-- Elements of a part that memory stores (R98). -/
def Part.stored (p : Part) : Nat := if p.t.fmt.mx then min (cdiv p.n 32 * 32) (p.t.storedElems - p.c0) else p.n

/-- Bytes that elements [lo, hi) of a part come from, and their scales. -/
def Part.bytes (p : Part) (mask : Bool) (lo hi : Nat) : List (Nat × Nat) :=
  let w := if mask then 1 else p.t.fmt.elem.width
  let a := p.t.rowAddr p.i1 p.i2 p.i3 + (p.c0 + lo) * w / 8
  if hi ≤ lo || !p.t.inside 0 p.i1 p.i2 p.i3 then []
  else [(a, cdiv ((p.c0 + lo) * w % 8 + (hi - lo) * w) 8)]

def Part.scaleBytes (p : Part) : List (Nat × Nat) :=
  if p.t.fmt.mx && p.t.inside 0 p.i1 p.i2 p.i3 then [(p.t.scaleAddr (p.c0 / 32) p.i1 p.i2 p.i3, cdiv p.n 32)] else []

/-- Memory that a region comes from. -/
def Region.bytes (r : Region) : List (Nat × Nat) :=
  r.rows.flatMap fun ps => ps.flatMap fun p => p.bytes r.mask 0 p.stored ++ (if r.mask then [] else p.scaleBytes)

/-- Code of element j of a part as stored, whatever lies there (R119). -/
def Part.code (p : Part) (mask : Bool) (m : Mem) (j : Nat) : Nat :=
  let a := p.t.rowAddr p.i1 p.i2 p.i3
  if mask then (m.byte (a + (p.c0 + j) / 8)).toNat / 2 ^ ((p.c0 + j) % 8) % 2 else codeAt m a p.t.fmt.elem.width (p.c0 + j)

/-! ### Fills -/

/-- Poison marks of the units of a copy of n bytes to `dst`: `bad` says of each byte range of the copy whether its source
holds poison (R119, R291). -/
def Mem.mark (m : Mem) (u dst n : Nat) (bad : Nat → Nat → Bool) : Mem :=
  let hit := (unitsOf u dst n).filter fun x =>
    let lo := max (u * x) dst
    bad (lo - dst) (min (u * x + u) (dst + n) - dst)
  { m with poison := hit.foldl (fun l x => NatSet.add x l) m.poison }

/-- A memory of the part to which a ferry writes: a die buffer or core memory. -/
inductive Target where
  | die (d : Nat)
  | core (k : Nat)

def State.putTarget (s : State) (t : Target) (a : Nat) (bs : List Byte) : State :=
  match t with
  | .die d => s.bufWrite d a bs false
  | .core k => s.l1Write k a bs false

def State.markTarget (s : State) (t : Target) (a n : Nat) (bad : Nat → Nat → Bool) : State :=
  match t with
  | .die d => { s with dieBuf := s.dieBuf.set d ((s.dieBuf.getD d {}).mark 64 a n bad) }
  | .core k => s.setCore k { s.core k with mem := (s.core k).mem.mark 32 a n bad }

/-- One part of a row goes to column j0 of row i of a slot: its elements as stored, FP6 widened in core memory, then its scales,
with the poison of what they come from (R24, R119). -/
def State.fillPart (s : State) (t : Target) (view : Mem) (r : Region) (off i j0 : Nat) (p : Part) : State :=
  let core := match t with | .core _ => true | .die _ => false
  let z := r.tensor core off
  let w := if r.mask then 1 else z.fmt.elem.width
  let n := p.stored
  let cs := (List.range n).map fun j => let c := p.code r.mask view j; if core && !r.mask then widenFp6 r.fmt.elem c else c
  let a := z.rowAddr i 0 0 + j0 * w / 8
  let bs := leBytes (cdiv (n * w) 8) (packCodes w cs)
  let s := (s.putTarget t a bs).markTarget t a bs.length fun lo hi =>
    (p.bytes r.mask (lo * 8 / w) (min n (cdiv (hi * 8) w))).any fun x => view.poisoned 64 x.1 x.2
  if !r.fmt.mx || r.mask then s
  else
    let sa := z.scaleAddr (j0 / 32) i 0 0
    (p.scaleBytes).foldl (fun s x =>
      (s.putTarget t sa (view.read x.1 x.2)).markTarget t sa x.2 fun lo hi => view.poisoned 64 (x.1 + lo) (hi - lo)) s

/-- A fill, row by row. -/
def State.fillRegion (s : State) (t : Target) (view : Mem) (r : Region) (off : Nat) : State :=
  (numbered r.rows).foldl (fun s x =>
    (x.2.foldl (fun (acc : State × Nat) p =>
      (if p.t.inside 0 p.i1 p.i2 p.i3 then acc.1.fillPart t view r off x.1 acc.2 p else acc.1, acc.2 + p.w)) (s, 0)).1) s

/-! ### Reading slots -/

/-- What a lane row reads as one operand element: an element of the slot of a fill, `k` of row `row`; a PAD code with the scale of
that place (R110); a bound-row element made from one (R207); an element of a buffer in core memory; or constant codes. -/
inductive Ref where
  | fill (j k row : Nat)
  | pad (j k row code : Nat)
  | bound (j k row : Nat) (neg : Bool)
  | buf (t : Tensor) (k row : Nat)
  | const (code scale : Nat)

/-- Bytes of an element of a tensor in core memory, and of its scale. -/
def Tensor.elemBytes (t : Tensor) (k row : Nat) : List (Nat × Nat) :=
  let w := t.fmt.elem.width
  if t.inside k row 0 0 then
    (t.rowAddr row 0 0 + k * w / 8, cdiv (k * w % 8 + w) 8) :: (if t.fmt.mx then [(t.scaleAddr (k / 32) row 0 0, 1)] else [])
  else []

end Sys2Proof.Machine
end

