-- ==== Sys2Proof/Machine/Tilework.lean ====
section
/-! DEFINITION. What a tile command is (04 R103 to R107): its passes, each a matrix part and a vector engine run, and the fills
of its slots in ferry order (04 R101, R104, R106, 05 R131). Here for MATMUL and CHAIN (05 R147). -/

namespace Sys2Proof.Machine

/-! ### Passes -/

/-- The matrix part of a pass (R60, R65, R66): lanes of its rows, columns, dot groups, first accumulator, whether it starts the
accumulators and whether its last groups make rows final (R69, R193), the weight code of a lane without a column, its weights' identity (R63), its operands by row or column
and K, the fills that hold a segment of them, pruned groups (R222), and how many runs must have stored before a group issues or
a segment loads. -/
structure MatPart where
  mode : Mode
  fa : Fmt
  fw : Fmt
  rows : List LaneAt
  cols : Nat
  groups : Nat
  base : Nat := 0
  starts : Bool := true
  copies : Bool := true
  wpad : Nat := 0
  key : Option WKey := none
  k0 : Nat := 0
  act : Nat → Nat → Ref
  wt : Nat → Nat → Ref
  actFill : Nat → Option Nat
  wtFill : Nat → Option Nat
  pruned : Nat → Bool := fun _ => false
  needs : Nat → Nat := fun _ => 0
  wtNeeds : Nat := 0

/-- Segments of a pass, and entries of segment b (R60). -/
def MatPart.segs (p : MatPart) : Nat := cdiv p.groups 32
def MatPart.entries (p : MatPart) (b : Nat) : Nat := min 32 (p.groups - 32 * b)

/-- Coordinates that a lane of the vector engine sees: COL, ROW, BAT and D3 (R133). -/
structure At where
  col : Nat
  row : Nat
  bat : Nat
  d3 : Nat := 0

/-- The score program of ATTEND for one key block (R195, R200): rows (head, token) of sequence s, pages of block j, the place of
each row's state, the output accumulator of row 0 where ACCSCALE acts, and the probability buffer with the row's place. -/
structure ScoreSpec where
  ab : AttendBlock
  s : Nat
  rows : List (Nat × Nat)
  pages : List Nat
  j : Nat
  state : Nat → Nat
  scale : Option Nat
  prob : Tensor
  probRow : Nat → Nat

/-- The choice of a row block's pages (R206 to R208): the pages whose bounds the pass before it formed, and all of them once the
last have come. -/
structure SelectSpec where
  att : Attn
  rows : Nat
  pages : List Nat
  all : List Nat
  last : Bool

/-- What a run executes. -/
inductive Prog where
  | posy (p : Posy)
  | score (c : ScoreSpec)
  | select (c : SelectSpec)
  | fixed (f : FixedSpec)

/-- Instructions of a run's program, and the first of its second sweep (0: one sweep). A chunk of a fixed program is one step. -/
def Prog.shape : Prog → Nat × Nat
  | .posy p => (p.code.length, p.split)
  | .score _ => (2, 1)
  | .select _ => (1, 0)
  | .fixed _ => (1, 0)

/-- Where RES comes from: the result area, the fold of a POOL over its taps, the normalised outputs of ATTEND with the place of
their state, the prologue's own slot, or nowhere. -/
inductive ResKind where
  | area (isInt : Bool)
  | pool (tap : Nat → Nat → Nat → Option Ref) (taps mode : Nat) (fmt : Fmt)
  | norm (state : Nat → Nat → Nat)
  | act
  | none

/-- A part of a split reduction (R107): first, last, and by row of the pass its running sum, the writes that put it, and its
coordinates. -/
structure SplitSpec where
  first : Bool
  last : Bool
  rows : Nat
  sum : Mem → Nat → List Word
  put : Mem → Nat → List Word → List (Nat × List Byte)
  coord : Nat → Nat → List Nat

/-- The run of a pass or of a fill (R124, R126, R128): its program, posy number of its streams, role, number of rows with their
columns and lane coordinates, where a stream's buffer holds an element, the runs (slot row, slot column, column, count) of its activation
slot and the fill that it reads, the tensor that it writes, the row of the result area of
each row, trap coordinates, the writes of a row in device memory or the buffer in core memory that takes it, its STAT records and
those of ATTEND, the slot of the die buffer and the output slot that it goes through, and what must come before it stores. -/
structure RunSpec where
  prog : Prog
  posy : Nat := 0
  role : Nat := 2
  rows : Nat
  span : Nat → Nat × Nat
  at_ : Nat → Nat → At
  bufAt : Stream → Nat → Nat → Nat × Nat := fun _ _ _ => (0, 0)
  runs : Nat → List (Nat × Nat × Nat × Nat) := fun _ => []
  fill : Option Nat := none
  out : Tensor
  res : ResKind := .none
  line : Nat → Nat := fun r => r
  coord : Nat → Nat → List Nat
  store : Mem → Nat → List Word → List (Nat × List Byte) := fun _ _ _ => []
  buf : Option (Nat → Tensor × Nat × Nat) := none
  stat : Nat → Option (Tensor × Nat) := fun _ => none
  statRd : Option (WorkEnv → Mem → Nat → Nat → Nat → Word × Option NanSite) := none
  statIns : Nat → Nat → Nat → List (Nat × Nat) := fun _ _ _ => []
  tail : Bound → AttSt → Mem → List (Nat × List Byte) := fun _ _ _ => []
  bufPass : Nat → Nat := fun _ => 0
  slot : Option (Operand × Region) := none
  die : Option (Nat × Tensor × (Nat → Nat × Nat)) := none
  split : Option SplitSpec := none
  waitIssue : Nat := 0

/-- A pass of a tile command. -/
structure Pass where
  mat : Option MatPart := none
  run : Option RunSpec := none

/-- A fill of a slot (R104, R116): what it copies, the passes that read it, its segment, whether its slot goes when the weight port
has loaded it, the prologue that follows it, and the T3 slot that it comes through: T3 tile, region, offset, size and depth. -/
structure FillSpec where
  operand : Operand
  region : Region
  pass : Nat
  last : Nat
  seg : Option Nat := none
  once : Bool := false
  pro : Option RunSpec := none
  buf : Option (Nat × Region × Nat × Nat × Nat) := none

/-- A tile command's work. `place` gives the offset, size, pitch and depth of an operand's slots, `bufs` the buffers that its
passes keep in core memory; `closed` says that no more passes and
fills can join the lists. -/
structure TileWork where
  job : TileJob
  passes : List Pass
  fills : List FillSpec
  place : Operand → Nat × Nat × Nat × Nat
  areaOff : Nat := 0
  areas : Nat := 0
  bufs : List (Nat × Nat) := []
  slack : Nat := 0
  closed : Bool := true

/-- The core memory that a tile command names: slots, result areas and buffers (R379). -/
def TileWork.regions (w : TileWork) : List (Nat × Nat) :=
  let ops := [.act] ++ (List.range 4).map Operand.wt ++ (List.range 4).map Operand.out ++
    (List.range 7).flatMap fun p => (List.range 4).map fun i => Operand.stream p i
  let slots := ops.map fun o => let x := w.place o; (x.1, (max 1 x.2.2.2 - 1) * x.2.2.1 + x.2.1)
  (slots ++ [(w.areaOff, 262144 * w.areas)] ++ w.bufs).filter fun r => r.2 != 0

/-- The fill that holds an operand for a pass (and segment). -/
def fillFor (fs : List FillSpec) (o : Operand) (pass : Nat) (seg : Option Nat) : Option Nat :=
  fs.findIdx? fun f => f.operand == o && decide (f.pass ≤ pass) && decide (pass ≤ f.last) && (f.seg == none || f.seg == seg)

/-- The last pass from i on that keeps a tile, where `fresh` says which passes change it. -/
def keptTo (fresh : Nat → Bool) (n i : Nat) : Nat :=
  i + ((List.range (n - i - 1)).takeWhile fun d => !fresh (i + 1 + d)).length

/-! ### Streams -/

/-- Region of a stream for some rows and columns [lo, hi) (R131). A plain ROWVEC holds one element for each row, batch by batch. -/
def streamRegion (q : Stream) (rows : List (Nat × Nat × Nat)) (lo hi : Nat) : Region :=
  match q.shape with
  | 1 => regionOf q.t q.maskBits [(0, 0, 0)] lo hi
  | 2 =>
    let bats := (rows.map fun x => x.2.1).eraseDups
    if q.t.fmt.mx then
      let r0 := rows.foldl (fun n x => min n x.1) (rows.headD (0, 0, 0)).1
      regionOf q.t false (bats.map fun b => (b, 0, 0)) r0 (rows.foldl (fun n x => max n x.1) 0 + 1)
    else
      { fmt := q.t.fmt, pad := q.t.pad
        rows := bats.map fun b => (rows.filter fun x => x.2.1 == b).map fun x => { t := q.t, i1 := b, c0 := x.1, n := 1 : Part } }
  | _ => regionOf q.t q.maskBits rows lo hi

/-- Where a stream's buffer holds the element of run row r at column `col`: row and column of its slot. -/
def bufferAt (rows : List (Nat × Nat × Nat)) (lo : Nat) (q : Stream) (r col : Nat) : Nat × Nat :=
  let x := rows.getD r (0, 0, 0)
  match q.shape with
  | 1 => (0, col - alignCol q.t q.maskBits lo)
  | 2 =>
    let bats := (rows.map fun y => y.2.1).eraseDups
    (bats.idxOf x.2.1, if q.t.fmt.mx then x.1 - alignCol q.t false (rows.foldl (fun n y => min n y.1) (rows.headD (0, 0, 0)).1)
      else (rows.take r).countP fun y => y.2.1 == x.2.1)
  | _ => (r, col - alignCol q.t q.maskBits lo)

/-- Fills of a posy's stream buffers for one pass. -/
def streamFills (posy : Nat) (p : Posy) (rows : List (Nat × Nat × Nat)) (lo hi pass : Nat) : List FillSpec :=
  p.streams.map fun q => { operand := .stream posy q.slot, region := streamRegion q rows lo hi, pass := pass, last := pass }

/-- Place of a posy's stream buffer, from its ranges of core memory. -/
def streamPlace (p : Posy) (bufs : List (Nat × Nat)) (slot : Nat) : Nat × Nat × Nat × Nat :=
  match p.stream? slot with
  | some q =>
    let size := ((bufs.find? fun x => x.1 == q.bufOff * 64).map fun x => x.2 / q.depth).getD 0
    (q.bufOff * 64, size, size, q.depth)
  | none => (0, 0, 0, 1)

/-! ### Writes of rows -/

/-- The output slot of a pass (R100, R101): its stored rows. -/
def outRegion (t : Tensor) (rows n : Nat) : Region :=
  { fmt := t.fmt, pad := t.pad, rows := (List.range rows).map fun i => [{ t := t, i1 := i, c0 := 0, n := n }] }

/-! ### MATMUL -/

/-- Row of a slot that holds rows of a box, dimension 1 fastest (R101). -/
def rowIn (b : Tile) (x : Nat × Nat) : Nat := (x.1 - b.m0) + (b.m1 - b.m0) * (x.2 - b.b0)

/-- Rows (dimension 1, dimension 2) of a box, dimension 1 fastest. -/
def boxRows (b : Tile) : List (Nat × Nat × Nat) :=
  (List.range (b.b1 - b.b0)).flatMap fun j => (List.range (b.m1 - b.m0)).map fun i => (b.m0 + i, b.b0 + j, 0)

/-- Lanes along the columns of rows (dimensions 1 to 3). -/
def rowLanes (rows : List (Nat × Nat × Nat)) (r c : Nat) : At := let x := rows.getD r (0, 0, 0); { col := c, row := x.1, bat := x.2.1, d3 := x.2.2 }

/-- The prologue run of an activation slot (R126): in place, over its rows and K positions. -/
def proRun (p : Posy) (act : Tensor) (rows : List (Nat × Nat × Nat)) (lo hi pass : Nat) : RunSpec :=
  { prog := .posy p, posy := 1, role := 1, rows := rows.length, span := fun _ => (lo, hi), at_ := rowLanes rows, bufAt := bufferAt rows lo
    runs := fun r => [(r, lo - alignCol act false lo, lo, hi - lo)], out := { act with fmt := act.fmt.core }, res := .act, coord := fun r c => let x := rows.getD r (0, 0, 0); [c, x.1, x.2.1, 0], bufPass := fun _ => pass }

/-- The T3 tile that tile command `num` lies in (R103). -/
def t3Of (t3 t2 : Level) (full : Box) (num : Nat) : List Box × Nat :=
  let ts := subTiles t3.sizes t3.order full
  (ts, ((numbered ts).flatMap fun x => (subTiles t2.sizes t2.order x.2).map fun _ => x.1).getD num 0)

/-- How many fills of an operand's T3 slots on its die come before that of tile i: a slot is filled anew when the part changes
(R103). -/
def t3Ord (t3 : Level) (home : Nat) (ts : List Box) (part : Box → List Nat) (i : Nat) : Nat :=
  let mine := (List.range (i + 1)).filter fun j => t3.dieOf home j == t3.dieOf home i
  let parts := mine.map fun j => part (ts.getD j [])
  ((List.range (parts.length - 1)).filter fun j => parts.getD j [] != parts.getD (j + 1) []).length

/-- The T3 slot that an operand's part comes through, none when the die buffer is bypassed. -/
def t3Slot (t3 t2 : Level) (full : Box) (home num off size depth : Nat) (part : Box → List Nat) (region : Box → Region) :
    Option (Nat × Region × Nat × Nat × Nat) :=
  if depth = 0 then none
  else
    let (ts, i) := t3Of t3 t2 full num
    some (t3Ord t3 home ts part i, region (ts.getD i []), off * 64, size, depth)

/-- The low ends of some dimensions of a box. -/
def Box.lows (b : Box) (ds : List Nat) : List Nat := ds.map b.lo

/-- The output slot at T3 of a tile command: its die and its rows as a tensor. -/
def t3Out (t3 t2 : Level) (full : Box) (home num size : Nat) (part : Box → List Nat) (t : Tensor) (rows n : Box → Nat) : Option (Nat × Tensor × Box) :=
  if t3.oDepth = 0 then none
  else
    let (ts, i) := t3Of t3 t2 full num
    let b := ts.getD i []
    some (t3.dieOf home i, (outRegion t (rows b) (n b)).tensor false (t3.oOff * 64 + t3Ord t3 home ts part i % t3.oDepth * size), b)

/-- T3 slots of the operands of a MATMUL. -/
def TileBlock.actBuf (tb : TileBlock) (home num : Nat) : Option (Nat × Region × Nat × Nat × Nat) :=
  t3Slot tb.t3 tb.t2 tb.full home num tb.t3.aOff (tb.bufSizes false).1 tb.t3.aDepth (fun b => b.lows [0, 2, 3])
    fun b => regionOf tb.act false (boxRows b.tile) (b.lo 2) (b.hi 2)
def TileBlock.wtBuf (tb : TileBlock) (home num : Nat) : Option (Nat × Region × Nat × Nat × Nat) :=
  t3Slot tb.t3 tb.t2 tb.full home num tb.t3.wOff (tb.bufSizes false).2.1 tb.t3.wDepth (fun b => b.lows [1, 2])
    fun b => regionOf tb.wt false ((List.range (b.hi 1 - b.lo 1)).map fun i => (b.lo 1 + i, 0, 0)) (b.lo 2) (b.hi 2)

/-- The T3 output slot of a MATMUL's pass: die, tensor, row and column of each output row. -/
def TileBlock.outBuf (tb : TileBlock) (pair : Bool) (home num : Nat) (rows : List (Nat × Nat × Nat)) (n0 : Nat) : Option (Nat × Tensor × (Nat → Nat × Nat)) :=
  let h := if pair then 2 else 1
  (t3Out tb.t3 tb.t2 tb.full home num (tb.bufSizes pair).2.2 (fun b => b.lows [0, 1, 3]) tb.out
      (fun b => (b.hi 0 - b.lo 0) / h * (b.hi 3 - b.lo 3)) (fun b => b.hi 1 - b.lo 1)).map fun x =>
    (x.1, x.2.1, fun r =>
      let y := rows.getD r (0, 0, 0)
      ((y.1 - x.2.2.lo 0 / h) + (x.2.2.hi 0 - x.2.2.lo 0) / h * (y.2.1 - x.2.2.lo 3), n0 - x.2.2.lo 1))

/-- Output rows of a pass's rows (M, B): pairs leave one (R125). -/
def outRows (pair : Bool) (rows : List (Nat × Nat)) : List (Nat × Nat × Nat) :=
  if pair then (List.range (rows.length / 2)).map fun j => let r := rows.getD (2 * j) (0, 0); (r.1 / 2, r.2, 0) else rows.map fun r => (r.1, r.2, 0)

/-- Fills of a MATMUL tile command in the order of core ferry 0 (R104). Segments stay in their slots while N and K do not change
when all of them have one, else each pass fetches them anew. -/
def mmFills (tb : TileBlock) (epi : Posy) (pro : Option Posy) (ends : Bool) (g home num : Nat) (whole : Tile) (passes : List Tile) :
    List FillSpec :=
  let n := passes.length
  let at_ := fun i => passes.getD i whole
  let wNew := fun i => i == 0 || (at_ i).n0 != (at_ (i - 1)).n0 || (at_ i).k0 != (at_ (i - 1)).k0
  let aNew := fun i => i == 0 || (at_ i).m0 != (at_ (i - 1)).m0 || (at_ i).b0 != (at_ (i - 1)).b0 || (at_ i).k0 != (at_ (i - 1)).k0
  let act := fun (b : Tile) (pass last : Nat) =>
    let rows := boxRows b
    ({ operand := .act, region := regionOf tb.act false rows b.k0 b.k1, pass := pass, last := last, pro := pro.map fun p => proRun p tb.act rows b.k0 b.k1 pass
       buf := tb.actBuf home num } : FillSpec) :: (match pro with | some p => streamFills 1 p rows b.k0 b.k1 pass | none => [])
  let wt := fun (b : Tile) (seg : Option Nat) (pass last : Nat) (once : Bool) =>
    let lo := b.k0 + 32 * g * (seg.getD 0)
    let hi := if seg.isSome then min b.k1 (lo + 32 * g) else b.k1
    ({ operand := .wt 0, region := regionOf tb.wt false ((List.range (b.n1 - b.n0)).map fun i => (b.n0 + i, 0, 0)) lo hi, pass := pass, last := last, seg := seg
       once := once, buf := tb.wtBuf home num } : FillSpec)
  (if tb.t2.wGran = 0 then [wt whole none 0 (n - 1) false] else []) ++
  (if tb.t2.aGran = 0 then act whole 0 (n - 1) else []) ++
  (List.range n).flatMap fun i =>
    let b := at_ i
    let m := cdiv (cdiv (b.k1 - b.k0) g) 32
    let all := decide (m ≤ tb.t2.wDepth)
    let segs := if tb.t2.wGran != 2 || (all && !wNew i) then []
      else (List.range m).map fun j => wt b (some j) i (if all then keptTo wNew n i else i) (!all)
    (if tb.t2.wGran = 1 && wNew i then [wt b none i (keptTo wNew n i) false] else []) ++
    segs.take 1 ++
    (if tb.t2.aGran != 0 && aNew i then act b i (keptTo aNew n i) else []) ++
    segs.drop 1 ++
    (if ends then
      streamFills 0 epi (outRows epi.pair (mbRows tb.t1.order b.box)) b.n0 b.n1 i
    else [])

/-- The epilogue of a pass of MATMUL or CHAIN over rows (M, B) and columns [n0, n1) (R124, R125). -/
def mmRun (posy : Nat) (epi : Posy) (out : Tensor) (isInt : Bool) (rows : List (Nat × Nat)) (n0 n1 pass : Nat) : RunSpec :=
  let rs := outRows epi.pair rows
  { prog := .posy epi, posy := posy, rows := rs.length, span := fun _ => (n0, n1), at_ := rowLanes rs, bufAt := bufferAt rs n0, out := out, res := .area isInt
    line := fun r => if epi.pair then 2 * r else r
    coord := fun r c => let x := rs.getD r (0, 0, 0); [c, x.1, x.2.1, 0]
    store := fun m r vs => let x := rs.getD r (0, 0, 0); rowWrites m out n0 x.1 x.2.1 0 vs
    stat := fun _ => epi.stat.map fun q => (q.t, n0 / 1024)
    bufPass := fun _ => pass, slot := some (.out 0, outRegion out rs.length (n1 - n0)) }

/-- The matrix part of a pass over rows (M, B): activation rows by slot row, weights of columns [n0, n1), K range [k0, k1). -/
def mmMat (mode : Mode) (tb : TileBlock) (op : Nat) (fs : List FillSpec) (pass : Nat) (rows : List (Nat × Nat)) (slotRow : Nat → Nat)
    (b wBox : Tile) (aK0 : Nat) : MatPart :=
  let seg := fun (k : Nat) => some ((k - b.k0) / (32 * mode.g))
  let wt := fun (k : Nat) => (fillFor fs (.wt op) pass (seg k)).getD 0
  let wK0 := fun (k : Nat) => match fs[wt k]? with | some f => (match f.seg with | some j => b.k0 + 32 * mode.g * j | none => wBox.k0) | none => b.k0
  let wN0 := fun (k : Nat) => match fs[wt k]? with | some f => (match (f.region.rows.headD []).head? with | some p => p.i1 | none => 0) | none => 0
  let a := fillFor fs .act pass none
  { mode := mode, fa := tb.act.fmt, fw := tb.wt.fmt, rows := rows.map fun r => { base := [b.n0, r.1, r.2, 0] }, cols := b.n1 - b.n0
    groups := cdiv (b.k1 - b.k0) mode.g, wpad := widenFp6 tb.wt.fmt.elem tb.wt.pad, key := some { t := tb.wt, l := tb.t1, n0 := b.n0, k0 := b.k0 }, k0 := b.k0
    act := fun r k => .fill (a.getD 0) (k - aK0) (slotRow r)
    wt := fun c k => .fill (wt k) (k - wK0 k) (b.n0 + c - wN0 k)
    actFill := fun _ => a, wtFill := fun j => fillFor fs (.wt op) pass (some j) }

/-- A MATMUL tile command. -/
def mmTile (j : TileJob) (tb : TileBlock) (epi : Posy) (pro : Option Posy) (t : TileCmd) : Option TileWork :=
  (modeOf tb.wt.fmt tb.act.fmt).map fun mode =>
    let whole := Box.tile t.box
    let boxes := (passBoxes tb.t1 t.box).map Box.tile
    let ends := t.part + 1 == tb.parts
    let fs := mmFills tb epi pro ends mode.g t.home t.num whole boxes
    let z := tb.coreSizes false epi.pair
    let ext := tb.exts
    let m := tb.t1.cut ext 0
    let b1 := tb.t1.cut ext 3
    { job := j, fills := fs
      passes := (numbered boxes).map fun x =>
        let b := x.2
        let rows := mbRows tb.t1.order b.box
        let ab := if tb.t2.aGran = 0 then whole else b
        { mat := some (mmMat mode tb 0 fs x.1 rows (fun r => rowIn ab (rows.getD r (0, 0))) b (if tb.t2.wGran = 0 then whole else b) ab.k0)
          run := some { mmRun 0 epi tb.out mode.isInt rows b.n0 b.n1 x.1 with
            die := tb.outBuf epi.pair t.home t.num (outRows epi.pair rows) b.n0
            split := tb.part.map fun pt =>
              { first := t.part == 0, last := ends, rows := rows.length
                sum := fun m r => let y := rows.getD r (0, 0); wordsAt pt m b.n0 b.n1 y.1 y.2
                put := fun m r vs => let y := rows.getD r (0, 0); rowWrites m pt b.n0 y.1 y.2 0 vs
                coord := fun r c => let y := rows.getD r (0, 0); [b.n0 + c, y.1, y.2, 0] } } }
      place := fun o => match o with
        | .act => (tb.t2.aOff * 64, z.1, z.1, tb.t2.aDepth)
        | .wt _ => (tb.t2.wOff * 64, z.2.1, z.2.1, tb.t2.wDepth)
        | .out _ => (tb.t2.oOff * 64, z.2.2, z.2.2, tb.t2.oDepth)
        | .stream 1 i => (match pro with
          | some p => streamPlace p (p.buffers (tb.proRows false).1 (tb.proRows false).2 (tb.t2.cut ext 2)) i
          | none => (0, 0, 0, 1))
        | .stream _ i => streamPlace epi (epi.buffers (if epi.pair then m / 2 else m) b1 (tb.t1.cut ext 1)) i
      areaOff := tb.t1.oOff * 64, areas := tb.t1.oDepth, slack := tb.t2.slack }

/-! ### CHAIN (R147) -/

/-- A buffer of core memory laid out as a slot of n rows (R101). -/
def bufTensor (t : Tensor) (off n w : Nat) : Tensor :=
  let z : Tensor := { base := off, e0 := w, e1 := n, fmt := t.fmt.core, pad := widenFp6 t.fmt.elem t.pad }
  let pitch := roundUp z.rowBytes 64
  { z with s1 := pitch, scaleBase := if t.fmt.mx then off + pitch * n else 0 }

/-- A CHAIN tile command: for each row block the first operation over its column tiles, the prologue of the second over the chain
buffer, the second operation over its own column tiles. -/
def chainTile (j : TileJob) (tb1 tb2 : TileBlock) (e1 e2 : Posy) (pro2 : Option Posy) (t : TileCmd) : Option TileWork :=
  match modeOf tb1.wt.fmt tb1.act.fmt, modeOf tb2.wt.fmt tb2.act.fmt with
  | some m1, some m2 =>
    let n1 := tb1.wt.e1
    let whole := Box.tile t.box
    let rowBox : Box := (t.box : Box).set 1 (0, 1) |>.set 2 (0, 1)
    let blocks := (passBoxes tb1.t1 rowBox).map Box.tile
    let c1 := cuts tb1.t1.tn (0, n1)
    let c2 := cuts tb2.t1.tn (0, tb2.wt.e1)
    let pp := c1.length + b2n pro2.isSome
    let per := pp + c2.length
    let nb := blocks.length
    let n := nb * per
    let blk := fun i => blocks.getD i whole
    let box1 := fun i c => let r := c1.getD c (0, 0); ({ blk i with n0 := r.1, n1 := r.2, k0 := 0, k1 := tb1.act.e0 } : Tile)
    let box2 := fun i c => let r := c2.getD c (0, 0); ({ blk i with n0 := r.1, n1 := r.2, k0 := 0, k1 := n1 } : Tile)
    let aBox := fun i => ({ (if tb1.t2.aGran = 0 then whole else blk i) with k0 := 0, k1 := tb1.act.e0 } : Tile)
    let copySize := (tb2.coreSizes true false).1
    let copy := fun i => tb2.t2.aOff * 64 + (i % tb2.t2.aDepth) * copySize
    let rowsOf := fun i => mbRows tb1.t1.order (blk i).box
    let wFill := fun (tb : TileBlock) (op g : Nat) (b : Tile) (seg : Option Nat) (pass last : Nat) (once : Bool) =>
      let lo := 32 * g * seg.getD 0
      ({ operand := .wt op, region := regionOf tb.wt false ((List.range (b.n1 - b.n0)).map fun i => (b.n0 + i, 0, 0)) lo (if seg.isSome then min b.k1 (lo + 32 * g) else b.k1)
         pass := pass, last := last, seg := seg, once := once } : FillSpec)
    let wPass := fun (tb : TileBlock) (op g : Nat) (b : Tile) (pass last : Nat) =>
      if tb.t2.wGran = 1 then [wFill tb op g b none pass last false]
      else if tb.t2.wGran = 2 then
        let m := cdiv (cdiv b.k1 g) 32
        (List.range m).map fun s => wFill tb op g b (some s) pass (if m ≤ tb.t2.wDepth then last else pass) (decide (tb.t2.wDepth < m))
      else []
    let once1 := c1.length == 1
    let once2 := c2.length == 1
    let fs : List FillSpec :=
      (if tb1.t2.wGran = 0 then [wFill tb1 0 m1.g { whole with n0 := 0, n1 := n1, k0 := 0, k1 := tb1.act.e0 } none 0 (n - 1) false] else []) ++
      (if tb2.t2.wGran = 0 then [wFill tb2 1 m2.g { whole with n0 := 0, n1 := tb2.wt.e1, k0 := 0, k1 := n1 } none 0 (n - 1) false] else []) ++
      (if tb1.t2.aGran = 0 then [{ operand := .act, region := regionOf tb1.act false (boxRows whole) 0 tb1.act.e0, pass := 0, last := n - 1 }] else []) ++
      (List.range nb).flatMap fun i =>
        (if tb1.t2.aGran = 0 then [] else [{ operand := .act, region := regionOf tb1.act false (boxRows (blk i)) 0 tb1.act.e0, pass := i * per, last := i * per + c1.length - 1 }]) ++
        ((List.range c1.length).flatMap fun c =>
          let rs := (rowsOf i).map fun r => (r.1, r.2, 0)
          (if once1 && i != 0 then [] else wPass tb1 0 m1.g (box1 i c) (i * per + c) (if once1 then n - 1 else i * per + c)) ++
          streamFills 2 e1 rs (box1 i c).n0 (box1 i c).n1 (i * per + c)) ++
        (match pro2 with | some p => streamFills 1 p ((rowsOf i).map fun r => (r.1, r.2, 0)) 0 n1 (i * per + c1.length) | none => []) ++
        ((List.range c2.length).flatMap fun c =>
          let rs := (rowsOf i).map fun r => (r.1, r.2, 0)
          (if once2 && i != 0 then [] else wPass tb2 1 m2.g (box2 i c) (i * per + pp + c) (if once2 then n - 1 else i * per + pp + c)) ++
          streamFills 0 e2 rs (box2 i c).n0 (box2 i c).n1 (i * per + pp + c))
    let passes : List Pass := (List.range nb).flatMap fun i =>
      let rows := rowsOf i
      let rs := rows.map fun r => (r.1, r.2, 0)
      let buf := bufTensor tb2.act (copy i) rows.length n1
      ((List.range c1.length).map fun c =>
        let b := box1 i c
        let p := i * per + c
        ({ mat := some (mmMat m1 tb1 0 fs p rows (fun r => rowIn (aBox i) (rows.getD r (0, 0))) b { b with n0 := b.n0 } 0)
           run := some { mmRun 2 e1 tb1.out m1.isInt rows b.n0 b.n1 p with
             buf := some fun r => (buf, r, b.n0), store := fun _ _ _ => [], slot := none
             waitIssue := if tb2.t2.aDepth ≤ i then (i - tb2.t2.aDepth + 1) * per else 0 } } : Pass)) ++
      (match pro2 with
        | some q => [({ run := some { proRun q tb2.act rs 0 n1 (i * per + c1.length) with buf := some fun r => (buf, r, 0) } } : Pass)]
        | none => []) ++
      ((List.range c2.length).map fun c =>
        let b := box2 i c
        let p := i * per + pp + c
        let mat := mmMat m2 tb2 1 fs p rows id b b 0
        ({ mat := some { mat with
             act := fun r k => .buf buf k r, actFill := fun _ => none
             needs := fun g => if pro2.isSome then i * per + c1.length + 1
               else i * per + min (c1.length - 1) ((min n1 ((g + 1) * m2.g) - 1) / tb1.t1.tn) + 1 }
           run := some (mmRun 0 e2 tb2.out m2.isInt rows b.n0 b.n1 p) } : Pass))
    let z1 := tb1.coreSizes false false
    let z2 := tb2.coreSizes true false
    let (bm, bb) := (tb1.t1.cut tb1.exts 0, tb1.t1.cut tb1.exts 3)
    some { job := j, passes := passes, fills := fs
           place := fun o => match o with
             | .act => (tb1.t2.aOff * 64, z1.1, z1.1, tb1.t2.aDepth)
             | .wt 0 => (tb1.t2.wOff * 64, z1.2.1, z1.2.1, tb1.t2.wDepth)
             | .wt _ => (tb2.t2.wOff * 64, z2.2.1, z2.2.1, tb2.t2.wDepth)
             | .out _ => (tb2.t2.oOff * 64, z2.2.2, z2.2.2, tb2.t2.oDepth)
             | .stream 0 i => streamPlace e2 (e2.buffers bm bb (tb2.t1.cut tb2.exts 1)) i
             | .stream 1 i => (match pro2 with | some p => streamPlace p (p.buffers bm bb (tb2.t2.cut tb2.exts 2)) i | none => (0, 0, 0, 1))
             | .stream _ i => streamPlace e1 (e1.buffers bm bb (tb1.t1.cut tb1.exts 1)) i
           areaOff := tb1.t1.oOff * 64, areas := tb1.t1.oDepth, slack := tb1.t2.slack, bufs := [(tb2.t2.aOff * 64, tb2.t2.aDepth * copySize)] }
  | _, _ => none

end Sys2Proof.Machine
end

