-- ==== Sys2Proof/Machine/Convwork.lean ====
section
/-! DEFINITION. Tile commands of CONV (08 R216 to R228) and POOL (08 R229): the input window in its slot, window buffers of fused
layers, weights by tap, passes of every layer. -/

namespace Sys2Proof.Machine

/-! ### Windows in core memory -/

/-- Columns that a part of n elements takes in a slot: whole blocks and whole bytes. -/
def colPitch (f : Fmt) (mask : Bool) (n : Nat) : Nat :=
  if mask then roundUp n 8 else if f.mx then roundUp n 32 else if f.elem.width = 4 then roundUp n 2 else if f.elem.width = 6 then roundUp n 4 else n

/-- Offsets δ of a subposition of a regrouped position (R220). -/
def ConvDesc.delta (c : ConvDesc) (sub d : Nat) : Nat := match d with | 0 => sub % c.r | 1 => sub / c.r % c.r | _ => sub / (c.r * c.r)

/-- Subpositions of a regrouped position; that of channel ch, and the channel within its pixel (R220). -/
def ConvDesc.subs (c : ConvDesc) : Nat := c.r ^ c.dims
def ConvDesc.subOf (c : ConvDesc) (ch : Nat) : Nat := min (ch / c.cIn) (c.subs - 1)

/-- Dimensions 1 to 3 and first column of a stored pixel (Table 8.2). -/
def ConvDesc.pixelAt (c : ConvDesc) (x : List Nat) (b : Nat) : Nat × Nat × Nat × Nat :=
  let z := x.getD 2 0 + c.inp.getD 2 1 * b
  if c.packIn then (x.getD 1 0, z, 0, x.getD 0 0 * c.cIn) else (x.getD 0 0, x.getD 1 0, z, 0)

/-- Stored pixel of subposition `sub` of a regrouped position. -/
def ConvDesc.subPixel (c : ConvDesc) (x : List Int) (sub : Nat) : List Nat :=
  (List.range 3).map fun d => c.rAt d * (x.getD d 0).toNat + (if d < c.dims then c.delta sub d else 0)

/-- A position of the regrouped input, channel by channel, as parts of a slot row of tensor t. -/
def ConvDesc.parts (c : ConvDesc) (t : Tensor) (mask : Bool) (x : List Int) (b : Nat) : List Part :=
  (List.range c.subs).map fun sub =>
    let i := c.pixelAt (c.subPixel x sub) b
    { t := t, i1 := i.1, i2 := i.2.1, i3 := i.2.2.1, c0 := i.2.2.2, n := c.cIn
      w := if sub + 1 = c.subs then c.cIn else colPitch t.fmt mask c.cIn }

/-- Column of a slot row that holds regrouped channel ch. -/
def ConvDesc.slotCol (c : ConvDesc) (f : Fmt) (mask : Bool) (ch : Nat) : Nat := c.subOf ch * colPitch f mask c.cIn + (ch - c.subOf ch * c.cIn)

/-- A window: start and extent in each dimension, and its images. -/
structure Win where
  r : Nat → Int × Int
  b0 : Nat
  b1 : Nat

/-- Positions of a window, dimension 0 fastest, outside ones included (R227). -/
def Win.all (w : Win) : List (List Int × Nat) :=
  let rng := fun (d : Nat) => (List.range (w.r d).2.toNat).map fun (i : Nat) => (w.r d).1 + (i : Int)
  (List.range (w.b1 - w.b0)).flatMap fun b => (rng 2).flatMap fun z => (rng 1).flatMap fun y => (rng 0).map fun x => ([x, y, z], w.b0 + b)

/-- Row of a window that holds a position. -/
def Win.index (w : Win) (x : List Int) (b : Nat) : Nat :=
  let o := fun (d : Nat) => (x.getD d 0 - (w.r d).1).toNat
  let e := fun (d : Nat) => (w.r d).2.toNat
  o 0 + e 0 * (o 1 + e 1 * (o 2 + e 2 * (b - w.b0)))

/-- Does a position lie inside the regrouped input. -/
def ConvDesc.insideIn (c : ConvDesc) (x : List Int) : Bool := (List.range 3).all fun d => decide (0 ≤ x.getD d 0) && decide (x.getD d 0 < (c.inR d : Int))

/-- What the input's slot holds: the positions inside the input (R224). -/
def ConvDesc.window (c : ConvDesc) (t : Tensor) (mask : Bool) (w : Win) : Region :=
  { fmt := t.fmt, pad := t.pad, mask := mask, rows := w.all.map fun x => if c.insideIn x.1 then c.parts t mask x.1 x.2 else [] }

/-- The window of a box for layers `cds` and those after (R225). -/
def winOf (cds : List ConvDesc) (b : Box) : Win :=
  { r := fun d => windowBack cds d ((b.lo (4 + d) : Int), (b.hi (4 + d) : Int) - b.lo (4 + d)), b0 := b.lo 3, b1 := b.hi 3 }

/-! ### Operands -/

/-- Position that a tap of an output position reads. -/
def ConvDesc.at_ (c : ConvDesc) (o : List Nat) (tap : Nat) : List Int := (List.range 3).map fun d => c.pos o tap d

/-- The activation at K position k of an output position (R216, R217): `el` reads a channel of a row of the window, `padOf` its padding. -/
def ConvDesc.actRef (c : ConvDesc) (cp : Nat) (f : Fmt) (pad : Nat) (w : Win) (el padOf : Nat → Nat → Ref) (o : List Nat) (b k : Nat) : Ref :=
  let tap := k / cp
  let row := w.index (c.at_ o tap) b
  if c.taps ≤ tap || !c.insideTap o tap then .const (widenFp6 f.elem pad) 127
  else if k % cp < c.cR then el (k % cp) row
  else padOf (k % cp) row

/-- A row of a weight slot: columns [lo, hi) of K of one output column, tap by tap (R218). -/
def ConvDesc.wtParts (c : ConvDesc) (cp : Nat) (t : Tensor) (n lo hi : Nat) : List Part :=
  (List.range (cdiv hi cp - lo / cp)).map fun i =>
    let tap := lo / cp + i
    let c0 := max lo (tap * cp) - tap * cp
    let c1 := min hi ((tap + 1) * cp) - tap * cp
    { t := t, i1 := tap, i2 := n, c0 := c0, n := min c1 c.cR - c0, w := c1 - c0 }

def ConvDesc.wtRegion (c : ConvDesc) (cp : Nat) (t : Tensor) (n0 n1 lo hi : Nat) : Region :=
  { fmt := t.fmt, pad := t.pad, rows := (List.range (n1 - n0)).map fun j => c.wtParts cp t (n0 + j) lo hi }

/-- The weight at K position k of column n: fill j holds K from lo and columns from n0. -/
def ConvDesc.wtRef (c : ConvDesc) (cp : Nat) (t : Tensor) (j n0 lo n k : Nat) : Ref :=
  let pad := widenFp6 t.fmt.elem t.pad
  if c.taps ≤ k / cp then .const pad 127
  else if k % cp < c.cR then .fill j (k - lo) (n - n0)
  else .pad j (k - lo) (n - n0) pad

/-! ### Epilogues -/

/-- Writes of the columns from n0 of an output position (R221). -/
def ConvDesc.writes (c : ConvDesc) (t : Tensor) (m : Mem) (o : List Nat) (b n0 : Nat) (vs : List Word) : List (Nat × List Byte) :=
  if c.q = 1 then let i := c.outIndex o b n0; rowWrites m t i.1 i.2.1 i.2.2.1 i.2.2.2 vs
  else (numbered vs).flatMap fun v => let i := c.outIndex o b (n0 + v.1); rowWrites m t i.1 i.2.1 i.2.2.1 i.2.2.2 [v.2]

/-- Rows of a CONV or POOL pass as the posies see them: ROW and BAT (R219). -/
def ConvDesc.posyRows (c : ConvDesc) (rows : List (List Nat × Nat)) : List (Nat × Nat × Nat) := rows.map fun x => (c.rowNum x.1, x.2, 0)

/-- Rows that an epilogue writes: of a pair, the first (R125). -/
def pairRows {α : Type} [Inhabited α] (pair : Bool) (rows : List α) : List α :=
  if pair then (List.range (rows.length / 2)).map fun j => rows.getD (2 * j) default else rows

/-- The epilogue of a pass over output positions and columns [n0, n1). -/
def convRun (posy : Nat) (epi : Posy) (c : ConvDesc) (layer : Nat) (out : Tensor) (res : ResKind) (rows : List (List Nat × Nat)) (n0 n1 pass : Nat) : RunSpec :=
  let rows := pairRows epi.pair rows
  let rs := c.posyRows rows
  let row := fun r => rows.getD r ([], 0)
  { prog := .posy epi, posy := posy, rows := rs.length, span := fun _ => (n0, n1), at_ := rowLanes rs, bufAt := bufferAt rs n0, out := out, res := res
    line := fun r => if epi.pair then 2 * r else r, coord := fun r n => convCoord c layer (row r).1 (row r).2 n
    store := fun m r vs => c.writes out m (row r).1 (row r).2 n0 vs, stat := fun _ => epi.stat.map fun q => (q.t, n0 / 1024)
    bufPass := fun _ => pass, slot := some (.out 0, outRegion out rs.length (n1 - n0)) }

/-- The prologue of the input window (R126): rows are its positions inside the input, columns their regrouped channels; lanes see the
stored indices (entry 26). -/
def convPro (p : Posy) (c : ConvDesc) (act : Tensor) (w : Win) : RunSpec :=
  let ins := (numbered w.all).filter fun x => c.insideIn x.2.1
  let row := fun r => ins.getD r (0, [], 0)
  let pix := fun r ch => c.pixelAt (c.subPixel (row r).2.1 (c.subOf ch)) (row r).2.2
  let col := fun r ch => (pix r ch).2.2.2 + (ch - c.subOf ch * c.cIn)
  { prog := .posy p, posy := 1, role := 1, rows := ins.length, span := fun _ => (0, c.cR)
    at_ := fun r ch => { col := col r ch, row := (pix r ch).1, bat := (pix r ch).2.1 }
    bufAt := fun q r ch => match q.shape with
      | 1 => (0, col r ch)
      | 2 => (0, (r * c.subs + c.subOf ch) * colPitch q.t.fmt false 1 + ((pix r ch).1 - alignCol q.t false (pix r ch).1))
      | _ => (r, c.slotCol q.t.fmt q.maskBits ch)
    runs := fun r => (List.range c.subs).map fun sub => ((row r).1, sub * colPitch act.fmt false c.cIn, sub * c.cIn, c.cIn)
    out := { act with fmt := act.fmt.core }, res := .act
    coord := fun r ch => [col r ch, (pix r ch).1, (pix r ch).2.1, (pix r ch).2.2.1] }

/-- Stream buffers of that prologue. -/
def convProFills (p : Posy) (c : ConvDesc) (w : Win) (last : Nat) : List FillSpec :=
  let ins := w.all.filter fun x => c.insideIn x.1
  p.streams.map fun q =>
    { operand := .stream 1 q.slot, pass := 0, last := last
      region := match q.shape with
        | 1 => regionOf q.t q.maskBits [(0, 0, 0)] 0 q.t.e0
        | 2 => { fmt := q.t.fmt, pad := q.t.pad
                 rows := [ins.flatMap fun x => (List.range c.subs).map fun sub =>
                   let i := c.pixelAt (c.subPixel x.1 sub) x.2
                   let c0 := alignCol q.t false i.1
                   { t := q.t, i1 := i.2.1, c0 := c0, n := min (colPitch q.t.fmt false 1) (q.t.e0 - c0), w := colPitch q.t.fmt false 1 : Part }] }
        | _ => { fmt := q.t.fmt, pad := q.t.pad, mask := q.maskBits, rows := ins.map fun x => c.parts q.t q.maskBits x.1 x.2 } }

/-! ### CONV -/

/-- A layer with what its passes need: mode, Cp, format and PAD of what it reads, its window, window buffer, positions and first pass. -/
structure ConvStage where
  l : ConvLayer
  mode : Mode
  cp : Nat
  fa : Fmt
  pad : Nat
  win : Win
  buf : Tensor
  rows : List (List Nat × Nat)
  first : Nat

/-- The layers of a tile command; none when their formats form no mode. -/
def ConvBlock.stages (cb : ConvBlock) (b : Box) : List ConvStage :=
  let cds := cb.layers.map fun l => l.cd
  (numbered cb.layers).foldl (fun (acc : List ConvStage × Nat) x =>
    let fa := if x.1 = 0 then cb.act else (cb.layers.getD (x.1 - 1) x.2).out
    let w := winOf (cds.drop (x.1 + 1)) b
    let rows := windowRows x.2.cd.out w.r w.b0 w.b1
    let mode := (modeOf x.2.wt.fmt fa.fmt).getD .half
    (acc.1 ++ [{ l := x.2, mode := mode, cp := x.2.cd.cp mode.g (x.2.wt.fmt.mx || fa.fmt.mx), fa := fa.fmt, pad := fa.pad, win := w
                 buf := bufTensor x.2.out (x.2.cd.bufOff * 64) w.all.length x.2.cd.n, rows := rows, first := acc.2 }], acc.2 + cdiv rows.length 64)) ([], 0) |>.1

/-- Bytes of the weights of a whole layer in core memory. -/
def ConvStage.wtSize (x : ConvStage) : Nat := slotSize x.l.wt.fmt true x.l.cd.n (x.l.cd.taps * x.cp)

/-- The activation of stage j: the input slot, or the window buffer of the stage before. -/
def convAct (ss : List ConvStage) (inp : Win) (aFill : Nat) (j : Nat) (x : ConvStage) (o : List Nat) (b k : Nat) : Ref :=
  if j = 0 then
    x.l.cd.actRef x.cp x.fa x.pad inp (fun ch row => .fill aFill (x.l.cd.slotCol x.fa false ch) row)
      (fun ch row => .pad aFill (x.l.cd.slotCol x.fa false ch) row (widenFp6 x.fa.elem x.pad)) o b k
  else match ss[j - 1]? with
    | some y => x.l.cd.actRef x.cp x.fa x.pad y.win (fun ch row => .buf y.buf ch row) (fun ch row => .buf y.buf ch row) o b k
    | none => .const 0 127

/-- Runs that must have stored before a group of stage j issues: those that store the window positions it reads (R227). -/
def convNeeds (ss : List ConvStage) (j : Nat) (x : ConvStage) (rows : List (List Nat × Nat)) (k : Nat) : Nat :=
  match j, ss[j - 1]? with
  | 0, _ => 0
  | _, none => 0
  | _, some y => rows.foldl (fun n r =>
      if x.l.cd.insideTap r.1 (k / x.cp) then
        max n (y.first + y.rows.idxOf ((x.l.cd.at_ r.1 (k / x.cp)).map Int.toNat, r.2) / 64 + 1)
      else n) 0

/-- The matrix part of a pass of stage j over columns [n0, n1) and K [k0, k1). -/
def convMat (ss : List ConvStage) (inp : Win) (aFill : Option Nat) (fs : List FillSpec) (cb : ConvBlock) (j : Nat) (x : ConvStage) (pass : Nat)
    (rows : List (List Nat × Nat)) (n0 n1 k0 k1 : Nat) : MatPart :=
  let seg := fun (k : Nat) => some ((k - k0) / (32 * x.mode.g))
  let fillOf := fun (k : Nat) => (fillFor fs (.wt j) pass (seg k)).getD 0
  let lo := fun (k : Nat) => match fs[fillOf k]? with | some f => (match f.seg with | some i => k0 + 32 * x.mode.g * i | none => k0) | none => k0
  let c0 := fun (k : Nat) => match fs[fillOf k]? with | some f => (match (f.region.rows.headD []).head? with | some p => p.i2 | none => 0) | none => 0
  { mode := x.mode, fa := x.fa, fw := x.l.wt.fmt, rows := rows.map fun r => { base := convCoord x.l.cd j r.1 r.2 n0 }, cols := n1 - n0
    groups := cdiv (k1 - k0) x.mode.g, wpad := widenFp6 x.l.wt.fmt.elem x.l.wt.pad, key := some { t := x.l.wt, l := cb.t1, n0 := n0, k0 := k0 }, k0 := k0
    act := fun r k => let y := rows.getD r ([], 0); convAct ss inp (aFill.getD 0) j x y.1 y.2 k
    wt := fun c k => x.l.cd.wtRef x.cp x.l.wt (fillOf k) (c0 k) (lo k) (n0 + c) k
    actFill := fun _ => if j = 0 then aFill else none
    wtFill := fun s => fillFor fs (.wt j) pass (some s)
    pruned := fun g => x.l.cd.pruned { cb.act with fmt := x.fa, pad := x.pad } rows ((k0 + g * x.mode.g) / x.cp)
    needs := fun g => convNeeds ss j x rows (k0 + g * x.mode.g) }

/-- Rows of a pass of the last layer or of a POOL. -/
def spatialRows (order : List Nat) (p : Box) : List (List Nat × Nat) := (passRows order p).map fun r => ([r.lo 4, r.lo 5, r.lo 6], r.lo 3)

/-- Positions and columns of an output slot at T3: output positions in order, columns before regrouping. -/
def spatialOut (t3 t2 : Level) (full : Box) (home num size : Nat) (out : Tensor) (pair : Bool) (rows : List (List Nat × Nat)) (n0 : Nat) :
    Option (Nat × Tensor × (Nat → Nat × Nat)) :=
  let rows := pairRows pair rows
  let ext := fun (b : Box) (d : Nat) => b.hi d - b.lo d
  (t3Out t3 t2 full home num size (fun b => b.lows [1, 3, 4, 5, 6]) out (fun b => ext b 3 * ext b 4 * ext b 5 * ext b 6) (fun b => ext b 1)).map fun x =>
    (x.1, x.2.1, fun r =>
      let y := rows.getD r ([], 0)
      let b := x.2.2
      let o := fun d => y.1.getD d 0 - b.lo (4 + d)
      (o 0 + ext b 4 * (o 1 + ext b 5 * (o 2 + ext b 6 * (y.2 - b.lo 3))), n0 - b.lo 1))

/-- Fills of the last layer's weights for its passes, as those of a MATMUL (R104). -/
def convWtFills (cb : ConvBlock) (j first : Nat) (x : ConvStage) (ps : List Box) (buf : Option (Nat × Region × Nat × Nat × Nat)) (i : Nat) : List FillSpec :=
  let n := ps.length
  let at_ := fun i => ps.getD i []
  let fresh := fun i => i == 0 || (at_ i).lo 1 != (at_ (i - 1)).lo 1 || (at_ i).lo 2 != (at_ (i - 1)).lo 2
  let b := at_ i
  let (k0, k1) := (b.lo 2, b.hi 2)
  let m := cdiv (cdiv (k1 - k0) x.mode.g) 32
  let all := decide (m ≤ cb.t2.wDepth)
  let mk := fun (seg : Option Nat) (last : Nat) (once : Bool) =>
    let lo := k0 + 32 * x.mode.g * seg.getD 0
    ({ operand := .wt j, region := x.l.cd.wtRegion x.cp x.l.wt (b.lo 1) (b.hi 1) lo (if seg.isSome then min k1 (lo + 32 * x.mode.g) else k1)
       pass := first + i, last := first + last, seg := seg, once := once, buf := buf } : FillSpec)
  if cb.t2.wGran = 1 then (if fresh i then [mk none (keptTo fresh n i) false] else [])
  else if cb.t2.wGran = 2 then
    (if all && !fresh i then [] else (List.range m).map fun s => mk (some s) (if all then keptTo fresh n i else i) (!all))
  else []

/-- A CONV tile command (R224 to R228): the layers in order. -/
def convWork (j : TileJob) (cb : ConvBlock) (pro : Option Posy) (t : TileCmd) : Option TileWork :=
  let ss := cb.stages t.box
  let nl := ss.length
  let cds := cb.layers.map fun l => l.cd
  let full := cb.full cb.k
  let ext := cb.exts cb.k
  match ss.getLast?, cds.head? with
  | some z, some c0 =>
    let inp := winOf cds t.box
    let ps := passBoxes cb.t1 t.box
    let n := z.first + ps.length
    let (k0, k1) := (Box.lo t.box 2, Box.hi t.box 2)
    let (N0, N1) := (Box.lo t.box 1, Box.hi t.box 1)
    let wtBuf := t3Slot cb.t3 cb.t2 full t.home t.num cb.t3.wOff (match (cb.bufs ext false)[1]? with | some x => x.2 / max 1 cb.t3.wDepth | none => 0) cb.t3.wDepth
      (fun b => b.lows [1, 2]) fun b => z.l.cd.wtRegion z.cp z.l.wt (b.lo 1) (b.hi 1) (b.lo 2) (b.hi 2)
    let actBuf := t3Slot cb.t3 cb.t2 full t.home t.num cb.t3.aOff (match (cb.bufs ext false)[0]? with | some x => x.2 / max 1 cb.t3.aDepth | none => 0) cb.t3.aDepth
      (fun b => b.lows [3, 4, 5, 6]) fun b => c0.window cb.act false (winOf cds b)
    let outSize := match (cb.bufs ext false)[2]? with | some x => x.2 / max 1 cb.t3.oDepth | none => 0
    let mids := numbered (ss.take (nl - 1))
    let aLast := if nl = 1 then n - 1 else (ss.getD 1 z).first - 1
    let ends := !decide (k1 < z.l.cd.taps * z.cp)
    let fs : List FillSpec :=
      (mids.map fun x => { operand := .wt x.1, region := x.2.l.cd.wtRegion x.2.cp x.2.l.wt 0 x.2.l.cd.n 0 (x.2.l.cd.taps * x.2.cp), pass := x.2.first
                           last := (ss.getD (x.1 + 1) z).first - 1 : FillSpec }) ++
      (if cb.t2.wGran = 0 then [{ operand := .wt (nl - 1), region := z.l.cd.wtRegion z.cp z.l.wt N0 N1 k0 k1, pass := z.first, last := n - 1, buf := wtBuf }] else []) ++
      [{ operand := .act, region := c0.window cb.act false inp, pass := 0, last := aLast, pro := pro.map fun p => convPro p c0 cb.act inp, buf := actBuf }] ++
      (match pro with | some p => convProFills p c0 inp aLast | none => []) ++
      (mids.flatMap fun x => (numbered (groupsOf 64 (x.2.rows.length + 1) x.2.rows)).flatMap fun y =>
        streamFills (3 + x.1) x.2.l.epi (x.2.l.cd.posyRows y.2) 0 x.2.l.cd.n (x.2.first + y.1)) ++
      ((numbered ps).flatMap fun y =>
        convWtFills cb (nl - 1) z.first z ps wtBuf y.1 ++
        (if ends then streamFills 0 z.l.epi (z.l.cd.posyRows (pairRows z.l.epi.pair (spatialRows cb.t1.order y.2))) (y.2.lo 1) (y.2.hi 1) (z.first + y.1) else []))
    let aFill := fillFor fs .act 0 none
    let midPasses : List Pass := mids.flatMap fun x => (numbered (groupsOf 64 (x.2.rows.length + 1) x.2.rows)).map fun y =>
      let pass := x.2.first + y.1
      { mat := some (convMat ss inp aFill fs cb x.1 x.2 pass y.2 0 x.2.l.cd.n 0 (x.2.l.cd.taps * x.2.cp))
        run := some { convRun (3 + x.1) x.2.l.epi x.2.l.cd x.1 (x.2.l.idx x.2.l.out) (.area x.2.mode.isInt) y.2 0 x.2.l.cd.n pass with
          store := fun _ _ _ => [], slot := none
          buf := some fun r => let p := y.2.getD r ([], 0); (x.2.buf, x.2.win.index (p.1.map Int.ofNat) p.2, 0)
          waitIssue := mids.foldl (fun w a =>
            if a.1 + 2 ≤ x.1 ∧ overlap a.2.buf.base (slotSize a.2.l.out.fmt true a.2.buf.e1 a.2.buf.e0) x.2.buf.base (slotSize x.2.l.out.fmt true x.2.buf.e1 x.2.buf.e0)
            then max w (ss.getD (a.1 + 2) z).first else w) 0 } }
    let lastPasses : List Pass := (numbered ps).map fun y =>
      let rows := spatialRows cb.t1.order y.2
      let (n0, n1) := (y.2.lo 1, y.2.hi 1)
      { mat := some (convMat ss inp aFill fs cb (nl - 1) z (z.first + y.1) rows n0 n1 k0 k1)
        run := some { convRun 0 z.l.epi z.l.cd (nl - 1) z.l.out (.area z.mode.isInt) rows n0 n1 (z.first + y.1) with
          die := spatialOut cb.t3 cb.t2 full t.home t.num outSize z.l.out z.l.epi.pair rows n0
          split := cb.part.map fun pt =>
            { first := t.part == 0, last := ends, rows := rows.length
              sum := fun m r => let p := rows.getD r ([], 0); z.l.cd.colsAt pt m p.1 p.2 n0 n1
              put := fun m r vs => let p := rows.getD r ([], 0); z.l.cd.writes pt m p.1 p.2 n0 vs
              coord := fun r c => let p := rows.getD r ([], 0); convCoord z.l.cd (nl - 1) p.1 p.2 (n0 + c) } } }
    let sizes := (cb.core ext false none).map fun x => x.2
    let wOffs := fun (i : Nat) => (ss.take i).foldl (fun a x => a + x.wtSize) 0
    let wPitch := sizes.getD 1 0 / max 1 cb.t2.wDepth
    some { job := j, passes := midPasses ++ lastPasses, fills := fs
           place := fun o => match o with
             | .act => (cb.t2.aOff * 64, sizes.getD 0 0 / max 1 cb.t2.aDepth, sizes.getD 0 0 / max 1 cb.t2.aDepth, cb.t2.aDepth)
             | .wt i => (cb.t2.wOff * 64 + wOffs i, if i + 1 = nl then wPitch - wOffs i else (ss.getD i z).wtSize, wPitch, cb.t2.wDepth)
             | .out _ => (cb.t2.oOff * 64, sizes.getD 2 0 / max 1 cb.t2.oDepth, sizes.getD 2 0 / max 1 cb.t2.oDepth, cb.t2.oDepth)
             | .stream 1 i => (match pro with | some p => streamPlace p (p.buffers inp.all.length 1 c0.cR) i | none => (0, 0, 0, 1))
             | .stream 0 i => streamPlace z.l.epi (z.l.epi.buffers (cb.t1.cut ext 4 * cb.t1.cut ext 5 * cb.t1.cut ext 6) (cb.t1.cut ext 3) (cb.t1.cut ext 1)) i
             | .stream p i => let x := ss.getD (p - 3) z; streamPlace x.l.epi (x.l.epi.buffers 64 1 x.l.cd.n) i
           areaOff := cb.t1.oOff * 64, areas := cb.t1.oDepth, slack := cb.t2.slack
           bufs := mids.map fun x => (x.2.buf.base, slotSize x.2.l.out.fmt true x.2.buf.e1 x.2.buf.e0) }
  | _, _ => none

/-! ### POOL -/

/-- A POOL tile command (R229): its runs fold the taps of the input window. -/
def poolWork (j : TileJob) (cb : ConvBlock) (t : TileCmd) : Option TileWork :=
  match cb.layers.head? with
  | none => none
  | some l =>
    let c := l.cd
    let full := cb.full 1
    let ext := cb.exts 1
    let inp := winOf [c] t.box
    let ps := passBoxes cb.t1 t.box
    let bufs := cb.bufs ext true
    let actBuf := t3Slot cb.t3 cb.t2 full t.home t.num cb.t3.aOff (match bufs[0]? with | some x => x.2 / max 1 cb.t3.aDepth | none => 0) cb.t3.aDepth
      (fun b => b.lows [3, 4, 5, 6]) fun b => c.window cb.act false (winOf [c] b)
    let outSize := match bufs[2]? with | some x => x.2 / max 1 cb.t3.oDepth | none => 0
    let fs : List FillSpec := [{ operand := .act, region := c.window cb.act false inp, pass := 0, last := ps.length - 1, buf := actBuf }] ++
      (numbered ps).flatMap fun y => streamFills 0 l.epi (c.posyRows (pairRows l.epi.pair (spatialRows cb.t1.order y.2))) (y.2.lo 1) (y.2.hi 1) y.1
    let passes : List Pass := (numbered ps).map fun y =>
      let rows := spatialRows cb.t1.order y.2
      let tap := fun r ch k =>
        let p := rows.getD r ([], 0)
        if c.insideTap p.1 k then some (Ref.fill 0 (c.slotCol cb.act.fmt false ch) (inp.index (c.at_ p.1 k) p.2))
        else if c.mode = 3 then none else some (Ref.const (widenFp6 cb.act.fmt.elem cb.act.pad) 127)
      { run := some { convRun 0 l.epi c 0 l.out (.pool tap c.taps c.mode cb.act.fmt) rows (y.2.lo 1) (y.2.hi 1) y.1 with
          fill := some 0, die := spatialOut cb.t3 cb.t2 full t.home t.num outSize l.out l.epi.pair rows (y.2.lo 1) } }
    let sizes := (cb.core ext true none).map fun x => x.2
    some { job := j, passes := passes, fills := fs
           place := fun o => match o with
             | .act => (cb.t2.aOff * 64, sizes.getD 0 0 / max 1 cb.t2.aDepth, sizes.getD 0 0 / max 1 cb.t2.aDepth, cb.t2.aDepth)
             | .out _ => (cb.t2.oOff * 64, sizes.getD 2 0 / max 1 cb.t2.oDepth, sizes.getD 2 0 / max 1 cb.t2.oDepth, cb.t2.oDepth)
             | .stream _ i => streamPlace l.epi (l.epi.buffers (cb.t1.cut ext 4 * cb.t1.cut ext 5 * cb.t1.cut ext 6) (cb.t1.cut ext 3) (cb.t1.cut ext 1)) i
             | _ => (0, 0, 0, 1)
           areaOff := cb.t1.oOff * 64, areas := cb.t1.oDepth, slack := cb.t2.slack }

end Sys2Proof.Machine
end

