-- ==== Sys2Proof/Machine/Attwork.lean ====
section
/-! DEFINITION. Tile commands of ATTEND (07 R187, R193, R194, R200, R207): bound passes with the choice of pages, key blocks of Q·Kᵀ
and P·V, and the second phase of the column form. -/

namespace Sys2Proof.Machine

/-- The tile command's sequence, KV head, rows (query head, token) of a row block, and whether they stack. -/
def AttendBlock.seq (ab : AttendBlock) (s : Nat) : SeqEntry := ab.seqs.getD s { frames := [], clover := 0, len := 0, qPos0 := 0, npCap := 0 }
def AttendBlock.kvOf (ab : AttendBlock) (h : Nat) : Nat := if ab.att.form then h / ab.att.group else h
def AttendBlock.rowsOf (ab : AttendBlock) (h i0 i1 : Nat) : List (Nat × Nat) :=
  if ab.att.form then (List.range (i1 - i0)).map fun k => (h, i0 + k) else stackedRows ab.att.group h i0 i1

/-- A tile command of ATTEND with what its passes share. -/
structure AttTile where
  ab : AttendBlock
  epi : Posy
  s : Nat
  h : Nat
  t0 : Nat
  t1 : Nat

def AttTile.q (x : AttTile) : SeqEntry := x.ab.seq x.s
def AttTile.kv (x : AttTile) : Nat := x.ab.kvOf x.h
def AttTile.pf (x : AttTile) : Fmt := (fmtOfCode x.ab.att.pFmt).getD bf16Fmt
def AttTile.qkMode (x : AttTile) : Mode := (modeOf x.ab.k.fmt x.ab.q.fmt).getD .half
def AttTile.pvMode (x : AttTile) : Mode := (modeOf x.ab.pvFmts.1 x.ab.pvFmts.2).getD .half

/-- The probability buffer (R200). -/
def AttTile.prob (x : AttTile) : Tensor :=
  bufTensor { x.ab.q with fmt := x.pf, pad := 0 } (x.ab.att.pOff * 64) x.ab.probRows 1024

/-- A page's part of the K or V operand (R184). -/
def AttTile.page (x : AttTile) (t : Tensor) (p : Nat) : Tensor := pageTensor t (x.q.frames.getD p 0) x.ab.att.headStride x.kv

/-- The clover tensor (R205). -/
def AttTile.clover (x : AttTile) : Tensor :=
  { base := x.q.clover, e0 := 2 * x.ab.q.e0, e1 := x.ab.att.kvHeads * x.q.npCap, s1 := roundUp (4 * x.ab.q.e0) 64, fmt := bf16Fmt }

/-- Position of key k of a block. -/
def keyPos (pages : List Nat) (k : Nat) : Nat := 128 * pages.getD (k / 128) 0 + k % 128

/-- The Q rows of a row block. -/
def AttTile.qRegion (x : AttTile) (rows : List (Nat × Nat)) : Region :=
  { fmt := x.ab.q.fmt, pad := x.ab.q.pad, rows := rows.map fun r => [{ t := x.ab.q, i1 := r.2, i2 := r.1, i3 := x.s, c0 := 0, n := x.ab.q.e0 }] }

/-- K of a key block: one row for each key. -/
def AttTile.kRegion (x : AttTile) (pages : List Nat) : Region :=
  { fmt := x.ab.k.fmt, pad := x.ab.k.pad
    rows := pages.flatMap fun p => (List.range 128).map fun i => [{ t := x.page x.ab.k p, i1 := i, c0 := 0, n := x.ab.q.e0 }] }

/-- V of some pages: one row for each value dimension. -/
def AttTile.vRegion (x : AttTile) (pages : List Nat) : Region :=
  { fmt := x.ab.v.fmt, pad := x.ab.v.pad
    rows := (List.range x.ab.out.e0).map fun c => pages.map fun p => { t := x.page x.ab.v p, i1 := c, c0 := 0, n := 128 } }

/-- Columns [lo, hi) of the clover rows of some pages. -/
def AttTile.cloverRegion (x : AttTile) (pages : List Nat) (lo hi : Nat) : Region :=
  { fmt := bf16Fmt, rows := pages.map fun p => [{ t := x.clover, i1 := x.kv * x.q.npCap + p, c0 := lo, n := hi - lo }] }

/-- An element of K or V at a key, PAD of its own value at or beyond LEN (R190). -/
def AttTile.keyRef (x : AttTile) (t : Tensor) (pages : List Nat) (key : Nat) (el : Ref) : Ref :=
  if keyPos pages key < x.q.len then el else .const (widenFp6 t.fmt.elem t.pad) 127

/-- Fills of a weight segment. -/
def segFill (region : Region) (pass last seg : Nat) (once : Bool) : FillSpec :=
  { operand := .wt 0, region := region, pass := pass, last := last, seg := some seg, once := once }

/-- Lanes of rows that hold keys or pages. -/
def AttTile.lanes (x : AttTile) (rows : List (Nat × Nat)) (pages : List Nat) (span : Nat) : List LaneAt :=
  rows.map fun r => { base := [0, r.2, r.1, x.s], pages := pages, span := span }

/-- A bound pass (R207): Q rows against the clover rows of up to 1,024 pages. -/
def AttTile.boundPass (x : AttTile) (rows : List (Nat × Nat)) (pages all : List Nat) (last : Bool) (fs : List FillSpec) (pass : Nat) : Pass :=
  let d := x.ab.q.e0
  let a := fillFor fs .act pass none
  { mat := some { mode := .half, fa := bf16Fmt, fw := bf16Fmt, rows := x.lanes rows pages 1, cols := pages.length, groups := cdiv (2 * d) 8
                  act := fun r k => if k < 2 * d then .bound (a.getD 0) (k % d) r (decide (d ≤ k)) else .const 0 127
                  wt := fun c k => .fill ((fillFor fs (.wt 0) pass (some (k / 256))).getD 0) (k % 256) c
                  actFill := fun _ => a, wtFill := fun b => fillFor fs (.wt 0) pass (some b) }
    run := some { prog := .select { att := x.ab.att, rows := rows.length, pages := pages, all := all, last := last }, rows := 1
                  span := fun _ => (0, pages.length), at_ := fun _ c => { col := c, row := 0, bat := 0 }, out := x.ab.out, res := .area false
                  coord := fun _ c => [pages.getD c 0, 0, x.h, x.s] } }

/-- A Q·Kᵀ pass with its score program (R195). -/
def AttTile.scorePass (x : AttTile) (rows : List (Nat × Nat)) (pages : List Nat) (j : Nat) (state : Nat → Nat) (fs : List FillSpec) (pass : Nat) : Pass :=
  let a := fillFor fs .act pass none
  let w := fillFor fs (.wt 0) pass (some 0)
  let row := fun r => rows.getD r (0, 0)
  { mat := some { mode := x.qkMode, fa := x.ab.q.fmt, fw := x.ab.k.fmt, rows := x.lanes rows pages 128, cols := 128 * pages.length
                  groups := cdiv x.ab.q.e0 x.qkMode.g, wpad := widenFp6 x.ab.k.fmt.elem x.ab.k.pad
                  key := some { t := x.ab.k, l := x.ab.t1, n0 := 0, k0 := 0, pages := pages.map fun p => (x.page x.ab.k p).base }
                  act := fun r k => .fill (a.getD 0) k r
                  wt := fun c k => x.keyRef x.ab.k pages c (.fill (w.getD 0) k c)
                  actFill := fun _ => a, wtFill := fun b => fillFor fs (.wt 0) pass (some b) }
    run := some { prog := .score { ab := x.ab, s := x.s, rows := rows, pages := pages, j := j, state := state, scale := if x.ab.att.form then none else some 32
                                   prob := x.prob, probRow := fun r => if x.ab.att.form then (row r).2 - x.t0 else r }
                  rows := rows.length, span := fun _ => (0, 128 * pages.length), at_ := fun r c => { col := keyPos pages c, row := (row r).2, bat := (row r).1, d3 := x.s }
                  out := x.prob, res := .area false, coord := fun r c => [keyPos pages c, (row r).2, (row r).1, x.s] } }

/-- The epilogue of the row form over the rows of a row block (R192, R198). -/
def AttTile.rowRun (x : AttTile) (rows : List (Nat × Nat)) (pass : Nat) : RunSpec :=
  let rs := rows.map fun r => (r.2, r.1, x.s)
  let row := fun r => rows.getD r (0, 0)
  { prog := .posy x.epi, rows := rows.length, span := fun _ => (0, x.ab.out.e0), at_ := rowLanes rs, bufAt := bufferAt rs 0, out := x.ab.out
    res := .norm fun r _ => r, coord := fun r c => [c, (row r).2, (row r).1, x.s]
    store := fun m r vs => rowWrites m x.ab.out 0 (row r).2 (row r).1 x.s vs
    tail := fun b a m => match x.ab.stats with
      | some t => (numbered rows).flatMap fun y => rowWrites m t 0 y.2.2 y.2.1 x.s (attRecord b (Cells.get f32NegInf y.1 a.m) (Cells.get 0 y.1 a.l) (Cells.get 0 y.1 a.n))
      | none => []
    bufPass := fun _ => pass, slot := some (.out 0, outRegion x.ab.out rows.length x.ab.out.e0) }

/-- P·V of key block j of the row form (R193): the last makes the rows final. -/
def AttTile.valuePass (x : AttTile) (rows : List (Nat × Nat)) (pages : List Nat) (j : Nat) (last : Bool) (fs : List FillSpec) (pass : Nat) : Pass :=
  let n := 32 * x.pvMode.g
  let fill := fun k => (fillFor fs (.wt 0) pass (some (k / n))).getD 0
  { mat := some { mode := x.pvMode, fa := x.pf, fw := x.ab.v.fmt, rows := rows.map fun r => { base := [0, r.2, r.1, x.s] }, cols := x.ab.out.e0
                  groups := cdiv (128 * pages.length) x.pvMode.g, base := 32, starts := j == 0, copies := last, wpad := widenFp6 x.ab.v.fmt.elem x.ab.v.pad, k0 := 1024 * j
                  act := fun r k => .buf x.prob (k - 1024 * j) r
                  wt := fun c k => x.keyRef x.ab.v pages (k - 1024 * j) (.fill (fill (k - 1024 * j)) ((k - 1024 * j) % n) c)
                  actFill := fun _ => none, wtFill := fun b => fillFor fs (.wt 0) pass (some b), needs := fun _ => pass }
    run := if last then some (x.rowRun rows pass) else none }

/-- Pages of a row block once they are chosen. -/
def AttTile.chosen (x : AttTile) (a : AttSt) (i : Nat) (rows : List (Nat × Nat)) : Option (List Nat) :=
  let ps := keptPages x.ab x.q rows
  if x.ab.att.topP = 0 || ps.isEmpty then some ps else a.sel[i]?

/-- Work gathered so far: passes by what the fills will be, fills, and whether the choice of pages is awaited. -/
structure AttWork where
  passes : List (List FillSpec → Pass) := []
  fills : List FillSpec := []
  open_ : Bool := false

def AttWork.add (w : AttWork) (fills : List FillSpec) (ps : List (List FillSpec → Pass)) : AttWork :=
  { w with passes := w.passes ++ ps, fills := w.fills ++ fills }

/-- Key blocks: groups of 8 selected pages (R194). -/
def keyBlocks (pages : List Nat) : List (List Nat) := groupsOf 8 (pages.length + 1) pages

/-- Row block i up to its choice of pages; answers the pages. -/
def AttTile.boundWork (x : AttTile) (a : AttSt) (i : Nat) (rows : List (Nat × Nat)) (w : AttWork) : AttWork × Option (List Nat) :=
  let ps := keptPages x.ab x.q rows
  let groups := if x.ab.att.topP = 0 then [] else groupsOf 1024 (ps.length + 1) ps
  let p0 := w.passes.length
  let sel := x.chosen a i rows
  let blocks := match sel with | some pages => (keyBlocks pages).length | none => 0
  let lastQ := if sel.isNone then 2 ^ 32 else p0 + groups.length + (if x.ab.att.form then 1 else 2 * blocks) - 1
  let act : List FillSpec := if groups.isEmpty && blocks == 0 then [] else [{ operand := .act, region := x.qRegion rows, pass := p0, last := lastQ }]
  let segs := fun (g : Nat × List Nat) => (List.range (cdiv (2 * x.ab.q.e0) 256)).map fun b =>
    segFill (x.cloverRegion g.2 (256 * b) (min (2 * x.ab.q.e0) (256 * b + 256))) (p0 + g.1) (p0 + g.1) b true
  let fills := match numbered groups with
    | [] => []
    | g :: r => (segs g).take 1 ++ act ++ (segs g).drop 1 ++ r.flatMap segs
  let w := w.add fills ((numbered groups).map fun g fs => x.boundPass rows g.2 ps (g.1 + 1 == groups.length) fs (p0 + g.1))
  ({ w with open_ := sel.isNone }, sel)

/-- Q fill of a row block that has no bound passes, read from one pass to another. -/
def AttTile.lateQ (x : AttTile) (rows : List (Nat × Nat)) (pass last : Nat) : List FillSpec :=
  if x.ab.att.topP = 0 then [{ operand := .act, region := x.qRegion rows, pass := pass, last := last }] else []

/-- Row block i of the row form. -/
def AttTile.rowBlock (x : AttTile) (a : AttSt) (w : AttWork) (i : Nat) (rows : List (Nat × Nat)) : AttWork :=
  if w.open_ then w
  else
    match x.boundWork a i rows w with
    | (w, none) => w
    | (w, some pages) =>
      let bs := keyBlocks pages
      let p0 := w.passes.length
      if bs.isEmpty then w.add (streamFills 0 x.epi (rows.map fun r => (r.2, r.1, x.s)) 0 x.ab.out.e0 p0) [fun _ => { run := some (x.rowRun rows p0) }]
      else (numbered bs).foldl (fun w b =>
        let p := p0 + 2 * b.1
        let last := b.1 + 1 == bs.length
        let n := 32 * x.pvMode.g
        w.add ([segFill (x.kRegion b.2) p p 0 true] ++ (if b.1 = 0 then x.lateQ rows p (p + 2 * bs.length - 1) else []) ++
            ((List.range (cdiv (128 * b.2.length) n)).map fun g => segFill (x.vRegion ((b.2.drop (g * n / 128)).take (n / 128))) (p + 1) (p + 1) g true) ++
            (if last then streamFills 0 x.epi (rows.map fun r => (r.2, r.1, x.s)) 0 x.ab.out.e0 (p + 1) else []))
          [fun fs => x.scorePass rows b.2 b.1 id fs p, fun fs => x.valuePass rows b.2 b.1 last fs (p + 1)]) w

/-! ### The column form -/

/-- Row block i of phase 1. -/
def AttTile.colBlock (x : AttTile) (a : AttSt) (w : AttWork) (i : Nat) (rows : List (Nat × Nat)) : AttWork :=
  if w.open_ then w
  else
    match x.boundWork a i rows w with
    | (w, none) => w
    | (w, some pages) =>
      if pages.isEmpty then w
      else
        let p := w.passes.length
        w.add ([segFill (x.kRegion pages) p p 0 true] ++ x.lateQ rows p p) [fun fs => x.scorePass rows pages 0 (fun r => (rows.getD r (0, 0)).2 - x.t0) fs p]

/-- Queries with the same pages stand side by side: pages, first query and end (entry 40). -/
def sameKeys (bs : List ((Nat × Nat) × List Nat)) : List (List Nat × Nat × Nat) :=
  bs.foldr (fun b acc => match acc with
    | g :: r => if g.1 = b.2 then (g.1, b.1.1, g.2.2) :: r else (b.2, b.1.1, b.1.2) :: acc
    | [] => [(b.2, b.1.1, b.1.2)]) []

/-- The epilogue of queries [q0, q1) over value dimensions [c0, c1): lanes are queries (R185, R200). -/
def AttTile.colRun (x : AttTile) (q0 q1 c0 c1 pass : Nat) : RunSpec :=
  let qs := (List.range (q1 - q0)).map fun i => (q0 + i, x.h, x.s)
  { prog := .posy x.epi, rows := c1 - c0, span := fun _ => (q0, q1), at_ := fun r t => { col := c0 + r, row := t, bat := x.h, d3 := x.s }
    bufAt := fun q r t => bufferAt qs c0 q (t - q0) (c0 + r), out := x.ab.out, res := .norm fun _ t => t - x.t0
    coord := fun r t => [c0 + r, t, x.h, x.s]
    store := fun m r vs => (numbered vs).flatMap fun v => rowWrites m x.ab.out (c0 + r) (q0 + v.1) x.h x.s [v.2]
    tail := fun b a m => match x.ab.stats with
      | some t => if c1 < x.ab.out.e0 then [] else (List.range (q1 - q0)).flatMap fun i =>
          let y := q0 + i - x.t0
          rowWrites m t 0 (q0 + i) x.h x.s (attRecord b (Cells.get f32NegInf y a.m) (Cells.get 0 y a.l) (Cells.get 0 y a.n))
      | none => []
    bufPass := fun _ => pass, slot := some (.out 0, outRegion x.ab.out (c1 - c0) (q1 - q0)) }

/-- P·V of the column form: value dimensions [c0, c1) of V on the broadcast, probabilities of queries [q0, q1) in the lanes. -/
def AttTile.colPass (x : AttTile) (pages : List Nat) (q0 q1 c0 c1 needs : Nat) (fs : List FillSpec) (pass : Nat) : Pass :=
  let n := 32 * x.pvMode.g
  let fill := fun b => fillFor fs (.wt 0) pass (some b)
  { mat := some { mode := x.pvMode, fa := x.ab.v.fmt, fw := x.pf, cols := q1 - q0, groups := cdiv (128 * pages.length) x.pvMode.g
                  rows := (List.range (c1 - c0)).map fun r => { base := [c0 + r, q0, x.h, x.s], dim := 1 }
                  key := some { t := x.prob, l := x.ab.t1, n0 := q0 - x.t0, k0 := 0, pages := [x.s, x.h, x.t0] ++ pages }
                  act := fun r k => x.keyRef x.ab.v pages k (.fill ((fill (k / n)).getD 0) (k % n) (c0 + r))
                  wt := fun c k => .buf x.prob k (q0 - x.t0 + c)
                  actFill := fill, wtFill := fun _ => none, wtNeeds := needs }
    run := some (x.colRun q0 q1 c0 c1 pass) }

/-- Phase 2: the passes of each group of queries, up to 64 value dimensions at a time. -/
def AttTile.colPhase (x : AttTile) (w : AttWork) (gs : List (List Nat × Nat × Nat)) : AttWork :=
  let needs := w.passes.length
  let n := 32 * x.pvMode.g
  let cs := cuts 64 (0, x.ab.out.e0)
  gs.foldl (fun w g =>
    let p0 := w.passes.length
    let m := cdiv (128 * g.1.length) n
    let all := decide (m ≤ x.ab.t2.wDepth)
    (numbered cs).foldl (fun w c =>
      let p := p0 + c.1
      let segs := if all && c.1 != 0 then [] else (List.range m).map fun b =>
        segFill (x.vRegion ((g.1.drop (b * n / 128)).take (n / 128))) p (if all then p0 + cs.length - 1 else p) b false
      let qs := (List.range (g.2.2 - g.2.1)).map fun i => (g.2.1 + i, x.h, x.s)
      w.add (segs ++ streamFills 0 x.epi qs c.2.1 c.2.2 p)
        [fun fs => if g.1.isEmpty then { run := some (x.colRun g.2.1 g.2.2 c.2.1 c.2.2 p) } else x.colPass g.1 g.2.1 g.2.2 c.2.1 c.2.2 needs fs p]) w) w

/-- An ATTEND tile command, as far as its pages are chosen. -/
def attWork (j : TileJob) (ab : AttendBlock) (epi : Posy) (t : TileCmd) (a : AttSt) : Option TileWork :=
  let x : AttTile := { ab := ab, epi := epi, s := Box.lo t.box 4, h := Box.lo t.box 3, t0 := Box.lo t.box 0, t1 := Box.hi t.box 0 }
  let blocks := cuts ab.t1.tm (x.t0, x.t1)
  let rows := blocks.map fun b => ab.rowsOf x.h b.1 b.2
  let w : AttWork := (numbered rows).foldl (fun w r => if ab.att.form then x.colBlock a w r.1 r.2 else x.rowBlock a w r.1 r.2) {}
  let w := if ab.att.form && !w.open_ then
      x.colPhase w (sameKeys ((numbered blocks).map fun b => (b.2, (x.chosen a b.1 (rows.getD b.1 [])).getD [])))
    else w
  let z := ab.slotSizes
  some { job := j, passes := w.passes.map fun f => f w.fills, fills := w.fills, closed := !w.open_
         place := fun o => match o with
           | .act => (ab.t2.aOff * 64, z.1, z.1, ab.t2.aDepth)
           | .wt _ => (ab.t2.wOff * 64, z.2.1, z.2.1, ab.t2.wDepth)
           | .out _ => (ab.t2.oOff * 64, z.2.2, z.2.2, ab.t2.oDepth)
           | .stream _ i => streamPlace epi (ab.epiBuffers epi) i
         areaOff := ab.t1.oOff * 64, areas := ab.t1.oDepth, slack := ab.t2.slack
         bufs := [(x.prob.base, slotSize x.pf true ab.probRows 1024)] }

end Sys2Proof.Machine
end

