-- ==== Sys2Proof/Machine/Rowwork.lean ====
section
/-! DEFINITION. Tile commands of the standalone vector commands (05 R128): runs of at most 64 rows, a posy's row in pieces of 1,024
elements, a fixed sequence in chunks of 128 (10 R276); and the tile commands of any work (04 R103). -/

namespace Sys2Proof.Machine

/-- Rows of a work that runs row by row; none for the others. -/
def Work.fixed? : Work → Option FixedSpec
  | .fold a b => some (foldSpec a b)
  | .clover q k hs f n kv => some (cloverSpec q k hs f n kv)
  | .transpose a b => some (transposeSpec a b)
  | .fill o v s => some (fillSpec o v s)
  | .noise o _ _ => some (noiseSpec o)
  | .wupd u => some (wupdSpec u)
  | _ => none

/-- A tile command whose only run goes over rows of its own. -/
def runOnly (j : TileJob) (r : RunSpec) (fills : List FillSpec) (place : Nat → Nat × Nat × Nat × Nat) : TileWork :=
  { job := j, passes := [{ run := some r }], fills := fills
    place := fun o => match o with | .stream _ i => place i | _ => (0, 0, 0, 1) }

/-- A run of rows of a fixed sequence (R128, R276). -/
def fixedWork (j : TileJob) (f : FixedSpec) (t : TileCmd) : TileWork :=
  let (r0, r1) := t.box.getD 0 (0, 1)
  runOnly j
    { prog := .fixed { f with rows := r1 - r0, ins := fun r => f.ins (r0 + r), go := fun we m r => f.go we m (r0 + r) }
      role := 3, rows := r1 - r0, span := fun _ => (0, f.cols), at_ := fun _ c => { col := c, row := 0, bat := 0 }, out := {}
      coord := fun _ c => [c, 0, 0, 0] } [] fun _ => (0, 0, 0, 1)

/-- Runs of a standalone posy (R128): each row goes piece by piece, each piece with buffers of its own (entry 91); `folded` is what
STATRD reads by index of the row's element, with the NaN of its fold, and `ins` where that comes from (R174). -/
def posyWork (j : TileJob) (p : Posy) (out : Tensor) (t : TileCmd) (folded : Option (WorkEnv → Mem → Nat × Nat × Nat → Nat → Nat → Word × Option NanSite))
    (ins : Nat × Nat × Nat → Nat → Nat → List (Nat × Nat)) : TileWork :=
  let (r0, r1) := t.box.getD 0 (0, 1)
  let ps := pieces out.e0
  let n := max 1 ps.length
  let row := fun r => out.rows.getD (r0 + r / n) (0, 0, 0)
  let piece := fun r => ps.getD (r % n) (0, 0)
  runOnly j
    { prog := .posy p, role := 3, rows := (r1 - r0) * n, span := piece, out := out, bufPass := id
      at_ := fun r c => let i := row r; { col := c, row := i.1, bat := i.2.1, d3 := i.2.2 }
      bufAt := fun q r c => bufferAt [row r] (piece r).1 q 0 c
      coord := fun r c => let i := row r; [c, i.1, i.2.1, i.2.2]
      store := fun m r vs => let i := row r; rowWrites m out (piece r).1 i.1 i.2.1 i.2.2 vs
      stat := fun r => p.stat.map fun q => (q.t, r % n)
      statRd := folded.map fun f we m r => f we m (row r), statIns := fun r => ins (row r) }
    ((List.range ((r1 - r0) * n)).flatMap fun r => streamFills 0 p [row r] (piece r).1 (piece r).2 r) fun i => streamPlace p (p.buffers 1 1 1024) i

/-- REDUCE ROWSTAT (R174): the finishing posy over rows of the factor tensor, the records of each element's row folded as it comes. -/
def rowstatWork (j : TileJob) (a b : Tensor) (kinds : List Nat) (p : Posy) (t : TileCmd) : TileWork :=
  posyWork j p b t (some fun we m i col slot => foldRecords we a m kinds col i.1 slot)
    fun i c n => (List.range n).flatMap fun l => a.runBytes 0 a.e0 (c + l) i.1 0

/-! ### Any work -/

/-- Boxes of the runs of at most 64 rows. -/
def runBoxes (n home : Nat) : List (Box × Nat) := (cuts 64 (0, n)).map fun r => ([r, (0, 1), (0, 1), (0, 1), (0, 1), (0, 1), (0, 1)], home)

/-- Tile commands of ATTEND (R187): sequences, then heads, then T2 tiles. -/
def attBoxes (ab : AttendBlock) (home : Nat) : List (Box × Nat) :=
  let heads := if ab.att.form then ab.att.group * ab.att.kvHeads else ab.att.kvHeads
  (List.range ab.q.e3).flatMap fun s => (List.range heads).flatMap fun h => (cuts ab.t2.tm (0, ab.q.e1)).map fun r =>
    ([r, (0, 1), (0, 1), (h, h + 1), (s, s + 1), (0, 1), (0, 1)], home)

/-- The tile commands of a work in dispatch order: box and home die; none when no core runs it (R103, R128, R187). -/
def Work.boxes (w : Work) (home : Nat) : List (Box × Nat) :=
  match w with
  | .matmul tb _ _ => tileBoxes tb.t3 tb.t2 home tb.full
  | .chain tb1 tb2 _ _ _ => tileBoxes tb2.t3 tb2.t2 home (chainFull2 tb1 tb2)
  | .attend ab _ => attBoxes ab home
  | .conv cb _ => tileBoxes cb.t3 cb.t2 home (cb.full cb.k)
  | .pool cb => tileBoxes cb.t3 cb.t2 home (cb.full 1)
  | .posy _ out => runBoxes out.rows.length home
  | .rowstat _ b _ _ => runBoxes b.rows.length home
  | w => match w.fixed? with | some f => runBoxes f.rows home | none => []

/-- The K part of a box (R107). -/
def Work.partOf (w : Work) (b : Box) : Nat :=
  match w with
  | .matmul tb _ _ => b.lo 2 / tb.t2.tk
  | .conv cb _ => b.lo 2 / cb.t2.tk
  | _ => 0

/-- How many tile commands a job has; those of a step list belong to its executions. -/
def Job.tiles (j : Job) : Nat :=
  match j with
  | .work w => (w.boxes 0).length
  | .steps _ => 0

/-- The work of a tile command on its core, as far as the core's running state fixes it. -/
def TileJob.tile (j : TileJob) (t : TileCmd) (a : AttSt) : Option TileWork :=
  match j.w with
  | .matmul tb epi pro => mmTile j tb epi pro t
  | .chain tb1 tb2 e1 e2 pro => chainTile j tb1 tb2 e1 e2 pro t
  | .attend ab epi => attWork j ab epi t a
  | .conv cb pro => convWork j cb pro t
  | .pool cb => poolWork j cb t
  | .posy p out => some (posyWork j p out t none fun _ _ _ => [])
  | .rowstat a b ks p => some (rowstatWork j a b ks p t)
  | w => w.fixed?.map fun f => fixedWork j f t

end Sys2Proof.Machine
end

