-- ==== Sys2Proof/Machine/Fill.lean ====
section
/-! DEFINITION. Slots of a core and of the die buffers (04 R103 to R106, R116 to R119): fills in their order, and how the lane rows
and the vector engine read what the slots hold. -/

namespace Sys2Proof.Machine

/-! ### The tile commands of a core -/

/-- Tile command `who` of core k with its work. -/
def State.workOf (s : State) (k who : Nat) : Option (TileCmd × TileWork) :=
  let y := s.core k
  match y.tile who with
  | none => none
  | some t =>
    match s.jobOf t.ctx t.uid t.exec with
    | none => none
    | some j => (j.tile t (if who = 0 then y.prevAtt else if who = 1 then y.att else {})).map fun w => (t, w)

/-- Tile command `who` of core k with its work, while its context may act and debug does not stop the core. -/
def State.tileOn (s : State) (k who : Nat) : Option (Core × TileCmd × TileWork) :=
  match s.workOf k who with
  | none => none
  | some (t, w) => if s.awake && (s.ctx t.ctx).runs && !(s.core k).dbgStop then some (s.core k, t, w) else none

/-- Is it the turn of a tile command's command. -/
def State.acts (s : State) (t : TileCmd) : Bool :=
  (numbered (s.ctx t.ctx).cmds).any fun e => e.2.uid == t.uid && (s.ctx t.ctx).inOrder e.1 e.2

/-- Tile command `who` of core k that may do more than fill slots: it is its command's turn too (R355). (DESIGN CHOICE, entry 36: ahead of its
command's turn a tile command only fills slots.) -/
def State.onCore (s : State) (k who : Nat) : Option (Core × TileCmd × TileWork) :=
  match s.tileOn k who with
  | none => none
  | some x => if s.acts x.2.1 then some x else none

/-- Counter j of core k (Table 18.1). -/
def State.coreCount (s : State) (k j n : Nat) : State := s.count (12 * k + j) n

/-! ### Slots -/

/-- The slot of fill j. -/
def Core.slotOf (y : Core) (who j : Nat) : Option Slot := y.slots.find? fun q => q.who == who && q.fill == j && match q.operand with | .out _ => false | _ => true

/-- May a consumer read a slot (R116). -/
def Slot.readable (q : Slot) : Bool := q.st == .full || q.st == .inUse

/-- Is fill j there to be read. -/
def Core.holdsFill (y : Core) (who j : Nat) : Bool := match y.slotOf who j with | some q => q.readable | none => false

/-- A slot takes another state. -/
def Core.markFill (y : Core) (who j : Nat) (st : SlotSt) : Core :=
  { y with slots := y.slots.map fun q => if q.who == who && q.fill == j && (match q.operand with | .out _ => false | _ => true) then { q with st := st } else q }

/-- Slots that return to FREE. -/
def Core.dropSlots (y : Core) (f : Slot → Bool) : Core := { y with slots := y.slots.filter fun q => !f q }

/-- The slot of fill j as a tensor in core memory. -/
def Core.fillTensor (y : Core) (w : TileWork) (who j : Nat) : Option Tensor :=
  match y.slotOf who j, w.fills[j]? with
  | some q, some f => some (f.region.tensor true q.off)
  | _, _ => none

/-- What a ring counts: a command, or an execution of a list. -/
def TileCmd.ringKey (t : TileCmd) : Nat × Nat × Option Nat := (t.ctx, t.uid, t.exec)

/-- Fills of an operand that a command's tile commands have made on this core so far (R106). -/
def Core.ringAt (y : Core) (t : TileCmd) (o : Operand) : Nat :=
  ((y.rings.find? fun r => r.1 == t.ringKey && r.2.1 == o).map fun r => r.2.2).getD 0

def Core.ringOn (y : Core) (t : TileCmd) (o : Operand) : Core :=
  { y with rings := (t.ringKey, o, y.ringAt t o + 1) :: y.rings.filter fun r => !(r.1 == t.ringKey && r.2.1 == o) }

/-- Offset and size of the next slot of an operand (R106). -/
def Core.nextSlot (y : Core) (t : TileCmd) (w : TileWork) (o : Operand) : Nat × Nat :=
  let p := w.place o
  (p.1 + y.ringAt t o % max 1 p.2.2.2 * p.2.2.1, p.2.1)

/-- Do some bytes of core memory lie in a slot that is not FREE, in a result area in use, or in a buffer that an earlier tile command
keeps (R117). -/
def Core.busy (y : Core) (held : List (Nat × Nat)) (off size : Nat) : Bool :=
  y.slots.any (fun q => overlap q.off q.size off size) || y.areas.any (fun a => overlap a.1 262144 off size) || held.any fun b => overlap b.1 b.2 off size

/-- The buffers that tile commands before `who` keep. -/
def State.heldBufs (s : State) (k who : Nat) : List (Nat × Nat) :=
  (List.range who).flatMap fun v => match s.workOf k v with | some (_, w) => w.bufs | none => []

/-! ### T3 slots -/

/-- Does a T3 slot's part serve some tile command of its job that is still to be placed or has fills left (R103, R116). -/
def State.bufNeeded (s : State) (c : Nat) (b : BufSlot) : Bool :=
  match s.jobOf c b.uid b.exec with
  | none => false
  | some j =>
    let uses := fun (t : TileCmd) (from_ : Nat) => match j.tile t {} with
      | some w => (w.fills.drop from_).any fun f => f.operand == b.operand && t.home == b.die && match f.buf with | some x => x.1 == b.fill | none => false
      | none => false
    let left := match b.exec with
      | none => j.m.unplaced
      | some e => ((j.m.steps.tiles.find? fun (x : Nat × List Nat × Nat) => x.1 == e).map fun (x : Nat × List Nat × Nat) => x.2.1).getD []
    left.any (fun n => match (j.w.boxes (s.ctx c).homeDie)[n]? with
      | some x => uses { ctx := c, uid := b.uid, exec := b.exec, num := n, box := x.1, part := 0, home := x.2, regions := [] } 0
      | none => false) ||
    s.cores.any fun y =>
      let mine := fun (t : TileCmd) => t.ctx == c && t.uid == b.uid && t.exec == b.exec
      (match y.run with | some t => mine t && uses t y.nextFill | none => false) || (match y.wait with | some t => mine t && uses t y.aheadFill | none => false)

/-- Memory as a core's own die reads it for a job: pinned ranges of a list come from that die's copies (R250). -/
def State.viewFor (s : State) (j : TileJob) (die : Nat) : Mem :=
  match j.x, j.m.list? with
  | some _, some l => if j.m.steps.pinned then l.overlay die (s.dieBuf.getD die {}) s.mem else s.mem
  | _, _ => s.mem

/-- Units that a read of a job by a die comes from are corrected or poisoned first, in device memory and in the die's pins (R287). -/
def State.settleFor (s : State) (j : TileJob) (die : Nat) (rs : List (Nat × Nat)) : State :=
  let s := s.settle rs
  match j.x, j.m.list? with
  | some _, some l => if j.m.steps.pinned then s.settleIn (.dieBuf die) (l.pinReads die rs) none else s
  | _, _ => s

/-- The T3 slot of a fill is filled, unless it holds the part already; none while a part that stands there is still needed (R103, R117). -/
def State.t3Fill (s : State) (t : TileCmd) (j : TileJob) (f : FillSpec) : Option State :=
  match f.buf with
  | none => some s
  | some (n, region, off, size, depth) =>
    let b : BufSlot := { uid := t.uid, exec := t.exec, operand := f.operand, fill := n, die := t.home, off := off + n % depth * size, size := size }
    let x := s.ctx t.ctx
    if x.bufSlots.contains b then some s
    else
      let old := x.bufSlots.filter fun z => z.die == b.die && overlap z.off z.size b.off b.size
      if old.any (s.bufNeeded t.ctx) then none
      else
        let s := s.settleFor j t.home region.bytes
        let view := s.viewFor j t.home
        let total := region.bytes.foldl (fun n r => n + r.2) 0
        let s := (s.carryFrom region.bytes t.home).dieFerry t.home total
        let s := s.fillRegion (.die t.home) view region b.off
        let x := s.ctx t.ctx
        some ((s.count (4704 + 4 * t.home + 1) total).setCtx t.ctx { x with bufSlots := b :: x.bufSlots.filter fun z => !old.contains z })

/-- A part of a region as it stands in the T3 slot that holds it. -/
def Part.inSlot (p : Part) (r : Region) (z : Tensor) : Part :=
  let hit := (numbered r.rows).findSome? fun row =>
    (row.2.foldl (fun (acc : Option (Nat × Nat) × Nat) q =>
      (acc.1 <|> (if q.t == p.t && q.i1 == p.i1 && q.i2 == p.i2 && q.i3 == p.i3 && decide (q.c0 ≤ p.c0) && decide (p.c0 < q.c0 + max 1 q.n)
        then some (row.1, acc.2 + (p.c0 - q.c0)) else none), acc.2 + q.w)) (none, 0)).1
  match hit with
  | some (i, c) => if p.t.inside 0 p.i1 p.i2 p.i3 then { p with t := z, i1 := i, i2 := 0, i3 := 0, c0 := c } else p
  | none => p

/-! ### Fills -/

/-- May a fill be made now (R354): ahead of its command's turn only from device memory itself, and of nothing in the write set of an
earlier command. -/
def State.mayFill (s : State) (t : TileCmd) (f : FillSpec) : Bool :=
  let x := s.ctx t.ctx
  s.acts t || (numbered x.cmds).any fun e => e.2.uid == t.uid && x.ahead e.1 e.2 && f.buf.isNone && x.clearOf e.1 e.2 f.region.bytes

/-- The next fill of core ferry 0: of the running tile command, or ahead for the waiting one once the running one has them all (R104,
R106). -/
def State.fillNext (s : State) (k : Nat) : Option (Nat × Nat × TileCmd × TileWork × FillSpec) :=
  let y := s.core k
  let at_ := fun who n => match s.tileOn k who with
    | some (_, t, w) => (w.fills[n]?).bind fun f => if s.mayFill t f then some (who, n, t, w, f) else none
    | none => none
  match s.workOf k 1 with
  | some (_, w) => if y.nextFill < w.fills.length then at_ 1 y.nextFill else if w.closed then at_ 2 y.aheadFill else none
  | none => none

/-- A fill is copied into its slot (R119): through the T3 slot of its die, or from device memory by a die ferry (Table 4.8). -/
def State.fillSlot (s : State) (k : Nat) (t : TileCmd) (w : TileWork) (f : FillSpec) (off : Nat) : State :=
  let total := f.region.bytes.foldl (fun n r => n + r.2) 0
  match f.buf with
  | some (n, region, boff, size, depth) =>
    let z := region.tensor false (boff + n % depth * size)
    let r := { f.region with rows := f.region.rows.map fun ps => ps.map fun p => p.inSlot region z }
    let s := s.settleIn (.dieBuf t.home) r.bytes none
    let s := (s.carry t.home (k / 64) total).count (4704 + 4 * t.home) total
    let s := (s.count (3072 + 6 * k) total).count (3072 + 6 * k + 1) (cdiv total 64)
    s.fillRegion (.core k) (s.dieBuf.getD t.home {}) r off
  | none =>
    let s := s.settleFor w.job (k / 64) f.region.bytes
    let s := (s.carryFrom f.region.bytes (k / 64)).dieFerry (k / 64) total
    s.fillRegion (.core k) (s.viewFor w.job (k / 64)) f.region off

/-- The running tile command drains once it has issued everything and has all its fills; the waiting one then runs (R62, R70, R104, R238). -/
def Core.turnOver (y : Core) (w : TileWork) : Core :=
  if y.prev.isNone && w.closed && decide (w.passes.length ≤ y.pos.pass) && decide (w.fills.length ≤ y.nextFill) then y.retire.promote else y

/-- FERRY_FILL_DONE (R116, R119, R126): the core's next fill, number j of its tile command, is copied; its slot is FULL, or waits for
a prologue run. -/
def execFerryFillDone (k j : Nat) (s : State) : Host.Outcome State Fault Refusal :=
  .next (
    match s.fillNext k with
    | none => s
    | some (who, n, t, w, f) =>
      let (off, size) := (s.core k).nextSlot t w f.operand
      if j != n || (s.core k).busy (s.heldBufs k who) off size then s
      else match s.t3Fill t w.job f with
        | none => s
        | some s =>
          let s := s.fillSlot k t w f off
          let y := (s.core k).ringOn t f.operand
          let q : Slot := { who := who, operand := f.operand, fill := n, off := off, size := size, st := if f.pro.isSome then .filling else .full }
          let y := { y with slots := y.slots ++ [q], nextFill := if who = 1 then n + 1 else y.nextFill, aheadFill := if who = 1 then y.aheadFill else n + 1 }
          let run : Run := { who := who, role := 1, pass := n }
          let y := if f.pro.isSome then { y with veng := { y.veng with queue := y.veng.queue ++ [run] } } else y
          s.setCore k (if who = 1 then y.turnOver w else y))

/-! ### What the lane rows read -/

/-- Element and scale codes of an operand element, as core memory holds them. -/
def Core.readRef (y : Core) (w : TileWork) (who : Nat) : Ref → Nat × Nat
  | .fill j k row => match y.fillTensor w who j with | some t => t.raw y.mem k row 0 0 | none => (0, 127)
  | .pad j k row code => (code, match y.fillTensor w who j with | some t => (t.raw y.mem k row 0 0).2 | none => 127)
  | .bound j k row neg =>
    match y.fillTensor w who j with
    | some t =>
      let v := toF32 (t.val y.mem k row 0 0)
      (encodeElem .bf16 (f32 (if neg then fmin v f32NegZero else fmax v f32Zero)), 127)
    | none => (0, 127)
  | .buf t k row => t.raw y.mem k row 0 0
  | .const c sc => (c, sc)

/-- Bytes of core memory that an operand element comes from. -/
def Core.refBytes (y : Core) (w : TileWork) (who : Nat) : Ref → List (Nat × Nat)
  | .fill j k row => match y.fillTensor w who j with | some t => t.elemBytes k row | none => []
  | .pad j k row _ => match y.fillTensor w who j with | some t => (t.elemBytes k row).drop 1 | none => []
  | .bound j k row _ => match y.fillTensor w who j with | some t => t.elemBytes k row | none => []
  | .buf t k row => t.elemBytes k row
  | .const _ _ => []

/-- Words of core memory that operand elements come from are corrected or poisoned as they are read (R286, R291). -/
def State.settleRefs (s : State) (k : Nat) (w : TileWork) (who : Nat) (rs : List Ref) (victim : Nat) : State :=
  s.settleIn (.core k) (rs.flatMap ((s.core k).refBytes w who)) (some victim)

/-- Does any of some operand elements hold poison (R294). -/
def Core.badRefs (y : Core) (w : TileWork) (who : Nat) (rs : List Ref) : Bool :=
  rs.any fun r => (y.refBytes w who r).any fun b => y.mem.poisoned 32 b.1 b.2

end Sys2Proof.Machine
end

