-- ==== Sys2Proof/Machine/CoreStep.lean ====
section
/-! DEFINITION. The matrix unit of a core: the weight port (03 R61 to R64), issue and ramp (03 R65, R66, R77 to R82), accumulators (03
R67, R72, 02 R50), result rows (03 R69), late data (04 R118, 14 R394), parity (03 R91). -/

namespace Sys2Proof.Machine

/-! ### The weight port -/

/-- The matrix part of pass i. -/
def TileWork.mat (w : TileWork) (i : Nat) : Option MatPart := (w.passes[i]?).bind fun p => p.mat

/-- The first pass with a matrix part from i on. -/
def TileWork.matFrom (w : TileWork) (i : Nat) : Option (Nat × MatPart) :=
  ((numbered w.passes).drop i).findSome? fun p => p.2.mat.map fun m => (p.1, m)

/-- The mark of a pass of a tile command in a bank. -/
def TileCmd.tag (t : TileCmd) (pass : Nat) : Nat × Option Nat × Nat × Nat := (t.uid, t.exec, t.num, pass)

/-- The bank of segment 0 when the resident entries serve a pass of 64 groups or fewer (R63). -/
def Core.reuses (y : Core) (c : Nat) (p : MatPart) : Option Nat :=
  let holds := fun b seg => let x := y.banks.getD b {}; x.owner == some c && p.key.isSome && x.key == p.key && x.resident && x.seg == seg
  if 64 < p.groups then none
  else [0, 1].find? fun b => holds b 0 && (p.segs != 2 || holds (1 - b) 1)

/-- The bank that holds segment 0 of pass i: where its own load went, else where the resident entries are, else the place of its turn. -/
def Core.baseOf (y : Core) (t : TileCmd) (i : Nat) (p : MatPart) (turn : Nat) : Nat :=
  let own := [0, 1].find? fun b => let x := y.banks.getD b {}; x.owner == some t.ctx && x.tag == some (t.tag i) && x.seg == 0
  (own <|> y.reuses t.ctx p).getD turn

/-- Is segment b of pass i in its bank. -/
def Core.loaded (y : Core) (t : TileCmd) (i : Nat) (p : MatPart) (base b : Nat) : Bool :=
  let x := y.banks.getD ((base + b) % 2) {}
  x.owner == some t.ctx && x.seg == b && (x.tag == some (t.tag i) || (y.reuses t.ctx p == some base))

/-- The bank of segment 0 of the pass at the issue position. -/
def Core.baseNow (y : Core) (t : TileCmd) (p : MatPart) : Nat :=
  if y.pos.seg = 0 && y.pos.entry = 0 && y.pos.row = 0 then y.baseOf t y.pos.pass p y.pos.base else y.pos.base

/-- A bank has groups in flight (R62). -/
def Core.bankBusy (y : Core) (b : Nat) : Bool := y.pipe.any fun i => i.factor.isNone && i.bank == b

/-- A load of the weight port: tile command, its number on the core and its work, pass, segment, bank. -/
structure Load where
  who : Nat
  t : TileCmd
  w : TileWork
  pass : Nat
  p : MatPart
  seg : Nat
  bank : Nat

/-- Segment 0 of a later pass, unless it is there or needs no load. -/
def Core.firstLoad (y : Core) (who : Nat) (t : TileCmd) (w : TileWork) (i bank : Nat) : Option Load :=
  match w.matFrom i with
  | some (j, p) => if y.loaded t j p (y.baseOf t j p bank) 0 then none else some { who := who, t := t, w := w, pass := j, p := p, seg := 0, bank := bank }
  | none => none

/-- The next load of the weight port (R61, R62): the segment at the issue position, the next one once that begins to issue, and the
first of the next pass queued on the core once the last one does. -/
def State.nextLoad (s : State) (k : Nat) : Option Load :=
  match s.onCore k 1 with
  | none => none
  | some (y, t, w) =>
    let ahead := fun bank => match s.onCore k 2 with | some (y, t, w) => y.firstLoad 2 t w 0 bank | none => none
    match w.mat y.pos.pass with
    | none => if y.pos.pass < w.passes.length then y.firstLoad 1 t w y.pos.pass (y.pos.base % 2) else if w.closed then ahead (y.pos.base % 2) else none
    | some p =>
      let base := y.baseNow t p
      let at_ := fun b => ({ who := 1, t := t, w := w, pass := y.pos.pass, p := p, seg := b, bank := (base + b) % 2 } : Load)
      let begun := y.pos.entry != 0 || y.pos.row != 0
      if !y.loaded t y.pos.pass p base y.pos.seg then some (at_ y.pos.seg)
      else if !begun then none
      else if y.pos.seg + 1 < p.segs then (if y.loaded t y.pos.pass p base (y.pos.seg + 1) then none else some (at_ (y.pos.seg + 1)))
      else
        let bank := (base + p.segs) % 2
        match w.matFrom (y.pos.pass + 1) with
        | some _ => y.firstLoad 1 t w (y.pos.pass + 1) bank
        | none => if w.closed then ahead bank else none

/-- The weights of entry e of segment b in lane l: a lane without a column holds PAD codes (R58). -/
def MatPart.entryRefs (p : MatPart) (b e l : Nat) : List Ref :=
  (List.range p.mode.g).map fun j => if l < p.cols then p.wt l (p.k0 + (32 * b + e) * p.mode.g + j) else .const p.wpad 127

/-- Element and scale fields of the entries of a segment for every lane (R55, R58 to R60). -/
def Core.segmentFields (y : Core) (x : Load) : List (Nat × Nat) × List (Nat × Nat) :=
  let width := x.p.fw.core.elem.width
  (List.range 1024).foldl (fun (acc : List (Nat × Nat) × List (Nat × Nat)) l =>
    (List.range (x.p.entries x.seg)).foldl (fun acc e =>
      let cs := (x.p.entryRefs x.seg e l).map (y.readRef x.w x.who)
      (Cells.set 0 (32 * l + e) (packCodes width (cs.map fun c => c.1)) acc.1, Cells.set 0 (32 * l + e) ((cs.map fun c => c.2).getD 0 127) acc.2)) acc) ([], [])

/-- May the weights of a load be read: their slot is there, or the buffer that holds them is complete (R118, R200). -/
def Core.loadReady (y : Core) (x : Load) : Bool :=
  (match x.p.wtFill x.seg with | some j => y.holdsFill x.who j | none => true) && (x.p.wtNeeds == 0 || (x.who == 1 && decide (x.p.wtNeeds ≤ y.stored)))

/-- Slots after a load: a slot that its last pass has loaded is FREE, else it is IN USE (R116). -/
def Core.afterLoad (y : Core) (x : Load) : Core :=
  match x.p.wtFill x.seg with
  | none => y
  | some j =>
    match x.w.fills[j]? with
    | none => y
    | some f =>
      if f.once || (decide (f.last ≤ x.pass) && (f.seg.isSome || x.seg + 1 == x.p.segs)) then y.dropSlots fun q => q.who == x.who && q.fill == j && q.operand == f.operand
      else y.markFill x.who j .inUse

/-- WEIGHT_LOAD_DONE (R61 to R64): the next segment is in its bank; poison among its weights faults its context (R294). -/
def execWeightLoadDone (k : Nat) (s : State) : Host.Outcome State Fault Refusal :=
  .next (
    match s.nextLoad k with
    | none => s
    | some x =>
      if !(s.core k).loadReady x || (s.core k).bankBusy x.bank then s
      else
        let refs := (List.range x.p.cols).flatMap fun l => (List.range (x.p.entries x.seg)).flatMap fun e => x.p.entryRefs x.seg e l
        let s := s.settleRefs k x.w x.who refs x.t.ctx
        let y := s.core k
        if y.badRefs x.w x.who refs then s.faultCtx x.t.ctx 0x310 (some x.t.uid)
        else
          let f := y.segmentFields x
          let bank : Bank := { owner := some x.t.ctx, key := x.p.key, tag := some (x.t.tag x.pass), resident := true, seg := x.seg
                               n := x.p.entries x.seg, elems := f.1, scales := f.2 }
          let o := y.banks.getD (1 - x.bank) {}
          let o := if o.key = x.p.key then o else { o with resident := false }
          let y := { y with banks := if x.bank = 0 then [bank, o] else [o, bank] }
          ((s.setCore k (y.afterLoad x)).coreCount k 4 1).coreCount k 5 (16 + 32 * x.p.entries x.seg))

/-! ### Issue -/

/-- Ramp length and hold limit of a die in core cycles (Table 3.3). -/
def State.rampLen (s : State) (die : Nat) : Nat :=
  match (s.cfg.mu.getD die 0).toNat % 4 with
  | 0 => 48
  | 1 => 24
  | 2 => 96
  | _ => 0
def State.holdLimit (s : State) (die : Nat) : Nat :=
  match bits (s.cfg.mu.getD die 0).toNat 3 2 with
  | 0 => 256
  | 1 => 64
  | 2 => 1024
  | _ => 0

/-- The density in quarters that a die's cap allows: 4 is full (R81, R425). -/
def State.topPhase (s : State) (die : Nat) : Nat := 4 - s.capOf die

/-- A slot of the pattern of R78. -/
def isSlot (p c : Nat) : Bool := decide (c % 4 < p)

/-- Why nothing can issue: no group left, a bank load, a late operand, an epilogue that has not stored, no free result area, or the
spacing of R73. -/
inductive Stall where
  | idle | bank | late | store | area | spacing
  deriving DecidableEq, Repr

/-- The result area that the pass at the issue position writes: its own, or a free one that no other tile command's bytes meet (R70, R117). -/
def Core.passArea (y : Core) (w : TileWork) (held : List (Nat × Nat)) : Option Nat :=
  match y.area with
  | some a => some a
  | none => (List.range w.areas).find? fun a =>
      let off := w.areaOff + 262144 * a
      !(y.areas.any fun z => overlap z.1 262144 off 262144) && !(y.slots.any fun q => q.who != 1 && overlap q.off q.size off 262144) &&
        !held.any fun b => overlap b.1 b.2 off 262144

/-- What stands in the way of the next issue (R62, R70, R73, R118, R227). -/
def Core.stall (y : Core) (t : TileCmd) (w : TileWork) (held : List (Nat × Nat)) : Option Stall :=
  match y.scales with
  | (r, _) :: _ => if y.pipe.any fun i => i.row == r then some .spacing else none
  | [] =>
    match w.mat y.pos.pass with
    | none => some .idle
    | some p =>
      if !y.loaded t y.pos.pass p (y.baseNow t p) y.pos.seg then some .bank
      else if (match p.actFill y.pos.seg with | some j => !y.holdsFill 1 j | none => false) then some .late
      else if y.stored < p.needs (32 * y.pos.seg + y.pos.entry) then some .store
      else if p.copies && (y.passArea w held).isNone then some .area
      else none

/-- A pass begins: it takes its result area, resident entries serve it, and its accumulators hold their start value where no earlier
group or copy is pending (R63, R65, R70). -/
def Core.open (y : Core) (t : TileCmd) (w : TileWork) (p : MatPart) (held : List (Nat × Nat)) : Core :=
  if y.pos.seg != 0 || y.pos.entry != 0 || y.pos.row != 0 then y
  else
    let base := y.baseNow t p
    let own := fun (b : Bank) => if b.owner = some t.ctx ∧ b.key = p.key ∧ p.key.isSome then { b with tag := some (t.tag y.pos.pass) } else b
    let area := if p.copies then y.passArea w held else none
    let off := fun a => w.areaOff + 262144 * a
    let rows := if p.starts then (List.range p.rows.length).map fun r => p.base + r else []
    let free := rows.filter fun r => !(y.pipe.any fun i => i.row == r) && !(y.final.any fun f => f.row == r)
    { y with
      banks := if (y.reuses t.ctx p).isSome then y.banks.map own else y.banks
      pos := { y.pos with base := base }
      area := area
      areas := (match area with | some a => if y.areas.contains (off a, 1) then y.areas else y.areas ++ [(off a, 1)] | none => y.areas)
      acc := free.foldl (fun l r => (List.range 1024).foldl (fun l n => Cells.set 0 (64 * n + r) p.mode.start l) l) y.acc }

/-- The position after an entry or an issue slot (R66); the pass's end. -/
def IssuePos.nextEntry (x : IssuePos) (p : MatPart) : IssuePos × Bool :=
  if x.entry + 1 < p.entries x.seg then ({ x with entry := x.entry + 1, row := 0 }, false)
  else if x.seg + 1 < p.segs then ({ x with seg := x.seg + 1, entry := 0, row := 0 }, false)
  else ({ pass := x.pass + 1, base := (x.base + p.segs) % 2 }, true)
def IssuePos.advance (x : IssuePos) (p : MatPart) : IssuePos × Bool :=
  if x.row + 1 < max p.rows.length 8 then ({ x with row := x.row + 1 }, false) else x.nextEntry p

/-- A pass's issue is over: its area is no longer the issuing pass's, slots that no later pass reads are FREE (R116). -/
def Core.passOver (y : Core) (w : TileWork) : Core :=
  { y with area := none }.dropSlots fun q => q.who == 1 &&
    match w.fills[q.fill]? with
    | some f => decide (f.last < y.pos.pass) && f.operand == q.operand && (match f.operand with | .act => true | .wt _ => true | _ => false)
    | none => false

/-- The group of row r of the entry at the issue position. -/
def Core.groupAt (y : Core) (w : TileWork) (p : MatPart) (r : Nat) (inject : Option Nat) (pruned : Bool) : Issued :=
  let x := y.pos
  let kk := p.k0 + (32 * x.seg + x.entry) * p.mode.g
  let cs := (List.range p.mode.g).map fun j => y.readRef w 1 (p.act r (kk + j))
  { who := 1, age := if pruned then 8 else 0, row := p.base + r, bank := (x.base + x.seg) % 2, entry := x.entry, chunk := cs.map fun c => c.1
    scale := (cs.map fun c => c.2).getD 0 127, kIndex := kk, factor := none, inject := inject, mode := p.mode, fa := p.fa, fw := p.fw, cols := p.cols
    lane := p.rows.getD r { base := [0, 0, 0, 0] }, first := p.starts && x.seg == 0 && x.entry == 0, pruned := pruned
    final := if p.copies && x.seg + 1 == p.segs && x.entry + 1 == p.entries x.seg then some (r, x.pass, y.area.getD 0) else none }

/-- Entries of pruned taps from the issue position on, within their segment: they take no slot (R222, R223). -/
def Core.skip (w : TileWork) (p : MatPart) : Nat → Core → Core
  | 0, y => y
  | n + 1, y =>
    if y.pos.row != 0 || !p.pruned (32 * y.pos.seg + y.pos.entry) then y
    else
      let (pos, over_) := y.pos.nextEntry p
      let z := { y with pipe := y.pipe ++ (List.range p.rows.length).map fun r => y.groupAt w p r none true, pos := pos }
      if over_ then z.passOver w else if pos.seg != y.pos.seg then z else Core.skip w p n z

/-- The core as its next issue finds it: a pass that can begin has begun, and pruned entries are behind it. -/
def Core.prepared (y : Core) (t : TileCmd) (w : TileWork) (held : List (Nat × Nat)) : Core :=
  match w.mat y.pos.pass with
  | some p => if y.scales.isEmpty && (y.stall t w held).isNone then (y.open t w p held).skip w p 32 else y
  | none => y

/-- A NaN injection armed for a lane of core k takes effect at a floating-point group (R476). -/
def State.injects (s : State) (k : Nat) (m : Mode) : Option Nat :=
  let v := s.dbg.nan.toNat
  if s.dbg.tstEn && s.dbg.nanArmed && !m.isInt && bits v 18 11 == k then some (bits v 10 9 * 256 + bits v 8 1) else none

/-- A real group counts against a debug step; after the last the core stops (R469). -/
def Core.stepped (y : Core) : Core :=
  match y.stepLeft with
  | none => y
  | some n => if n ≤ 1 then { y with dbgStop := true, stepLeft := none } else { y with stepLeft := some (n - 1) }

/-- The context is stopped again once each of its cores is (R469). -/
def State.stepEnded (s : State) (c : Nat) : State :=
  if s.cores.any fun (y : Core) => y.runsFor c && !y.dbgStop then s
  else (s.setCtx c { (s.ctx c).pauseSlice s.now with dbgStopped := true }).debugMsg c true

/-- The core after a slot that the debug step counts. -/
def State.afterStep (s : State) (k c : Nat) : State := if (s.core k).dbgStop then s.stepEnded c else s

/-- One issue slot is used: an ACCSCALE that waits (R73), or the next slot of R66, a keeper beyond the pass's rows (R77). Poison in a
group's operands faults its context (R294). -/
def State.issue (s : State) (k : Nat) (y : Core) (t : TileCmd) (w : TileWork) (par : Bool) : State :=
  match y.scales with
  | (r, f) :: rest =>
    let i : Issued := { who := 1, age := 0, row := r, bank := 0, entry := 0, chunk := [], scale := 127, kIndex := 0xFFFFFFFF, factor := some f, inject := none
                        mode := .half, fa := bf16Fmt, fw := bf16Fmt, cols := ((w.mat y.pos.pass).map fun p => p.cols).getD 1024
                        lane := ((w.mat y.pos.pass).map fun p => p.rows.getD (r - p.base) { base := [0, 0, 0, 0] }).getD { base := [0, 0, 0, 0] }
                        first := false, final := none }
    ((s.setCore k { y with pipe := y.pipe ++ [i], scales := rest }.stepped).coreCount k 3 1).afterStep k t.ctx
  | [] =>
    match w.mat y.pos.pass with
    | none => s
    | some p =>
      let x := y.pos
      let (pos, over_) := x.advance p
      let z := match p.actFill x.seg with | some j => y.markFill 1 j .inUse | none => y
      let done := fun (z : Core) => if over_ then ({ z with pos := pos }.passOver w).turnOver w else { z with pos := pos }
      if x.row < p.rows.length then
        let refs := (List.range p.mode.g).map fun j => p.act x.row (p.k0 + (32 * x.seg + x.entry) * p.mode.g + j)
        let s := s.settleRefs k w 1 refs t.ctx
        let y := { y with mem := (s.core k).mem }
        let z := { z with mem := y.mem }
        if par then s.drawn.parityFault k t.ctx t.uid 0x311 4 (64 * (Config.freeNat s.free % 1024))
        else if y.badRefs w 1 refs then s.faultCtx t.ctx 0x310 (some t.uid)
        else
          let inj := s.injects k p.mode
          let s := if inj.isSome then { s with dbg := { s.dbg with nanArmed := false } } else s
          ((s.setCore k (done { z with pipe := z.pipe ++ [y.groupAt w p x.row inj false] }).stepped).coreCount k 0 1).afterStep k t.ctx
      else (s.setCore k (done z)).coreCount k 1 1

/-- Ages of the groups in flight, one core cycle later. -/
def Core.aged (y : Core) : Core := { y with pipe := y.pipe.map fun i => { i with age := i.age + 1 } }

/-! ### The ramp (R78 to R81) -/

/-- What a core cycle is: an issue slot that carries work, a slot that carries a keeper, or neither. -/
inductive Cycle where
  | work | keeper | gap
  deriving DecidableEq, Repr

/-- Where the ramp-up ends: full density, or the density of the cap (R81). -/
def rampTop (top : Nat) : Ramp := if 4 ≤ top then .full else .capped top 0

/-- A slot without work goes into the hold, or with a hold limit of 0 begins the ramp-down in this cycle (R79). -/
def rampIdle (len hold top : Nat) (slot : Bool) : Ramp × Cycle :=
  if 0 < hold then (.hold 1, if slot then .keeper else .gap)
  else if len = 0 ∨ top ≤ 1 then (.stopped, .gap)
  else (.down (top - 1) 1, if isSlot (top - 1) 0 then .keeper else .gap)

/-- One core cycle of the matrix unit (R78 to R81): the ramp after it and what it carries; none when a phase or the hold is over,
which another row ends. -/
def rampCycle (r : Ramp) (len hold top : Nat) (work : Bool) : Option (Ramp × Cycle) :=
  match r with
  | .stopped =>
    if !work then some (.stopped, .gap)
    else if len = 0 ∧ 4 ≤ top then some (.full, .work)
    else if len = 0 ∨ top ≤ 1 then some (.capped top 1, .work)
    else some (.up 1 1, .work)
  | .up p c =>
    if len / 3 ≤ c then none
    else if !isSlot p c then some (.up p (c + 1), .gap)
    else if work then some (.up p (c + 1), .work)
    else some (rampIdle len hold top true)
  | .full => if top < 4 then none else if work then some (.full, .work) else some (rampIdle len hold top true)
  | .capped p c =>
    if p ≠ top then none
    else if !isSlot p c then some (.capped p ((c + 1) % 4), .gap)
    else if work then some (.capped p ((c + 1) % 4), .work)
    else some (rampIdle len hold top true)
  | .hold c =>
    if work then some (if 4 ≤ top then (.full, .work) else (.capped top 1, .work))
    else if hold ≤ c then none
    else some (.hold (c + 1), if 4 ≤ top || isSlot top c then .keeper else .gap)
  | .down p c =>
    if len / 3 ≤ c then none
    else if work then some (.up p (c + 1), if isSlot p c then .work else .gap)
    else some (.down p (c + 1), if isSlot p c then .keeper else .gap)

/-- The next phase of a unit at density p on its way to the density of the cap (R78, R81). -/
def rampToward (p top : Nat) : Ramp :=
  let q := if p < top then p + 1 else p - 1
  if p = top ∨ q = top then rampTop top else .up q 0

/-- MATRIX_ISSUE (R66, R78 to R80): one core cycle. A group that is due must be in its accumulator first (R67); without a tile command
that may act, or while debug stops it, the unit has no issuable work (R79, R87). -/
def execMatrixIssue (k : Nat) (par : Bool) (s : State) : Host.Outcome State Fault Refusal :=
  .next (
    let die := k / 64
    let held := s.heldBufs k 1
    let found := (s.onCore k 1).map fun x => (x.1.prepared x.2.1 x.2.2 held, x.2.1, x.2.2)
    let y := match found with | some (y, _, _) => y | none => s.core k
    let stall := match found with | some (y, t, w) => y.stall t w held | none => some .idle
    if !s.up || 256 ≤ k || ((s.core k).pipe.head?.elim false fun i => decide (8 ≤ i.age)) then s
    else match rampCycle y.ramp (s.rampLen die) (s.holdLimit die) (s.topPhase die) stall.isNone with
      | none => s
      | some (r, cycle) =>
        let z := { y.aged with ramp := r }
        let s := match r with | .up _ _ => s.coreCount k 2 1 | .down _ _ => s.coreCount k 2 1 | _ => s
        let s := match stall with | some .late => s.coreCount k 6 1 | some .bank => s.coreCount k 6 1 | some .area => s.coreCount k 7 1 | _ => s
        match cycle, found with
        | .work, some (_, t, w) => s.issue k z t w par
        | .keeper, _ => (s.setCore k z).coreCount k 1 1
        | _, _ => s.setCore k z)

/-- Has core k issuable work (R79). -/
def State.issuable (s : State) (k : Nat) : Bool :=
  match s.onCore k 1 with
  | some (y, t, w) => let held := s.heldBufs k 1; ((y.prepared t w held).stall t w held).isNone
  | none => false

/-- HOLD_EXPIRY (R79): the hold limit is over with no issuable work. -/
def execHoldExpiry (k : Nat) (s : State) : Host.Outcome State Fault Refusal :=
  .next (
    let y := s.core k
    let die := k / 64
    match y.ramp with
    | .hold c =>
      if c < s.holdLimit die || s.issuable k then s
      else s.setCore k { y with ramp := if s.rampLen die = 0 ∨ s.topPhase die ≤ 1 then .stopped else .down (s.topPhase die - 1) 0 }
    | _ => s)

/-- RAMP_PHASE_END (R78, R80, R81): the density moves to the next phase; a new cap moves it phase by phase. -/
def execRampPhaseEnd (k : Nat) (s : State) : Host.Outcome State Fault Refusal :=
  .next (
    let y := s.core k
    let len := s.rampLen (k / 64)
    let top := s.topPhase (k / 64)
    let go := fun p => s.setCore k { y with ramp := if len = 0 then rampTop top else rampToward p top }
    match y.ramp with
    | .up p c => if c < len / 3 then s else go p
    | .down p c => if c < len / 3 then s else s.setCore k { y with ramp := if p ≤ 1 then .stopped else .down (p - 1) 0 }
    | .full => if top < 4 then go 4 else s
    | .capped p _ => if p = top then s else go p
    | _ => s)

/-! ### Accumulators -/

/-- A NaN that a tile command produced: the trap if it is armed, with the step and stage of its execution (R51, R54, R258). -/
def State.nanFor (s : State) (c uid : Nat) (exec : Option Nat) (n : Option NanSite) : State :=
  match n, s.jobOf c uid exec with
  | some n, some j =>
    if !s.trapArmed c then s
    else match j.x with
      | none => s.takeTrap c j.op j.m none j.m.recStep j.m.recStage n
      | some x => s.takeTrap c j.op j.m (some x.trapStep) x.recStep x.stage n
  | _, _ => s

def State.nanOf (s : State) (t : TileCmd) (n : Option NanSite) : State := s.nanFor t.ctx t.uid t.exec n

/-- An integer accumulator of the command saturated (R43). -/
def State.noteSat (s : State) (t : TileCmd) (sat : Bool) : State :=
  match (s.ctx t.ctx).byUid t.uid with
  | some m => if sat then s.putCmd t.ctx { m with sat := true } else s
  | none => s

/-- ACCUMULATOR_UPDATE (R67, R72, R50): the oldest group, issued 8 core cycles earlier, updates its accumulators; the first NaN of a
tile column traps. -/
def execAccumulatorUpdate (k : Nat) (par : Bool) (s : State) : Host.Outcome State Fault Refusal :=
  .next (
    let y := s.core k
    match y.pipe with
    | [] => s
    | i :: _ =>
      match y.tile i.who with
      | none => s
      | some t =>
        if !s.up || !(s.ctx t.ctx).alive || i.age < 8 || (i.first && y.final.any fun f => f.row == i.row) then s
        else if par then s.drawn.parityFault k t.ctx t.uid 0x312 5 (64 * (Config.freeNat s.free % 1024))
        else
          let os := y.lanesOf i
          let s := (s.setCore k (y.applied i os)).noteSat t (os.any fun o => o.sat)
          s.nanOf t ((i.nanOf os).map fun n => lateSite k (i, n.1, n.2)))

/-- An accumulator row that is copied takes its start value if a pass that has begun uses it (R65). -/
def Core.restart (y : Core) (p : Option MatPart) (row : Nat) : Core :=
  match p with
  | some p =>
    if p.starts && y.area.isSome && decide (p.base ≤ row) && decide (row < p.base + p.rows.length) then
      { y with acc := (List.range 1024).foldl (fun l n => Cells.set 0 (64 * n + row) p.mode.start l) y.acc }
    else y
  | none => y

/-- RESULT_ROW_COPY (R69): a final row of all lanes goes into its result area; after the pass's last row its run is queued (R124). -/
def execResultRowCopy (k : Nat) (par : Bool) (s : State) : Host.Outcome State Fault Refusal :=
  .next (
    let y := s.core k
    match y.final with
    | [] => s
    | f :: rest =>
      match s.workOf k f.who with
      | none => s
      | some (t, w) =>
        if !s.up || !(s.ctx t.ctx).alive then s
        else if par then s.drawn.parityFault k t.ctx t.uid 0x312 5 (64 * (Config.freeNat s.free % 1024))
        else
          let bytes := (List.range 1024).flatMap fun l => leBytes 4 (Cells.get 0 (l * 64 + f.row) y.acc).toNat
          let now := match s.workOf k 1 with | some (_, v) => v.mat y.pos.pass | none => none
          let s := (s.setCore k ({ y with final := rest }.restart now f.row)).l1Write k (w.areaOff + 262144 * f.area + 4096 * f.line) bytes false
          match w.mat f.pass with
          | some p =>
            if f.line + 1 < p.rows.length then s
            else
              let y := s.core k
              s.setCore k { y with veng := { y.veng with queue := y.veng.queue ++ [{ who := f.who, role := 2, pass := f.pass, area := f.area }] } }
          | none => s)

/-! ### Late data -/

/-- Run r of the vector engine. -/
def TileWork.runOf (w : TileWork) (r : Run) : Option RunSpec :=
  if r.role = 1 then (w.fills[r.pass]?).bind fun f => f.pro else (w.passes[r.pass]?).bind fun p => p.run

/-- The buffer of stream i for the row that a run stands at. -/
def Core.bufferOf (y : Core) (w : TileWork) (r : Run) (h : RunSpec) (i : Nat) : Option (Slot × Tensor) :=
  y.slots.findSome? fun q =>
    if q.who == r.who && q.operand == .stream h.posy i then
      match w.fills[q.fill]? with
      | some f => if f.pass = h.bufPass r.row then some (q, f.region.tensor true q.off) else none
      | none => none
    else none

/-- The stream that the instruction at hand reads (R118, R131). -/
def RunSpec.readsStream (h : RunSpec) (r : Run) : Option Nat :=
  match h.prog with
  | .posy p => (p.code[r.pc]?).bind fun i => if i.op = 0x30 ∧ 2 ≤ i.imm ∧ i.imm ≤ 5 then some (i.imm - 2) else none
  | _ => none

/-- Does the engine wait for a stream buffer. -/
def Core.waitsForStream (y : Core) (w : TileWork) (r : Run) (h : RunSpec) : Bool :=
  match h.readsStream r with
  | some i => (match y.bufferOf w r h i with | some (q, _) => !q.readable | none => true)
  | none => false

/-- A consumer of core k waits for a slot of the running tile command that is not FULL (R118): the broadcast, the weight port, the
vector engine, or core ferry 1. -/
def State.waitsForData (s : State) (k : Nat) : Bool :=
  match s.onCore k 1 with
  | none => false
  | some (y, t, w) =>
    (match y.stall t w (s.heldBufs k 1) with
      | some .late => true
      | some .bank => (match s.nextLoad k with | some x => !y.loadReady x | none => false)
      | _ => false) ||
    (match y.veng.cur with
      | some r => r.who == 1 && (match w.runOf r with | some h => y.waitsForStream w r h | none => false)
      | none => false) ||
    y.slots.any fun q => q.who == 1 && q.st == .filling && match q.operand with | .out _ => true | _ => false

/-- LATE_DATA_MISS (R118, R394): in bounded mode, a wait of `wait` core cycles beyond SLACK: the first of a tile command writes a
record, later ones rewrite its count and its longest wait. -/
def execLateDataMiss (k wait : Nat) (s : State) : Host.Outcome State Fault Refusal :=
  .next (
    match s.onCore k 1 with
    | none => s
    | some (y, t, w) =>
      let x := s.ctx t.ctx
      let ticks := wait * 4 / 7
      let m := w.job.m
      let step := match w.job.x with | some e => e.recStep | none => m.recStep
      let stage := match w.job.x with | some e => e.stage | none => 0
      if !x.bounded || s.cfg.bound.toNat % 2 != 1 || wait ≤ w.slack || !s.waitsForData k then s
      else
        let n := y.lateWaits + 1
        match y.dlm with
        | none =>
          let d := x.dseq
          let s := (s.setCore k { y with lateWaits := n, dlm := some (d, s.now, ticks) }).setCtx t.ctx { x with dseq := d + 1 }
          s.deadlineMiss t.ctx t.uid d s.now m.seq n ticks 1 k step stage
        | some (d, t0, longest) =>
          let s := s.setCore k { y with lateWaits := n, dlm := some (d, t0, max longest ticks) }
          s.missWrite t.ctx d t0 m.seq n (max longest ticks) 1 k step stage)

end Sys2Proof.Machine
end

