-- ==== Sys2Proof/Machine/Move.lean ====
section
/-! DEFINITION. FERRY (04 R119 to R122, 15 R406, R410) and TABLE_LOAD (06 R160 to R164). -/

namespace Sys2Proof.Machine

/-! ### Transfers -/

/-- A copy of n bytes of device memory by the die ferries of the destination's die (R115, R122): poison travels with the lines that hold
its bytes (R119, R293). -/
def State.copyBytes (s : State) (a b n : Nat) : State :=
  let s := s.settle [(a, n)]
  let s := (s.homePieces b n).foldl (fun s p => s.dieFerry p.1 p.2.1) (s.carryCopy a b n)
  let bad := (unitsOf 64 a n).filter fun x => NatSet.mem x s.mem.poison
  let s := s.devWrite b (s.mem.read a n) false
  let hit := (bad.flatMap fun x =>
    let lo := max (64 * x) a
    unitsOf 64 (b + lo - a) (min (64 * x + 64) (a + n) - lo))
  { s with mem := { s.mem with poison := hit.foldl (fun l u => NatSet.add u l) s.mem.poison } }

/-- Does a transfer end outside device memory at its source, or at another device: it is complete when answers come. -/
def State.asyncMove (s : State) (t : Transfer) : Bool :=
  let there := fun a => match s.place a with | .there _ _ => true | _ => false
  t.srcHost || (!t.dstHost && there t.dst) || there t.src

/-- Pieces (offset, length) of n bytes that lie in one 64-byte line at each of two addresses (R402, R293). -/
def linePieces (a b n : Nat) : List (Nat × Nat) :=
  (unitsOf 64 a n).flatMap fun x =>
    let lo := max (64 * x) a - a
    let hi := min (64 * x + 64) (a + n) - a
    let c := lo + (64 - (b + lo) % 64)
    if c < hi then [(lo, c - lo), (c, hi - c)] else [(lo, hi - lo)]

/-- One row of a transfer, number `row` of its chain (R121, R122, R294, R402, R483): `last` and `slip` belong to the transfer's last
row. A host ferry of the hub die carries a row with a host end. -/
def State.moveRow (s : State) (w : Asker) (t : Transfer) (r row : Nat) (last : Bool) (slip : Option (Nat × Nat)) : State :=
  let a := t.src + r * t.srcStride
  let b := t.dst + r * t.dstStride
  let n := t.rowBytes
  let ws := (s.ctx w.ctx).hwins
  let remote := fun (s : State) (dev x y : Nat) (mk : Nat → Nat → Nat → Tx) (kind : Answer) (dst : Nat → Nat) =>
    let ps := linePieces x y n
    (numbered ps).foldl (fun s p =>
      let fin := p.1 + 1 == ps.length
      if !(s.ctx w.ctx).alive then s
      else s.remoteReq w dev (x + p.2.1) (fun q => mk q p.2.1 p.2.2) kind (dst p.2.1) p.2.2 (last && fin) (if fin then slip else none) row) s
  if !(s.ctx w.ctx).alive then s
  else if t.srcHost then
    match winFor ws a n false, s.place b with
    | some h, .here d =>
      let q : Outstanding := { toAsker := w, dst := d, n := n, kind := .data, dev := 0, issued := s.now, last := last, slip := slip, row := row }
      { s.toHost (.hostRead a n h.tag) with reads := s.reads ++ [q] }
    | _, _ => s.failAsker w 0x316
  else if t.dstHost then
    match winFor ws b n true, s.place a with
    | some h, .here x =>
      let s := (s.settle [(x, n)] (some w.ctx)).carryFrom [(x, n)] 4
      let bad := s.mem.poisoned 64 x n
      let s := s.toHost (.hostWrite b (s.mem.read x n) true bad h.tag)
      if bad then s.failAsker w 0x310 else s
    | _, _ => s.failAsker w 0x316
  else match s.place a, s.place b with
    | .here x, .here y => s.copyBytes x y n
    | .here x, .there dev y =>
      let s := (s.settle [(x, n)]).carryFrom [(x, n)] 4
      remote s dev y x (fun q o k => .roligWrite q dev (y + o) (s.mem.read (x + o) k) (s.mem.poisoned 64 (x + o) k)) .written fun _ => 0
    | .there dev x, .here y => remote s dev x y (fun q o k => .roligRead q dev (x + o) k) .data fun o => y + o
    | _, _ => s.failAsker w 0x316

/-- A transfer of a chain from its row `from_` on, `before` rows of the chain before it: its rows, then its slipway once its writes
are home (Table 4.9). `last` ends the command. -/
def State.move (s : State) (w : Asker) (t : Transfer) (from_ before : Nat) (last : Bool) : State :=
  let slip := if t.slip then some (t.slipAddr, t.slipInc) else none
  let s' := (List.range (t.rows - from_)).foldl (fun s i =>
    let r := from_ + i
    let fin := r + 1 == t.rows
    s.moveRow w t r (before + r) (last && fin) (if fin then slip else none)) s
  if s.asyncMove t || !(s'.ctx w.ctx).alive then s'
  else match slip with
    | some (a, inc) => s'.signal w a inc last
    | none => s'

/-- Progress of execution e of a command's transfers, in rows. -/
def Cmd.movedOf (m : Cmd) (e : Nat) : Nat := Cells.get 0 e m.steps.moved

/-- Notes that n rows of execution e have begun. -/
def State.noteMoved (s : State) (c uid e n : Nat) : State :=
  let x := s.ctx c
  s.setCtx c { x with cmds := x.cmds.map fun (m : Cmd) =>
    if m.uid = uid then { m with steps := { m.steps with moved := Cells.set 0 e n m.steps.moved } } else m }

/-- Rows of a chain. -/
def chainRows (ts : List Transfer) : Nat := ts.foldl (fun n t => n + t.rows) 0

/-- Does an asker wait for an answer. -/
def State.asks (s : State) (w : Asker) : Bool :=
  let mine := fun (q : Outstanding) => q.ctx == w.ctx && q.uid == w.uid && q.exec == w.exec
  s.reads.any mine || s.remote.any mine

/-- Transfers in chain order, `done` rows of them begun before, until one waits for an answer: a later one then reads and writes only
after it (R122). The last one ends the command if `ends`. -/
def State.moves (s : State) (w : Asker) (done : Nat) (ends : Bool) : Nat → List Transfer → State
  | _, [] => s
  | before, t :: r =>
    if !(s.ctx w.ctx).alive || s.asks w then s
    else if before + t.rows ≤ done then s.moves w done ends (before + t.rows) r
    else ((s.noteMoved w.ctx w.uid (w.exec.getD 0) (before + t.rows)).move w t (done - before) before (ends && r.isEmpty)).moves w done ends (before + t.rows) r

/-- Goes on with a chain. -/
def State.ferryOn (s : State) (w : Asker) (m : Cmd) (ends : Bool) (ts : List Transfer) : State :=
  s.moves w (m.movedOf (w.exec.getD 0)) ends 0 ts

/-- Every row of a chain has begun and nothing is awaited. -/
def State.ferryOver (s : State) (w : Asker) (ts : List Transfer) : Bool :=
  match (s.ctx w.ctx).byUid w.uid with
  | some m => (s.ctx w.ctx).alive && decide (chainRows ts ≤ m.movedOf (w.exec.getD 0)) && !s.asks w
  | none => false

/-- A collective phase: a transfer names another device (R410). -/
def State.collective (s : State) (ts : List Transfer) : Bool :=
  ts.any fun t =>
    let there := fun a => match s.place a with | .there _ _ => true | _ => false
    (!t.srcHost && there t.src) || (!t.dstHost && there t.dst)

/-- Is a work a collective phase. -/
def State.isPhase (s : State) : Work → Bool
  | .ferry ts => s.collective ts
  | _ => false

/-- Executions of a command that are collective phases in progress; a FERRY command counts as execution 0. -/
def State.phasesOf (s : State) (m : Cmd) : List Nat :=
  match m.phase, m.job with
  | .started, some (.work w) => if s.isPhase w then [0] else []
  | .started, some (.steps l) => m.steps.started.filter fun e => !NatSet.mem e m.steps.done &&
      match l.stageAt e with
      | some g => s.isPhase g.work
      | none => false
  | _, _ => []

/-- Another collective phase than execution e of command uid is running (R410). -/
def State.phaseBusy (s : State) (c uid e : Nat) : Bool :=
  (List.range s.ctxs.length).any fun d => (s.ctx d).cmds.any fun (m : Cmd) =>
    (s.phasesOf m).any fun y => !(d == c && m.uid == uid && y == e)

/-- Contexts with a command in its turn for which a test holds (R374). -/
def State.wanting (s : State) (f : Cmd → Bool) : List Nat :=
  (List.range s.ctxs.length).filter fun c => s.ready c && (numbered (s.ctx c).cmds).any fun e => (s.ctx c).inOrder e.1 e.2 && f e.2

/-- Does a command have a collective phase that could start now. -/
def State.wantsPhase (s : State) (m : Cmd) : Bool :=
  match m.phase, m.job with
  | .checked, some (.work w) => s.isPhase w
  | _, some (.steps l) => m.list?.isSome && (List.range l.total).any fun e =>
      !NatSet.mem e m.steps.started && l.orderMet m.steps e && match l.stageAt e with | some g => s.isPhase g.work | none => false
  | _, _ => false

/-- May context c start a collective phase, execution e of command uid: none is running, and it wins the arbitration (R374, R410). -/
def State.phaseTurn (s : State) (c uid e : Nat) : Bool :=
  !s.phaseBusy c uid e && s.winner phaseRes false (s.wanting s.wantsPhase) == some c

/-- Transfers of execution e may go on: the context may act, or a phase that cannot be pre-empted is under way (R377). -/
def State.mayMove (s : State) (c : Nat) (m : Cmd) (e : Nat) : Bool :=
  s.ready c || (s.awake && (s.ctx c).alive && (s.ctx c).preempted && (s.phasesOf m).contains e)

/-- The end of a collective phase of a pre-empted context adds its overrun to the debt (R377). -/
def State.phaseDebt (s : State) (c : Nat) (phase : Bool) : State :=
  let x := s.ctx c
  if phase && x.preempted then s.setCtx c { x with debt := x.debt + (s.now.toNat - x.savedAt.toNat) } else s

/-- FERRY (R122): goes on with its chain; it completes when every transfer's writes have reached home memory. -/
def execFerry (c i : Nat) (s : State) : Host.Outcome State Fault Refusal :=
  .next (
    let x := s.ctx c
    match x.cmd? i with
    | none => s
    | some m =>
      match m.work? with
      | some (.ferry ts) =>
        let phase := s.collective ts
        let starts := m.phase == .checked
        if !(s.mayMove c m 0 && x.inOrder i m) || (starts && phase && !s.phaseTurn c m.uid 0) then s
        else
          let w : Asker := { ctx := c, uid := m.uid, phase := phase }
          let s := if starts && phase then s.granted phaseRes c else s
          let s := (s.setPhase c m.uid .started).ferryOn w m true ts
          if s.ferryOver w ts then ((s.finish c m.uid).phaseDebt c phase) else s
      | _ => s)

/-! ### TABLE_LOAD -/

/-- Image length that a table allows (Table 13.4). -/
def imageLenOk (table n : Nat) : Bool :=
  match table with
  | 0 => n == 1024
  | 1 => n == 2048
  | _ => decide (4096 ≤ n) && decide (n ≤ 36864)

/-- A command that has not completed is bound to a bank of a table (R162). -/
def State.bankBound (s : State) (table bank : Nat) : Bool :=
  s.ctxs.any fun x => x.cmds.any fun (m : Cmd) => !m.finished && m.banks[table]? == some bank

/-- First entry below n for which a check fails. -/
def firstBad (n : Nat) (f : Nat → Bool) : Option Nat := (List.range n).find? f

/-- Entries of an image: segments or directory entries. -/
def imageEntries (table : Nat) : Nat :=
  match table with
  | 0 => 64
  | 1 => 128
  | _ => 256

/-- An entry breaks R160, or R169 when VALID. -/
def entryBad (table : Nat) (img : List Byte) (i : Nat) : Bool :=
  match table with
  | 0 => ex2Bad img i
  | 1 => lg2Bad img i
  | _ => (microDir img i).valid && microBad img (microDir img i)

/-- An entry holds a reserved field that is not zero (R162). -/
def entryReserved (table : Nat) (img : List Byte) (i : Nat) : Bool :=
  if table < 2 then leNat ((img.drop (16 * i + 12)).take 4) != 0
  else (microDir img i).valid && (microDir img i).reserved != 0

/-- Checks of an image that was read: code and entry of the first failure (Table 6.3). -/
def imageFault (table : Nat) (img : List Byte) : Option (Nat × Nat) :=
  match firstBad (imageEntries table) (entryBad table img) with
  | some i => some (if table < 2 then 0x0244 else 0x0245, i)
  | none => (firstBad (imageEntries table) (entryReserved table img)).map fun i => (0x0246, i)

/-- Checks that need no image (Table 6.3): the first failing code. -/
def State.loadFault (s : State) (c image bytes table bank : Nat) : Option Nat :=
  if !imageLenOk table bytes || decide (devTop < image + bytes) then some 0x0240
  else if s.tables.active.getD table 0 = bank then some 0x0241
  else if s.bankBound table bank then some 0x0242
  else if !((s.ctx c).blk.map fun b => b.tblRight).getD false then some 0x0243
  else none

/-- Puts an image into a bank of a table in every core, and into the reserved area (R165); the empty list empties the bank
(R163, R164). -/
def Tables.put (t : Tables) (table bank : Nat) (img : List Byte) : Tables :=
  let t := { t with bad := NatSet.del (2 * table + bank) t.bad }
  match table with
  | 0 => { t with ex2 := t.ex2.set bank img }
  | 1 => { t with lg2 := t.lg2.set bank img }
  | _ => { t with micro := t.micro.set bank img, microStd := t.microStd.set bank false }

/-- Is a command a TABLE_LOAD of a table that has not run. -/
def Cmd.loads (table : Nat) (m : Cmd) : Bool :=
  match m.work? with
  | some (.tableLoad _ _ t _ _) => t == table
  | _ => false

/-- TABLE_LOAD (R162 to R164, R374): its checks are made as it starts; a poisoned line of the image faults the context and
leaves the bank empty. -/
def execTableLoad (c i : Nat) (s : State) : Host.Outcome State Fault Refusal :=
  .next (
    let x := s.ctx c
    match x.cmd? i with
    | none => s
    | some m =>
      match m.work? with
      | some (.tableLoad image bytes table bank swap) =>
        if !(s.ready c && x.inOrder i m) || s.winner (tableRes table) false (s.wanting (Cmd.loads table)) != some c then s
        else match (s.granted (tableRes table) c).loadFault c image bytes table bank with
          | some code => (s.granted (tableRes table) c).setPhase c m.uid (.rejected code 0 0)
          | none =>
            let s := (s.granted (tableRes table) c).settle [(image, bytes)] (some c)
            if s.mem.poisoned 64 image bytes then
              let s := { s with tables := s.tables.put table bank [] }
              (s.setPhase c m.uid .started).faultCtx c 0x310 (some m.uid)
            else
              let img := s.mem.read image bytes
              match imageFault table img with
              | some (code, j) => s.setPhase c m.uid (.rejected code j 0)
              | none =>
                let t := s.tables.put table bank img
                let t := if swap then { t with active := t.active.set table bank } else t
                ({ s with tables := t }).finish c m.uid
      | _ => s)

end Sys2Proof.Machine
end

