-- ==== Sys2Proof/Machine/Steps.lean ====
section
/-! DEFINITION. Step lists (09): the start and the end of an execution, pins, steps, budgets and the deadline, and STEPLIST as
a whole. -/

namespace Sys2Proof.Machine

/-! ### Progress -/

/-- Changes the progress of a list. -/
def State.prog (s : State) (c uid : Nat) (f : StepProg → StepProg) : State :=
  let x := s.ctx c
  s.setCtx c { x with cmds := x.cmds.map fun (m : Cmd) => if m.uid = uid then { m with steps := f m.steps } else m }

/-- What asks on behalf of an execution (R258, R410). -/
def Execution.asker (x : Execution) (c uid : Nat) (e : Option Nat) (phase : Bool) : Asker :=
  { ctx := c, uid := uid, exec := e, stage := some (x.recStep, x.stage), phase := phase }

/-- Names the step and the stage that a fault's record carries (R258). -/
def State.atStage (s : State) (c uid : Nat) (x : Execution) : State :=
  let y := s.ctx c
  s.setCtx c { y with cmds := y.cmds.map fun (m : Cmd) => if m.uid = uid then { m with recStep := x.recStep, recStage := x.stage } else m }

/-- An advance of a list's slipway: the command goes on (R254); 0 names none. -/
def State.signalStage (s : State) (w : Asker) (addr inc : Nat) : State := if addr = 0 then s else s.signal w addr inc false

/-- With no pins, step 0 is ready once the prefix is done (R255). -/
def StepList.unpinned (l : StepList) (p : StepProg) (now : Tick) : StepProg :=
  if l.pins.isEmpty && !p.pinned && l.prefixDone p then { p with pinned := true, start := now } else p

/-! ### Pins (R249 to R252) -/

/-- Pinned ranges as device memory holds them. -/
def StepList.restore (l : StepList) (die : Nat) (orig mem : Mem) : Mem :=
  l.pins.foldl (fun m p => if bit1 p.dies die then m.graft orig 64 p.src p.src p.bytes else m) mem

/-- Copies every pinned range into every selected die (R250). -/
def State.copyPins (s : State) (l : StepList) : State :=
  l.pins.foldl (fun s p => (List.range 4).foldl (fun s d =>
    if !bit1 p.dies d then s
    else
      let s := (((s.settle [(p.src, p.bytes)]).carryFrom [(p.src, p.bytes)] d).dieFerry d p.bytes).count (4704 + 4 * d + 1) p.bytes
      let m := (s.dieBuf.getD d {}).graft s.mem 64 (p.dbOff * 64) p.src p.bytes
      match s.eccHits 1 d 64 (p.dbOff * 64) p.bytes with
      | none => { s with dieBuf := s.dieBuf.set d m }
      | some x => { s with dieBuf := s.dieBuf.set d { m with latent := Cells.set 0 x s.eccSyms m.latent }
                           dbg := { s.dbg with eccArmed := false } }) s) s

/-- PIN_COPY_DONE of a list: step 0 may start, and T_0 is now. -/
def State.pinCopy (s : State) (c i : Nat) : State :=
  let x := s.ctx c
  match x.cmd? i with
  | none => s
  | some m =>
    match m.list? with
    | none => s
    | some l =>
      if s.ready c && x.inOrder i m && !m.steps.pinned && l.prefixDone m.steps then
        ((s.copyPins l).setPhase c m.uid .started).prog c m.uid fun p => { p with pinned := true, start := s.now }
      else s

/-! ### Executions -/

/-- Is the slipway that a stage waits on at its target (R253): none when its line is poisoned. -/
def State.waitMet (s : State) (g : Stage) (x : Execution) : Option Bool :=
  if g.waitAddr = 0 then some true
  else match s.place g.waitAddr with
    | .here a =>
      if s.mem.poisoned 64 a 4 then none
      else some (reached (s.slip a) (BitVec.ofNat 32 (g.waitBase + g.waitStep * x.step)))
    | _ => some false

/-- The start of execution e of command i (R235, R240, R250, R253). -/
def State.stageStart (s : State) (c i e : Nat) : State :=
  let y := s.ctx c
  match y.cmd? i with
  | none => s
  | some m =>
    match m.list? with
    | none => s
    | some l =>
      match l.execution e, l.stageAt e with
      | some x, some g =>
        if !(s.ready c && y.inOrder i m) || NatSet.mem e m.steps.started || !l.orderMet m.steps e ||
            (s.isPhase g.work && !s.phaseTurn c m.uid e) then s
        else
          let s := if s.isPhase g.work then s.granted phaseRes c else s
          let p := l.unpinned m.steps s.now
          let s := (s.setPhase c m.uid .started).prog c m.uid fun _ => p
          if x.phase != 0 && !p.pinned then s
          else match s.waitMet g x with
            | none => (s.atStage c m.uid x).faultCtx c 0x310 (some m.uid)
            | some false => s
            | some true =>
              let n := ((l.workOf g x).boxes y.homeDie).length
              s.prog c m.uid fun p => { p with
                started := NatSet.add e p.started
                tiles := if n = 0 then p.tiles else p.tiles ++ [(e, List.range n, n)] }
      | _, _ => s

/-- Copies of pinned ranges on the context's home die are read (R287). -/
def State.settlePins (s : State) (l : StepList) (m : Cmd) (c : Nat) (rs : List (Nat × Nat)) : State :=
  if m.steps.pinned then s.settleIn (.dieBuf (s.ctx c).homeDie) (l.pinReads (s.ctx c).homeDie rs) (some c) else s

/-- A computing execution runs: memory and saturation, a fault or a trap (R250, R257, R258). Answers whether it is
complete. -/
def State.runStage (s : State) (c : Nat) (m : Cmd) (l : StepList) (g : Stage) (x : Execution) (w : Work) : State × Bool :=
  let s := (s.settle w.ins (some c)).settlePins l m c w.ins
  let die := (s.ctx c).homeDie
  let view := if m.steps.pinned then l.overlay die (s.dieBuf.getD die {}) s.mem else s.mem
  match runWork (s.workEnv m (l.philox g x)) (s.trapArmed c) w view with
  | .addr => ((s.drawn.atStage c m.uid x).faultCtx c 0x316 (some m.uid), false)
  | .poison => ((s.drawn.atStage c m.uid x).faultCtx c 0x310 (some m.uid), false)
  | .trap n => (s.drawn.takeTrap c g.opcode m (some x.trapStep) x.recStep x.stage n, false)
  | .defer => (s, false)
  | .done mem sat =>
    let mem := if m.steps.pinned then l.restore die s.mem mem else mem
    ((s.drawn.commit mem w.outs).putCmd c { m with sat := m.sat || sat }, true)

/-- An execution whose effect is one request (SLIPWAY_SIGNAL, TIMESTAMP): sent once, complete when it is answered. -/
def State.onceStage (s : State) (w : Asker) (m : Cmd) (act : State → State) : State × Bool :=
  let e := w.exec.getD 0
  let s := if m.movedOf e = 0 then act (s.noteMoved w.ctx w.uid e 1) else s
  (s, (s.ctx w.ctx).alive && !s.asks w)

/-- A TIMESTAMP within a list (R364). -/
def State.stampStage (s : State) (w : Asker) (addr : Nat) (host : Bool) : State :=
  let bs := leBytes 8 s.now.toNat
  if host then s.toHost (.hostWrite addr bs false false ((winFor (s.ctx w.ctx).hwins addr 8 true).bind HWin.tag))
  else match s.place addr with
    | .here y => s.hubWrite y bs false
    | .there dev y => s.remoteReq w dev y (fun p => .roligWrite p dev y bs false) .written 0 8 false
    | .nowhere => s

/-- Tile commands of an execution: those left to place and how many have not ended; none where it has none. -/
def StepProg.tilesOf (p : StepProg) (e : Nat) : Option (List Nat × Nat) :=
  (p.tiles.find? fun (x : Nat × List Nat × Nat) => x.1 == e).map fun x => x.2

/-- The work of execution e (R234): one whose tile commands have been placed ends with the last of them (R237). -/
def State.doStage (s : State) (c : Nat) (m : Cmd) (l : StepList) (e : Nat) (g : Stage) (x : Execution) : State × Bool :=
  let placed := match m.steps.tilesOf e with | some t => t.1.length != t.2 || t.2 == 0 | none => false
  if placed then (s, match m.steps.tilesOf e with | some t => t.2 == 0 | none => false)
  else
  let a := x.asker c m.uid (some e) (s.isPhase g.work)
  match l.workOf g x with
  | .ferry ts =>
    let s := s.ferryOn a m false ts
    (s, s.ferryOver a ts)
  | .signal addr inc => s.onceStage a m (fun s => s.signalStage a addr inc)
  | .stamp addr host => s.onceStage a m (fun s => s.stampStage a addr host)
  | .wait addr target =>
    match s.place addr with
    | .here a =>
      let s := s.settle [(a, 4)] (some c)
      if s.mem.poisoned 64 a 4 then ((s.atStage c m.uid x).faultCtx c 0x310 (some m.uid), false)
      else (s, reached (s.slip a) (BitVec.ofNat 32 target))
    | _ => (s, false)
  | w => s.runStage c m l g x w

/-- The end of execution e of command i: its work, then its slipway (R254). -/
def State.stageEnd (s : State) (c i e : Nat) : State :=
  match (s.ctx c).cmd? i with
  | none => s
  | some m =>
    match m.list? with
    | none => s
    | some l =>
      match l.execution e, l.stageAt e with
      | some x, some g =>
        if !s.mayMove c m e || !NatSet.mem e m.steps.started || NatSet.mem e m.steps.done then s
        else
          let (s, fin) := s.doStage c m l e g x
          if !fin then s
          else
            let s := s.prog c m.uid fun p =>
              let p := { p with done := NatSet.add e p.done, tiles := p.tiles.filter fun t => t.1 != e }
              l.unpinned p s.now
            ((s.signalStage (x.asker c m.uid none false) g.sigAddr g.sigInc).listEnd c m.uid).phaseDebt c (s.isPhase g.work)
      | _, _ => s

/-- Step t of command i is complete: STEP_SLIP advances (R254). -/
def State.stepEnd (s : State) (c i t : Nat) : State :=
  match (s.ctx c).cmd? i with
  | none => s
  | some m =>
    match m.list? with
    | none => s
    | some l =>
      if s.ready c && m.steps.stepsDone == t && decide (t < l.steps) && l.stepDone m.steps t then
        let s := s.prog c m.uid fun p => { p with stepsDone := t + 1 }
        (s.signalStage (({ stage := 0, phase := 1, step := t } : Execution).asker c m.uid none false) l.stepSlip 1).listEnd c m.uid
      else s

/-! ### Commands -/

/-- STAGE_EXECUTION_START (R240). -/
def execStageExecutionStart (c i e : Nat) (s : State) : Host.Outcome State Fault Refusal := .next (s.stageStart c i e)

/-- STAGE_EXECUTION_DONE (R254). -/
def execStageExecutionDone (c i e : Nat) (s : State) : Host.Outcome State Fault Refusal := .next (s.stageEnd c i e)

/-- PIN_COPY_DONE (R250). -/
def execPinCopyDone (c i : Nat) (s : State) : Host.Outcome State Fault Refusal := .next (s.pinCopy c i)

/-- STEP_COMPLETE (R254). -/
def execStepComplete (c i st : Nat) (s : State) : Host.Outcome State Fault Refusal := .next (s.stepEnd c i st)

/-- The list of a command that has not completed, trapped or not. -/
def Cmd.openList? (m : Cmd) : Option StepList :=
  match m.phase, m.job with
  | .checked, some (.steps l) => some l
  | .started, some (.steps l) => some l
  | .trapped, some (.steps l) => some l
  | _, _ => none

/-- STEP_BUDGET_CHECK (R255): at T_0 + (st + 1) × STEP_BUDGET, whatever the context's state. -/
def execStepBudgetCheck (c i st : Nat) (s : State) : Host.Outcome State Fault Refusal :=
  .next (
    let x := s.ctx c
    match x.cmd? i with
    | none => s
    | some m =>
      match m.openList? with
      | none => s
      | some l =>
        let p := m.steps
        if !s.up || !x.alive || l.stepBudget == 0 || !p.pinned || decide (l.steps ≤ st) || NatSet.mem st p.checkedSteps ||
            decide (s.now.toNat < p.start.toNat + (st + 1) * l.stepBudget) then s
        else
          let s := s.prog c m.uid fun p => { p with checkedSteps := NatSet.add st p.checkedSteps }
          if st < p.stepsDone then s else s.missCheck c m.uid m.seq 2 st)

/-- DEADLINE_CHECK (R255): at tick DEADLINE, the list not complete. -/
def execDeadlineCheck (c i : Nat) (s : State) : Host.Outcome State Fault Refusal :=
  .next (
    let x := s.ctx c
    match x.cmd? i with
    | none => s
    | some m =>
      match m.openList? with
      | none => s
      | some l =>
        if !s.up || !x.alive || l.deadline == 0 || m.steps.deadlineChecked || decide (s.now.toNat < l.deadline) then s
        else
          let s := s.prog c m.uid fun p => { p with deadlineChecked := true }
          s.missCheck c m.uid m.seq 3 0x7FF)

/-- Executions a, a + 1, ... started and ended one after another. -/
def State.listSpan (s : State) (c i a n : Nat) : State :=
  (List.range n).foldl (fun s k => (s.stageStart c i (a + k)).stageEnd c i (a + k)) s

/-- STEPLIST (R233, R235): every execution that can run, in the flattened sequence; pins between the prefix and step 0. -/
def State.runList (s : State) (c i : Nat) (l : StepList) : State :=
  let p := (l.stagesOf 0).length
  let q := (l.stagesOf 1).length
  let s := (s.listSpan c i 0 p).pinCopy c i
  let s := (List.range l.steps).foldl (fun s t => (s.listSpan c i (p + t * q) q).stepEnd c i t) s
  s.listSpan c i (p + l.steps * q) (l.stagesOf 2).length

/-- STEPLIST (R235): goes on as far as it can; it completes when all of it has (R257). -/
def execSteplist (c i : Nat) (s : State) : Host.Outcome State Fault Refusal :=
  .next (
    match (s.ctx c).cmd? i with
    | none => s
    | some m =>
      match m.list? with
      | none => s
      | some l => if s.ready c && (s.ctx c).inOrder i m then s.runList c i l else s)

end Sys2Proof.Machine
end

