-- ==== Sys2Proof/Machine/VecStep.lean ====
section
/-! DEFINITION. The vector engine of a core (05 R124 to R129, R138, R145, R150): the start of a run, one instruction of a posy or one
chunk of a fixed program (07 R195, R200, R206, 05 R128), the end of a run with the writes of core ferry 1 (04 R103, R107, R108). -/

namespace Sys2Proof.Machine

/-- A run on a core: core, tile command and its work, run and what it does. -/
structure Running where
  k : Nat
  y : Core
  t : TileCmd
  w : TileWork
  r : Run
  h : RunSpec

/-- Columns of the row at hand, and its chunk: first column and active lanes. -/
def Running.lo (x : Running) : Nat := (x.h.span x.r.row).1
def Running.hi (x : Running) : Nat := (x.h.span x.r.row).2
def Running.col (x : Running) (l : Nat) : Nat := x.lo + 128 * x.r.chunk + l
def Running.n (x : Running) : Nat := min 128 (x.hi - x.lo - 128 * x.r.chunk)

/-- The running state of attention of the run's tile command. -/
def Running.att (x : Running) : AttSt := if x.r.who = 0 then x.y.prevAtt else x.y.att
def Core.putAtt (y : Core) (who : Nat) (a : AttSt) : Core := if who = 0 then { y with prevAtt := a } else { y with att := a }

/-- The surroundings of a run. -/
def Running.env (x : Running) (s : State) : WorkEnv :=
  let j := x.w.job
  { pe := { bind := s.bound j.m.banks, inList := j.px.inList, key := j.px.key, ctr := j.px.ctr, draw := coreDraw x.k }, core := x.k }

/-! ### What an instruction reads -/

/-- A word of the run's result area (R69): row of the run and column. -/
def Running.area (x : Running) (line col : Nat) : Word :=
  BitVec.ofNat 32 (leNat (x.y.mem.read (x.w.areaOff + 262144 * x.r.area + 4096 * line + 4 * (col - x.lo)) 4))

/-- Where a prologue's element stands in its slot or chain buffer: tensor, row, column. -/
def Running.actAt (x : Running) (col : Nat) : Option (Tensor × Nat × Nat) :=
  match x.h.buf with
  | some f => let b := f x.r.row; some (b.1, b.2.1, b.2.2 + (col - x.lo))
  | none =>
    match x.y.fillTensor x.w x.r.who x.r.pass, (x.h.runs x.r.row).find? fun z => decide (z.2.2.1 ≤ col) && decide (col < z.2.2.1 + z.2.2.2) with
    | some t, some z => some (t, z.1, z.2.1 + (col - z.2.2.1))
    | _, _ => none

/-- A stream element as its buffer holds it (R131, R136): tensor, row and column of the buffer. -/
def Running.streamAt (x : Running) (p : Posy) (i l : Nat) : Option (Stream × Tensor × Nat × Nat) :=
  match p.stream? i, x.y.bufferOf x.w x.r x.h i with
  | some q, some (_, t) => let b := x.h.bufAt q x.r.row (x.col l); some (q, t, b.1, b.2)
  | _, _ => none

/-- The taps of a pooled element. -/
def Running.taps (x : Running) (tap : Nat → Nat → Nat → Option Ref) (n col : Nat) : List Ref := (List.range n).filterMap fun k => tap x.r.row col k

/-- RES, RESP and ACT of the chunk's lanes by slot (Table 5.4, R198, R229), and the first NaN of forming them. -/
def Running.res (x : Running) (s : State) (ch : Chunk) : (Nat → Nat → Word) × Option NanSite :=
  let line := x.h.line x.r.row
  let we := x.env s
  let coord := fun l => x.h.coord x.r.row (x.col l)
  match x.h.res with
  | .area _ => (fun slot l => x.area (line + (if slot = 1 then 1 else 0)) (x.col l), none)
  | .pool tap n mode f =>
    let vs := (List.range x.n).map fun l => poolOver mode f ((x.taps tap n (x.col l)).map (x.y.readRef x.w x.r.who))
    (fun _ l => (vs.getD l (0, none)).1,
      (numbered vs).findSome? fun v => v.2.2.map fun z => { inA := z.2.1, inB := z.2.2, coord := coord v.1, core := x.k, site := 3, cause := z.1 })
  | .norm place =>
    let at_ := fun l => place x.r.row (x.col l)
    let v := attNorm we ch coord x.n (fun l => Cells.get 0 (at_ l) x.att.n) (fun l => Cells.get 0 (at_ l) x.att.l) fun l => x.area line (x.col l)
    (fun _ l => laneOf v.1 l, v.2)
  | .act => (fun _ l => match x.actAt (x.col l) with | some (t, i, c) => t.load x.y.mem c i 0 0 | none => 0, none)
  | .none => (fun _ _ => 0, none)

/-- Are those floating-point values. -/
def Running.resFloat (x : Running) : Bool :=
  match x.h.res with
  | .area isInt => !isInt
  | .act => !x.h.out.fmt.isInt
  | _ => true

/-- The chunk that a run stands at (R133, R136), but for what its loads read. -/
def Running.bare (x : Running) (s : State) : Chunk :=
  let at_ := fun l => x.h.at_ x.r.row (x.col l)
  let e := (x.env s).pe
  { act := fun l => decide (l < x.n)
    row := fun l => (at_ l).row
    col := fun l => (at_ l).col
    bat := fun l => (at_ l).bat
    elem := fun l => elemIndex x.h.out e.inList (at_ l).col (at_ l).row (at_ l).bat (at_ l).d3
    key := fun l => e.key (at_ l).bat
    ctr := e.ctr
    ld := fun _ _ => 0
    ldFloat := fun _ => false
    stat := x.h.statRd.map fun f slot l => (f (x.env s) s.mem x.r.row (x.col l) slot).1
    outNan := x.h.out.fmt.storesNan
    v0 := fun r l => Config.freeReg e.draw r l
    p0 := fun r l => Config.freePred e.draw r l }

/-- The chunk of a posy with its loads: streams come from their buffers. -/
def Running.chunk (x : Running) (s : State) (p : Posy) (res : Nat → Nat → Word) : Chunk :=
  { x.bare s with
    ld := fun slot l =>
      if 2 ≤ slot ∧ slot ≤ 5 then
        match x.streamAt p (slot - 2) l with
        | some (q, t, i, c) => if q.maskBits then BitVec.ofNat 32 (t.maskBitAt x.y.mem c i 0 0) else t.load x.y.mem c i 0 0
        | none => 0
      else res slot l
    ldFloat := fun slot => if 2 ≤ slot ∧ slot ≤ 5 then (p.stream? (slot - 2)).elim false Stream.isFloat else x.resFloat }

/-- Bytes of n columns of a line of the run's result area, from a column of the row on. -/
def Running.areaBytes (x : Running) (line c0 n : Nat) : Nat × Nat := (x.w.areaOff + 262144 * x.r.area + 4096 * line + 4 * c0, 4 * n)

/-- Bytes of core memory that the instruction at hand uses (R294): the elements of active lanes that it loads, and the results that it
reads. -/
def Running.coreBytes (x : Running) : List (Nat × Nat) :=
  match x.h.prog with
  | .score _ => if x.r.sweep = 0 then [x.areaBytes (x.h.line x.r.row) (128 * x.r.chunk) x.n] else []
  | .select c => (List.range c.rows).map fun r => x.areaBytes r 0 c.pages.length
  | .posy p =>
    match p.code[x.r.pc]? with
    | none => []
    | some i =>
      if i.op != 0x30 then []
      else (List.range x.n).flatMap fun l =>
        if 2 ≤ i.imm ∧ i.imm ≤ 5 then
          match x.streamAt p (i.imm - 2) l with
          | some (q, t, i, c) => if q.maskBits then (if t.inside c i 0 0 then [(t.rowAddr i 0 0 + c / 8, 1)] else []) else t.elemBytes c i
          | none => []
        else match x.h.res with
          | .act => (match x.actAt (x.col l) with | some (t, i, c) => t.elemBytes c i | none => [])
          | .pool tap n _ _ => (x.taps tap n (x.col l)).flatMap (x.y.refBytes x.w x.r.who)
          | .area _ => [x.areaBytes (x.h.line x.r.row + if i.imm = 1 then 1 else 0) (128 * x.r.chunk + l) 1]
          | .norm _ => [x.areaBytes (x.h.line x.r.row) (128 * x.r.chunk + l) 1]
          | .none => []
  | _ => []

/-- Ranges of device memory that the instruction or chunk at hand reads. -/
def Running.deviceBytes (x : Running) : List (Nat × Nat) :=
  let c0 := 128 * x.r.chunk
  match x.h.prog with
  | .fixed f => f.ins x.r.row c0 x.n
  | .score c =>
    if !c.ab.att.bitMask || x.r.sweep != 0 then []
    else
      let q := c.ab.seq c.s
      let row := c.rows.getD x.r.row (0, 0)
      let pos := 128 * c.pages.getD x.r.chunk 0
      if q.len ≤ pos then []
      else [(c.ab.att.maskBase + maskOffset c.ab c.s + (row.2 + c.ab.q.e1 * row.1) * cdiv q.len 8 + pos / 8, cdiv (min 128 (q.len - pos)) 8)]
  | .posy _ => if x.r.pc = 0 && x.r.sweep = 0 then x.h.statIns x.r.row (x.lo + c0) x.n else []
  | _ => []

/-! ### Fixed programs -/

/-- One chunk of the score program (R195, R200): the first sweep forms the masked scores, their maximum and count; the second stores
the probabilities and sums them. Statistic slots hold SUM, MAX, the new maximum and the count. -/
def Running.score (x : Running) (s : State) (c : ScoreSpec) : Core × Option NanSite :=
  let we := x.env s
  let row := c.rows.getD x.r.row (0, 0)
  let q := c.ab.seq c.s
  let coord := fun l => x.h.coord x.r.row (x.col l)
  let key := fun l => 128 * x.r.chunk + l
  let act := fun l => decide (l < x.n)
  let v := x.y.veng
  if x.r.sweep = 0 then
    let raw := (List.range x.n).map fun l => x.area (x.h.line x.r.row) (x.col l)
    let vs := raw.map fun a => fmul a c.ab.att.scale2
    let ts := (numbered vs).map fun z => if keyKept c.ab q s.mem c.s row.1 row.2 (keyPos c.pages (key z.1)) then z.2 else f32NegInf
    let cnt := (ts.filter fun t => f32NegInf != t && !isNaN32 t).length
    let st := (v.s.set 1 (statReduce 2 act (laneOf ts) (v.s.getD 1 0))).set 3 (v.s.getD 3 0 + BitVec.ofNat 32 cnt)
    ({ x.y with veng := { v with s := st }, outTile := Cells.setRun 0 (2 ^ 24 * x.r.row + key 0) ts x.y.outTile },
      firstLane x.n fun l => seqSite we 5 0 (coord l) (laneOf vs l) (laneOf raw l) c.ab.att.scale2 0)
  else
    let mNew := v.s.getD 2 0
    let empty := mNew == f32NegInf
    let ts := Cells.getRun 0 (2 ^ 24 * x.r.row + key 0) x.n x.y.outTile
    let ds := ts.map fun t => fadd t (fneg mNew)
    let es := if empty then ts.map fun _ => f32Zero else ds.map (ex2 we.pe.bind.ex2)
    let pf : Fmt := (fmtOfCode c.ab.att.pFmt).getD bf16Fmt
    let (cs, scs) := encodeRun pf es
    let cs := cs.map (widenFp6 pf.elem)
    let stored := (numbered cs).map fun z => toF32 (readScaled pf.core z.2 (if pf.mx then scs.getD (z.1 / 32) 127 else 127))
    let a := c.prob.rowAddr (c.probRow x.r.row) 0 0 + key 0 * pf.core.elem.width / 8
    let m := x.y.mem.write 32 a (leBytes (cdiv (cs.length * pf.core.elem.width) 8) (packCodes pf.core.elem.width cs)) false
    let m := if pf.mx then m.write 32 (c.prob.scaleAddr (key 0 / 32) (c.probRow x.r.row) 0 0) (scs.map fun z => BitVec.ofNat 8 z) false else m
    ({ x.y with veng := { v with s := v.s.set 0 (statReduce 0 act (laneOf stored) (v.s.getD 0 0)) }, mem := m },
      if empty then none
      else firstLane x.n (fun l => seqSite we 5 0 (coord l) (laneOf ds l) (laneOf ts l) (fneg mNew) 0) <|>
        firstLane x.n fun l => seqSite we 5 0 (coord l) (laneOf es l) (laneOf ds l) 0 0)

/-- The end of a sweep of the score program: the new maximum after the first; after the second the state update and the row's ACCSCALE
(R195, R73). -/
def Running.scoreEnd (x : Running) (s : State) (c : ScoreSpec) (y : Core) : Core × Option NanSite :=
  let we := x.env s
  let row := c.rows.getD x.r.row (0, 0)
  let at0 := [0, row.2, row.1, c.s]
  let a := x.att
  let i := c.state x.r.row
  let first := c.j == 0
  let m := if first then f32NegInf else Cells.get f32NegInf i a.m
  let l := if first then f32Zero else Cells.get 0 i a.l
  let n := if first then f32Zero else Cells.get 0 i a.n
  let v := y.veng
  if x.r.sweep = 0 then
    let mb := v.s.getD 1 0
    let mNew := fmax m mb
    ({ y with veng := { v with s := v.s.set 2 mNew } }, seqSite we 5 0 at0 mNew m mb 0)
  else
    let mNew := v.s.getD 2 0
    let empty := mNew == f32NegInf
    let dm := fadd m (fneg mNew)
    let alpha := if empty then f32One else ex2 we.pe.bind.ex2 dm
    let sum := v.s.getD 0 0
    let lNew := fma l alpha sum
    let a := { a with m := Cells.set f32NegInf i mNew a.m, l := Cells.set 0 i lNew a.l, n := Cells.set 0 i (fadd n (itof (v.s.getD 3 0))) a.n }
    let y := y.putAtt x.r.who a
    ((match c.scale with | some b => if alpha = f32One then y else { y with scales := y.scales ++ [(b + x.r.row, alpha)] } | none => y),
      (if empty then none else seqSite we 5 0 at0 dm m (fneg mNew) 0 <|> seqSite we 5 0 at0 alpha dm 0 0) <|> seqSite we 5 0 at0 lNew l alpha sum)

/-- The choice of a row block's pages (R206, R208): the pages' bounds are the MAX over the rows. -/
def Running.select (x : Running) (c : SelectSpec) : Core :=
  let bound := fun i => (List.range (c.rows - 1)).foldl (fun w r => fmax w (x.area (r + 1) i)) (x.area 0 i)
  let bs := x.att.bounds ++ (numbered c.pages).map fun p => (p.2, bound p.1)
  x.y.putAtt x.r.who (if c.last then { x.att with bounds := [], sel := x.att.sel ++ [choosePages c.att c.all bs] } else { x.att with bounds := bs })

/-! ### Writes -/

/-- Core ferry 1 sends writes (R115, R283), those to addresses of `bad` poisoned; the last of a tile command's last pass ends it (R340),
be it without bytes. -/
def State.sendWrites (s : State) (x : Running) (ws : List (Nat × List Byte)) (out : Option Nat) (final : Bool) (bad : List Nat := []) : State :=
  let ws := if ws.isEmpty && final then [(0, [])] else ws
  let n := ws.length
  let total := ws.foldl (fun n w => n + w.2.length) 0
  let s := (s.count (3072 + 6 * x.k + 3) total).count (3072 + 6 * x.k + 4) (cdiv total 64)
  { s with writes := s.writes ++ (numbered ws).map fun z =>
      { ctx := x.t.ctx, uid := x.t.uid, exec := x.t.exec, core := x.k, addr := z.2.1, data := z.2.2, poison := bad.contains z.2.1
        out := if z.1 + 1 = n then out else none, last := final && z.1 + 1 == n : Pending } }

/-- Writes of a row of values into a buffer or slot of core memory, in the format of what the run writes (R24, R101, R126, R147). -/
def coreRow (m : Mem) (f : Fmt) (t : Tensor) (row col : Nat) (vs : List Word) : List (Nat × List Byte) :=
  let e := encodeRun f vs
  let w := t.fmt.elem.width
  let n := vs.length + t.tailPads (col + vs.length)
  let a := t.rowAddr row 0 0
  let m := putCodes m 32 a w col (e.1.map (widenFp6 f.elem) ++ List.replicate (n - vs.length) t.pad) false
  (a + col * w / 8, m.read (a + col * w / 8) (cdiv (col * w % 8 + n * w) 8)) ::
    (if t.fmt.mx then [(t.scaleAddr (col / 32) row 0 0, e.2.map fun z => BitVec.ofNat 8 z)] else [])

def State.l1Puts (s : State) (k : Nat) (ws : List (Nat × List Byte)) : State := ws.foldl (fun s w => s.l1Write k w.1 w.2 false) s

/-- The values that a run has stored of a row. -/
def Running.vals (x : Running) (y : Core) (r : Nat) : List Word :=
  let h := x.h.span r
  Cells.getRun 0 (2 ^ 24 * r) (h.2 - h.1) y.outTile

/-- The writes of a row and of its STAT record (R124, R138, R221). -/
def Running.rowOut (x : Running) (s : State) (y : Core) (r : Nat) : List (Nat × List Byte) × List (Nat × List Byte) :=
  let at_ := x.h.at_ r (x.h.span r).1
  (x.h.store s.mem r (x.vals y r),
    match x.h.stat r with
    | some (t, i) => rowWrites s.mem t (4 * i) at_.row at_.bat at_.d3 (Cells.getRun 0 (4 * r) 4 y.statTile)
    | none => [])

/-! ### The end of a run -/

/-- Is the run the last of its tile command. -/
def Running.final (x : Running) : Bool := x.r.role == 2 && x.w.closed && decide (x.w.passes.length ≤ x.r.pass + 1)

/-- The core after a run: its result area and buffers are free; after the last run its tile command leaves, but for output slots that still
drain (R70, R116, R372). -/
def Running.over (x : Running) (y : Core) : Core :=
  let mine := fun (q : Slot) => q.who == x.r.who && match x.w.fills[q.fill]?, q.operand with
    | some f, .stream p _ => p == x.h.posy && f.pass == x.h.bufPass x.r.row
    | some f, .act => x.r.role == 2 && (x.w.mat x.r.pass).isNone && f.operand == .act && decide (f.last ≤ x.r.pass)
    | _, _ => false
  let area := (x.w.areaOff + 262144 * x.r.area, x.r.who)
  let y := { y.dropSlots mine with veng := { y.veng with cur := none }, outTile := [], statTile := [] }
  let y := if x.r.role = 1 then y
    else { y with areas := if (x.w.mat x.r.pass).isSome then y.areas.erase area else y.areas, stored := if x.r.who = 1 then x.r.pass + 1 else y.stored }
  if x.final then
    let draining := (y.slots.filter fun q => q.who == x.r.who && q.st == .inUse && match q.operand with | .out _ => true | _ => false).map fun q =>
      { q with who := 3 + x.t.ctx }
    let y := y.strip x.r.who
    { y with slots := y.slots ++ draining }
  else y

/-- Core k after a run, with its next tile command in place if this one was the last to drain. -/
def State.runOver (s : State) (x : Running) : State :=
  let s := s.setCore x.k (x.over (s.core x.k))
  match s.workOf x.k 1 with
  | some (_, w) => s.setCore x.k ((s.core x.k).turnOver w)
  | none => s.setCore x.k (s.core x.k).promote

/-- The output slot of a pass. -/
def Core.outSlot (y : Core) (who pass : Nat) : Option Slot :=
  y.slots.find? fun q => q.who == who && q.fill == pass && match q.operand with | .out _ => true | _ => false

/-- The rows of a run fill its output slot, which core ferry 1 then drains (R103, R116): the state, and the rows of which the slot turns
out to hold poison (R291, R293). -/
def State.fillOut (s : State) (x : Running) (y : Core) (q : Slot) (t : Tensor) : State × List Nat :=
  let s := (List.range x.h.rows).foldl (fun (s : State) r => s.l1Puts x.k (coreRow (s.core x.k).mem x.h.out.fmt t r 0 (x.vals y r))) s
  let s := s.settleIn (.core x.k) [(q.off, q.size)] none
  (s.setCore x.k { s.core x.k with slots := (s.core x.k).slots.map fun z => if z = q then { z with st := .inUse } else z },
    (List.range x.h.rows).filter fun r => (s.core x.k).mem.poisoned 32 (t.rowAddr r 0 0) t.rowBytes)

/-- The end of a run: its rows go to the slot or buffer that takes them, or out through core ferry 1 (R103, R124, R126, R199). -/
def State.endRun (s : State) (x : Running) : State :=
  let y := s.core x.k
  let rows := List.range x.h.rows
  if x.r.role = 1 then
    match y.fillTensor x.w x.r.who x.r.pass with
    | none => s
    | some t =>
      let s := rows.foldl (fun s r => (x.h.runs r).foldl (fun s z =>
        s.l1Puts x.k (coreRow (s.core x.k).mem x.h.out.fmt t z.1 z.2.1 (((x.vals y r).drop (z.2.2.1 - (x.h.span r).1)).take z.2.2.2))) s) s
      (s.setCore x.k ((s.core x.k).markFill x.r.who x.r.pass .full)).runOver x
  else
    let s := match x.h.buf with
      | some f => rows.foldl (fun s r => let b := f r; s.l1Puts x.k (coreRow (s.core x.k).mem x.h.out.fmt b.1 b.2.1 b.2.2 (x.vals y r))) s
      | none => s
    let s := match x.h.die with
      | some (d, t, pos) => rows.foldl (fun s r =>
          (rowWrites (s.dieBuf.getD d {}) t (pos r).2 (pos r).1 0 0 (x.vals y r)).foldl (fun s w => (s.bufWrite d w.1 w.2 false).count (4704 + 4 * d + 1) w.2.length) s) s
      | none => s
    let outs := rows.map (x.rowOut s y)
    let ws := if x.h.role = 3 then [] else outs.flatMap (fun o => o.1) ++ outs.flatMap (fun o => o.2) ++ x.h.tail (x.env s).pe.bind x.att s.mem
    let slot := y.outSlot x.r.who x.r.pass
    let (s, bad) := match slot, x.h.slot with
      | some q, some (_, g) => s.fillOut x y q (g.tensor false q.off)
      | _, _ => (s, [])
    let bad := bad.flatMap fun r => ((outs[r]?.map fun o => o.1).getD []).map fun w => w.1
    (s.sendWrites x ws (slot.map fun q => q.off) (x.final && x.h.role != 3) bad).runOver x

/-! ### Runs -/

/-- Do two boxes cover the same output: they differ in K alone (R107). -/
def sameOutput (a b : List (Nat × Nat)) : Bool := (List.range 7).all fun d => d == 2 || a[d]? == b[d]?

/-- The tile commands of earlier parts of the same output have ended and their writes are home (R108). -/
def State.partsHome (s : State) (t : TileCmd) (j : TileJob) : Bool :=
  let bs := j.w.boxes 0
  let before := fun n => decide (n < t.num) && match bs[n]? with | some b => sameOutput b.1 t.box | none => false
  let left := match t.exec with
    | none => j.m.unplaced
    | some e => ((j.m.steps.tiles.find? fun (x : Nat × List Nat × Nat) => x.1 == e).map fun (x : Nat × List Nat × Nat) => x.2.1).getD []
  let mine := fun (x : TileCmd) => x.ctx == t.ctx && x.uid == t.uid && x.exec == t.exec && before x.num
  !left.any before && !(s.cores.any fun y => (y.prev.toList ++ y.run.toList ++ y.wait.toList).any mine) &&
    !((s.ctx t.ctx).savedCores.any fun v => (v.state.prev.toList ++ v.state.run.toList).any mine) &&
    !s.writes.any fun q => q.ctx == t.ctx && q.uid == t.uid && q.exec == t.exec

/-- The partial sums of a pass's rows, from the result area (R69). -/
def Running.partRow (x : Running) (line : Nat) : List Word :=
  let h := x.h.span 0
  (List.range (h.2 - h.1)).map fun j => x.area line (h.1 + j)

/-- The running sum joins the result area (R85, R107): core memory after it, and the first NaN of an addition. -/
def Running.foldSum (x : Running) (s : State) (p : SplitSpec) : Mem × Option NanSite :=
  (List.range p.rows).foldl (fun (acc : Mem × Option NanSite) r =>
    let f := foldIn (x.env s) (p.sum s.mem r) (x.partRow r) (p.coord r)
    (acc.1.write 32 (x.w.areaOff + 262144 * x.r.area + 4096 * r) (f.1.flatMap fun v => leBytes 4 v.toNat) false, acc.2 <|> f.2)) (x.y.mem, none)

/-- Device memory that a later part's running sum comes from. -/
def Running.sumBytes (x : Running) (s : State) (p : SplitSpec) : List (Nat × Nat) :=
  (List.range p.rows).flatMap fun r => (p.put s.mem r (x.partRow r)).map fun w => (w.1, w.2.length)

/-- Statistic slots at the start of a row (R138). -/
def Prog.slots : Prog → List Word
  | .posy p => p.kinds.map statStart
  | .score _ => [statStart 0, statStart 2, 0, 0]
  | _ => [0, 0, 0, 0]

/-- What a run waits for before it starts: the stores that it would overwrite (R147, R227), another tile command's use of a buffer,
the parts before its own (R108), its fill, and a FREE output slot (R116). -/
def State.mayStart (s : State) (x : Running) : Bool :=
  (x.r.who == 0 || decide (x.h.waitIssue ≤ x.y.pos.pass)) &&
  (x.h.buf.isNone || x.r.who == 0 || x.y.prev.isNone) &&
  (match x.h.split with | some p => p.first || s.partsHome x.t x.w.job | none => true) &&
  (match x.h.fill with | some j => x.y.holdsFill x.r.who j | none => true) &&
  (match x.h.slot with
    | some (o, _) => let z := x.y.nextSlot x.t x.w o; !x.y.busy (s.heldBufs x.k x.r.who) z.1 z.2
    | none => true)

/-- The engine takes a run: fresh statistic slots, its output slot FILLING; a pass without a matrix part is issued by that. -/
def Running.begin (x : Running) : Core :=
  let start := x.h.prog.slots
  let y := { x.y with veng := { x.y.veng with queue := x.y.veng.queue.erase x.r, cur := some x.r, s := start, s1 := start }, outTile := [], statTile := [] }
  let y := match x.h.fill with | some j => y.markFill x.r.who j .inUse | none => y
  let y := match x.h.slot with
    | some (o, _) =>
      let z := y.nextSlot x.t x.w o
      { y.ringOn x.t o with slots := y.slots ++ [{ who := x.r.who, operand := o, fill := x.r.pass, off := z.1, size := z.2, st := .filling }] }
    | none => y
  if x.r.role = 2 && (x.w.mat x.r.pass).isNone && y.pos.pass = x.r.pass && x.r.who = 1 then
    { y with pos := { pass := x.r.pass + 1, base := y.pos.base } }.turnOver x.w
  else y

/-- The run that core k is at, as it stands. -/
def State.running (s : State) (k : Nat) (r : Run) : Option Running :=
  match s.onCore k r.who with
  | none => none
  | some (y, t, w) => (w.runOf r).map fun h => { k := k, y := y, t := t, w := w, r := r, h := h }

/-- Are all stream buffers of a run there (R131). -/
def Running.streamsReady (x : Running) : Bool :=
  match x.h.prog with
  | .posy p => p.streams.all fun q => match x.y.bufferOf x.w x.r x.h q.slot with | some (b, _) => b.readable | none => false
  | _ => true

/-- May a queued prologue go before the epilogues: it is of the earliest tile command on the core, or its stream buffers are there too.
(DEDUCED: one that waited for buffers which an earlier tile command still holds would hold the engine for ever.) -/
def Running.goesFirst (x : Running) : Bool := x.r.who == (if x.y.prev.isSome then 0 else 1) || x.streamsReady

/-- The run that starts next (R129): a queued prologue, else the first epilogue of the queue, else a pass without a matrix part once all
before it have stored. -/
def State.nextRun (s : State) (k : Nat) : Option Run :=
  let y := s.core k
  let first := fun (r : Run) => r.role == 1 && match s.running k r with | some x => x.goesFirst | none => false
  match y.veng.queue.find? first <|> y.veng.queue.find? fun r => r.role != 1 with
  | some r => some r
  | none =>
    match s.onCore k 1 with
    | some (y, _, w) =>
      if y.prev.isNone && decide (y.pos.pass < w.passes.length) && (w.mat y.pos.pass).isNone && y.stored == y.pos.pass then
        some { who := 1, role := 2, pass := y.pos.pass }
      else none
    | none => none

/-- POSY_RUN_START (R129, R107): the next run takes the engine; a run without rows is over at once, and a part before the last only
stores its sums. -/
def execPosyRunStart (k : Nat) (s : State) : Host.Outcome State Fault Refusal :=
  .next (
    let y := s.core k
    if y.veng.cur.isSome then s
    else match (s.nextRun k).bind (s.running k) with
      | none => s
      | some x =>
        if !s.mayStart x then s
        else
          let s' := s.setCore k x.begin
          let r := (x.begin.veng.cur).getD x.r
          let x' := { x with r := r, y := x.begin }
          match x.h.split with
          | none => if x.h.rows = 0 then s'.endRun x' else s'
          | some p =>
            let mine := (List.range p.rows).map fun r => x'.areaBytes r 0 ((x.h.span 0).2 - (x.h.span 0).1)
            let s' := (if p.first then s' else s'.settle (x.sumBytes s p) (some x.t.ctx)).settleIn (.core k) mine (some x.t.ctx)
            let x' := { x' with y := s'.core k }
            if (!p.first && (x.sumBytes s p).any fun b => s'.mem.poisoned 64 b.1 b.2) || mine.any fun b => x'.y.mem.poisoned 32 b.1 b.2 then
              s'.faultCtx x.t.ctx 0x310 (some x.t.uid)
            else
              let f := if p.first then (x'.y.mem, none) else x'.foldSum s' p
              let s' := s'.setCore k { s'.core k with mem := f.1 }
              let x' := { x' with y := s'.core k }
              let s' := if p.last then s'
                else (s'.sendWrites x' ((List.range p.rows).flatMap fun r => p.put s'.mem r (x'.partRow r)) none x'.final).runOver x'
              s'.nanOf x.t f.2)

/-- Where a run stands after one more instruction: the next position, and whether a sweep, a row, the run is over. -/
def Running.advance (x : Running) : Run × Bool × Bool × Bool :=
  let r := x.r
  let (len, split) := x.h.prog.shape
  let stage := fun n => match x.h.prog with | .posy p => stageOf p.code n | _ => 0
  let stop := if r.sweep = 0 ∧ split ≠ 0 then split else len
  let start := if r.sweep = 0 then 0 else split
  if r.pc + 1 < stop then ({ r with pc := r.pc + 1, stage := stage (r.pc + 1) }, false, false, false)
  else if r.chunk + 1 < cdiv (x.hi - x.lo) 128 then ({ r with pc := start, chunk := r.chunk + 1, stage := stage start }, false, false, false)
  else if r.sweep = 0 ∧ split ≠ 0 then ({ r with pc := split, chunk := 0, sweep := 1, stage := stage split }, true, false, false)
  else ({ r with pc := 0, chunk := 0, sweep := 0, stage := 0, row := r.row + 1 }, false, true, decide (x.h.rows ≤ r.row + 1))

/-- One instruction of a posy over its chunk: the core after it, lanes stored included, and its first NaN, that of forming the chunk's
inputs first. -/
def Running.posyStep (x : Running) (s : State) (p : Posy) : Core × Option NanSite :=
  match p.code[x.r.pc]? with
  | none => (x.y, none)
  | some i =>
    let res := x.res s (x.bare s)
    let o := stepInstr (s.bound x.w.job.m.banks) p (x.chunk s p res.1) i x.y.veng
    let coord := fun l => x.h.coord x.r.row (x.col l)
    let pre := if x.r.pc != 0 || x.r.sweep != 0 then none
      else res.2 <|> (x.h.statRd.bind fun f => firstLane x.n fun l => (List.range 4).findSome? fun slot => (f (x.env s) s.mem x.r.row (x.col l) slot).2)
    let site := o.nan.map fun n =>
      ({ inA := n.a, inB := n.b, inC := n.c, coord := coord n.lane, core := x.k, site := x.h.role + 1, unit := x.r.stage, cause := n.cause } : NanSite)
    let out := match o.stored with
      | some vs => Cells.setRun 0 (2 ^ 24 * x.r.row + 128 * x.r.chunk) (vs.take x.n) x.y.outTile
      | none => x.y.outTile
    ({ x.y with veng := o.y, outTile := out }, pre <|> site)

/-- The step of the run's program: the state with the core and the writes of a fixed sequence, and the first NaN. -/
def Running.step (x : Running) (s : State) : State × Option NanSite :=
  let (_, sweepOver, rowOver, _) := x.advance
  match x.h.prog with
  | .posy p => let o := x.posyStep s p; (s.setCore x.k o.1, o.2)
  | .score c =>
    let o := x.score s c
    if sweepOver || rowOver then
      let e := x.scoreEnd s c o.1
      (s.setCore x.k e.1, o.2 <|> e.2)
    else (s.setCore x.k o.1, o.2)
  | .select c => (s.setCore x.k (x.select c), none)
  | .fixed f =>
    let o := f.go (x.env s) s.mem x.r.row (128 * x.r.chunk) x.n
    (s.sendWrites x o.1 none (x.final && x.advance.2.2.2), o.2)

/-- The engine after a step: the switch of sweeps (R145), the end of a row with its STAT record (R138), the next position. -/
def Running.moved (x : Running) (y : Core) : Core :=
  let (r, sweepOver, rowOver, _) := x.advance
  let v := y.veng
  let isPosy := match x.h.prog with | .posy _ => true | _ => false
  let v := if sweepOver && isPosy then { v with s1 := v.s, v := [], p := [] } else v
  let stat := if rowOver then Cells.setRun 0 (4 * x.r.row) v.s y.statTile else y.statTile
  let v := if rowOver then { v with s := x.h.prog.slots, s1 := x.h.prog.slots } else v
  let left := fun (q : Slot) => rowOver && x.h.bufPass (x.r.row + 1) != x.h.bufPass x.r.row && q.who == x.r.who && match x.w.fills[q.fill]?, q.operand with
    | some f, .stream p _ => p == x.h.posy && f.pass == x.h.bufPass x.r.row
    | _, _ => false
  { y.dropSlots left with veng := { v with cur := some r }, statTile := stat }

/-- Core cycles of the chunk that the run is about to end (R148, R202, R276), 0 before its last instruction; none where the spec states
no cost. -/
def Running.cost (x : Running) (s : State) : Option Nat :=
  let (len, split) := x.h.prog.shape
  let stop := if x.r.sweep = 0 ∧ split ≠ 0 then split else len
  if x.r.pc + 1 < stop then some 0
  else match x.h.prog with
    | .posy p => some ((x.env s).pe.bind.chunkCost ((p.code.take stop).drop (if x.r.sweep = 0 then 0 else split)))
    | .score c =>
      let q := b2n c.ab.att.causal + b2n c.ab.att.blockDiag + b2n c.ab.att.bitMask
      some (if x.r.sweep = 0 then 2 + 2 * q else 10 + 2 * q + 16 * b2n x.advance.2.2.1)
    | .select c => some (2 * c.pages.length)
    | .fixed f => f.cost

/-- POSY_INSTRUCTION (R140, R150): one instruction of the current run over its chunk, or one chunk of a fixed program; it waits for its
stream buffer, and under a cap for a cycle that may issue (R425). Poison that it uses and an address that device memory does not have fault
its context (R294, Table 14.11). -/
def execPosyInstruction (k : Nat) (par : Bool) (s : State) : Host.Outcome State Fault Refusal :=
  .next (
    match (s.core k).veng.cur.bind (s.running k) with
    | none => s
    | some x =>
      let turn := s.setCore k { x.y with veng := { x.y.veng with cycle := (x.y.veng.cycle + 1) % 4 } }
      if !isSlot (s.topPhase (k / 64)) x.y.veng.cycle then turn
      else if x.y.waitsForStream x.w x.r x.h then turn.coreCount k 10 1
      else if par then s.drawn.parityFault k x.t.ctx x.t.uid 0x313 6 (64 * (Config.freeNat s.free % 64))
      else if x.deviceBytes.any fun b => b.2 != 0 && !inDevice b.1 b.2 then s.faultCtx x.t.ctx 0x316 (some x.t.uid)
      else
        let s := (turn.settle x.deviceBytes (some x.t.ctx)).settleIn (.core k) x.coreBytes (some x.t.ctx)
        let y := s.core k
        if (x.coreBytes.any fun b => y.mem.poisoned 32 b.1 b.2) || x.deviceBytes.any fun b => s.mem.poisoned 64 b.1 b.2 then
          s.faultCtx x.t.ctx 0x310 (some x.t.uid)
        else
          let y := match (x.h.readsStream x.r).bind (x.y.bufferOf x.w x.r x.h) with | some (q, _) => y.markFill q.who q.fill .inUse | none => y
          let x := { x with y := y }
          let (s, nan) := x.step (s.setCore k y)
          let special := match x.h.prog with | .posy p => (x.env s).pe.bind.pipes (p.code[x.r.pc]?).toList 2 | _ => 0
          let s := (s.coreCount k 9 special).coreCount k 8 ((x.cost s).getD (Config.freeNat s.free))
          let (_, _, rowOver, over_) := x.advance
          let done := x.moved (s.core k)
          let s := if rowOver && x.h.role == 3 then
              (match x.h.prog with
                | .posy _ => let o := x.rowOut s done x.r.row; s.sendWrites x (o.1 ++ o.2) none (x.final && over_)
                | _ => s)
            else s
          let s := s.setCore k done
          (if over_ then s.endRun x else s).nanOf x.t nan)

end Sys2Proof.Machine
end

