-- ==== Sys2Proof/Machine/Place.lean ====
section
/-! DEFINITION. Placement of tile commands on cores, restoring of saved ones, time slices and victims (14 R372 to R377,
R382, 09 R238). -/

namespace Sys2Proof.Machine

/-! ### Cores a context may use -/

/-- Table 14.8: the dies in scan order from a home die. -/
def dieOrder (home : Nat) : List Nat :=
  match home with
  | 0 => [0, 1, 2, 3]
  | 1 => [1, 0, 3, 2]
  | 2 => [2, 0, 3, 1]
  | _ => [3, 1, 2, 0]

/-- The core range of a bounded context (R388). -/
def Ctx.range (x : Ctx) : Option (Nat × Nat) :=
  match x.blk with
  | some b => if b.bounded then some (b.bcoreFirst, b.bcoreCount) else none
  | none => none

/-- Is core k in a live bounded context's range. -/
def State.ranged (s : State) (k : Nat) : Bool :=
  s.ctxs.any fun x => x.live && match x.range with | some r => decide (r.1 ≤ k) && decide (k < r.1 + r.2) | none => false

/-- The cores that context c may use, in scan order from a home die (R372, R373). -/
def State.scan (s : State) (c home : Nat) : List Nat :=
  match (s.ctx c).range with
  | some r => (List.range r.2).map fun i => r.1 + i
  | none => ((dieOrder home).flatMap fun d => (List.range 64).map fun i => 64 * d + i).filter fun k => !s.ranged k

/-- The last pass of a tile command that the matrix unit runs. -/
def TileWork.lastMat (w : TileWork) : Option Nat :=
  (numbered w.passes).foldl (fun a p => if p.2.mat.isSome then some p.1 else a) none

/-- The running tile command has begun its last pass: the matrix unit has made that pass's first issue, or there is none and its
last run has begun (R238). -/
def Core.lastPass (y : Core) (w : TileWork) : Bool :=
  w.closed && match w.lastMat with
    | some i => decide (i < y.pos.pass) || (i == y.pos.pass && !(y.pos.seg == 0 && y.pos.entry == 0 && y.pos.row == 0))
    | none => decide (w.passes.length ≤ y.pos.pass)

/-- Is core k eligible for a tile command of a command, or of an execution of a list: free, or running one of it with none behind
(R238, R372). -/
def State.takes (s : State) (k c uid : Nat) (exec : Option Nat) : Bool :=
  let y := s.core k
  y.wait.isNone && match y.run with
    | none => true
    | some t => (t.ctx == c && t.uid == uid && t.exec == exec) || match s.workOf k 1 with | some (_, w) => y.lastPass w | none => false

/-- An idle core (R382): nothing runs, and core ferry 1 has drained it. -/
def Core.idle (y : Core) : Bool := y.prev.isNone && y.run.isNone && y.wait.isNone && y.veng.queue.isEmpty && y.veng.cur.isNone && y.slots.isEmpty

/-! ### What a context has to place -/

/-- The next thing to place: a saved core, or tile command `num` of a command or of an execution of its list. -/
inductive Ready where
  | saved (q : Saved)
  | tile (uid : Nat) (exec : Option Nat) (num : Nat)
  deriving DecidableEq, Repr

/-- The tile command that a command places next: of a list, one of the earliest execution that has one left (R237). -/
def Cmd.nextTile (m : Cmd) : Option (Option Nat × Nat) :=
  match m.unplaced with
  | n :: _ => some (none, n)
  | [] =>
    (m.steps.tiles.foldl (fun (a : Option (Nat × Nat)) (x : Nat × List Nat × Nat) =>
      match x.2.1, a with
      | [], _ => a
      | n :: _, none => some (x.1, n)
      | n :: _, some b => if x.1 < b.1 then some (x.1, n) else some b) none).map fun x => (some x.1, x.2)

/-- Are there tile commands of command i to place: in its turn, or ahead of it once all of the earlier commands' are placed (R353). A
codec unit has none. -/
def Ctx.places (x : Ctx) (i : Nat) (m : Cmd) : Bool :=
  (x.inOrder i m || (x.ahead i m && (x.earlier i m.ring).all Cmd.allPlaced)) &&
    match m.job with | some (.work w) => w.computes | some (.steps _) => true | none => false

/-- What context c would place next (R373, R382). -/
def State.toPlace (s : State) (c : Nat) : Option Ready :=
  let x := s.ctx c
  if !(s.awake && x.runs) then none
  else match x.savedCores with
    | q :: r => some (.saved (r.foldl (fun (a : Saved) (b : Saved) => if b.core < a.core then b else a) q))
    | [] =>
      (numbered x.cmds).findSome? fun e =>
        if !x.places e.1 e.2 then none else e.2.nextTile.map fun n => .tile e.2.uid n.1 n.2

/-- Tile command `num` of a job, with the core memory that its save holds (R103, R379). -/
def TileJob.cmd (j : TileJob) (c homeDie : Nat) (exec : Option Nat) (num : Nat) : Option TileCmd :=
  match (j.w.boxes homeDie)[num]? with
  | none => none
  | some b =>
    let t : TileCmd := { ctx := c, uid := j.m.uid, exec := exec, num := num, box := b.1, part := j.w.partOf b.1, home := b.2, regions := [] }
    some { t with regions := ((j.tile t {}).map TileWork.regions).getD [] }

/-- The tile command that is to be placed. -/
def State.tileOf (s : State) (c uid : Nat) (exec : Option Nat) (num : Nat) : Option TileCmd :=
  (s.jobOf c uid exec).bind fun j => j.cmd c (s.ctx c).homeDie exec num

/-- The home die of what is to be placed (R373). -/
def State.homeOfReady (s : State) (c : Nat) : Ready → Nat
  | .saved q => match q.state.prev.toList ++ q.state.run.toList with | t :: _ => t.home | [] => (s.ctx c).homeDie
  | .tile u e n => match s.tileOf c u e n with | some t => t.home | none => (s.ctx c).homeDie

/-- The core it goes to. -/
def State.coreFor (s : State) (c : Nat) (r : Ready) : Option Nat :=
  (s.scan c (s.homeOfReady c r)).find? fun k =>
    match r with
    | .saved _ => (s.core k).idle
    | .tile u e _ => s.takes k c u e

/-- The victim of a waiting context, among less urgent unbounded contexts that hold cores it could use (R376). -/
def State.victim (s : State) (c : Nat) (r : Ready) : Option Nat :=
  let ks := s.scan c (s.homeOfReady c r)
  let vs := (List.range s.ctxs.length).filter fun v =>
    let x := s.ctx v
    !x.bounded && x.runs && decide ((s.ctx c).prio < x.prio) && ks.any fun k => (s.core k).runsFor v || (s.core k).waitsFor v
  let key := fun v => (s.ctx v).sliceStart.elim 0 fun t => t.toNat
  match vs with
  | [] => none
  | v :: r => some (r.foldl (fun a b =>
      if (s.ctx a).prio < (s.ctx b).prio ∨ ((s.ctx b).prio = (s.ctx a).prio ∧ key b < key a) then b else a) v)

/-- Does context c compete for the dispatch of the sequencer cores: it can place, or it can pre-empt a victim. -/
def State.competes (s : State) (c : Nat) : Bool :=
  match s.toPlace c with
  | none => false
  | some r => (s.coreFor c r).isSome || (s.victim c r).isSome

/-! ### Slices -/

/-- SLICE of a context in ticks; 0 means 2 ms (Table 14.1). -/
def Ctx.slice (x : Ctx) : Nat :=
  match x.blk with
  | some b => if b.slice = 0 then 2000000 else b.slice
  | none => 2000000

/-- A slice begins, or is forgone while the debt covers it (R375, R377): the context and whether it may hold cores. -/
def Ctx.beginSlice (x : Ctx) (now : Tick) : Ctx × Bool :=
  if x.slice ≤ x.debt then ({ x with debt := x.debt - x.slice }, false)
  else ({ x with sliceStart := some now, sliceLen := x.slice - x.debt, debt := 0 }, true)

/-- A grant of a core to a context: an unbounded one that holds none begins a slice, if its debt lets it. -/
def State.grantSlice (s : State) (c : Nat) : State × Bool :=
  let x := s.ctx c
  if x.bounded || s.holds c then (s, true)
  else
    let r := x.beginSlice s.now
    (s.setCtx c r.1, r.2)

/-! ### The placement -/

/-- A tile command goes to a core: it begins, or waits behind the running one. -/
def Core.accept (y : Core) (t : TileCmd) : Core :=
  let z := { y with wait := some t, aheadFill := 0 }
  if y.run.isNone then z.promote else z

/-- A command after one of its tile commands is placed. -/
def Cmd.placed (m : Cmd) (exec : Option Nat) (num : Nat) : Cmd :=
  match exec with
  | none => { m with phase := .started, unplaced := m.unplaced.erase num }
  | some e => { m with steps := { m.steps with tiles := m.steps.tiles.map fun x => if x.1 = e then (e, x.2.1.erase num, x.2.2) else x } }

/-- A tile command goes to core k (R103, R373). -/
def State.placeTile (s : State) (c k uid : Nat) (exec : Option Nat) (num : Nat) : State :=
  match (s.ctx c).byUid uid, s.tileOf c uid exec num with
  | some m, some t => ((s.setCore k ((s.core k).accept t)).putCmd c (m.placed exec num)).count (9584 + 6 * c + 1) 1
  | _, _ => s

/-- Banks after a restore: those of the save, and others that now are no longer resident (R63, R382). -/
def Core.restoredBanks (y z : Core) : List Bank :=
  (List.range 2).map fun b =>
    let q := z.banks.getD b {}
    if q.owner.isSome then q else { y.banks.getD b {} with resident := (y.banks.getD b {}).resident && !(z.banks.any fun x => x.owner.isSome) }

/-- A saved core goes from its slot into core k (R89, R382): what was left there of other commands' rings and banks stands. -/
def State.restore (s : State) (c k : Nat) (q : Saved) : State :=
  let a := (s.ctx c).slotAddr q.core
  let s := (s.settle [(a, slotBytes)]).carryFrom [(a, slotBytes)] (k / 64)
  let x := s.ctx c
  let y := s.core k
  let z := q.state.fromSlot s.mem a
  (s.setCore k { z with banks := y.restoredBanks z, rings := z.rings ++ y.rings }).setCtx c
    { x with savedCores := x.savedCores.erase q }

/-- A pre-empted context goes on. -/
def State.goOn (s : State) (c : Nat) : State :=
  let x := s.ctx c
  if x.preempted then (s.setCtx c { x with preempted := false }).writeLine c else s

/-- TILE_PLACE c (R372, R373, R376, R382): the sequencer cores' dispatch serves context c. With no core for what it has
to place, the victim is pre-empted; a pre-empted context with nothing to place just goes on. -/
def execTilePlace (c : Nat) (s : State) : Host.Outcome State Fault Refusal :=
  .next (
    match s.toPlace c with
    | none => if s.awake && (s.ctx c).runs then s.goOn c else s
    | some r =>
      if s.winner dispatchRes false ((List.range s.ctxs.length).filter s.competes) != some c then s
      else match s.coreFor c r with
        | none => match s.victim c r with | some v => s.preemptCtx v | none => s
        | some k =>
          let g := (s.granted dispatchRes c).grantSlice c
          if !g.2 then g.1
          else match r with
            | .saved q => (g.1.goOn c).restore c k q
            | .tile u e n => (g.1.goOn c).placeTile c k u e n)

/-! ### The end of a save -/

/-- PREEMPT_SAVE_DONE (R378, R383): the last write of a save reached its home, and PREEMPT is complete. A parity error in a register that
the save read (core, log source) is a fault, and the save is abandoned (R91); a NaN of groups that were in flight halts the context (R53). -/
def execPreemptSaveDone (e : SaveEnd) (s : State) : Host.Outcome State Fault Refusal :=
  .next (
    let c := e.ctx
    let x := s.ctx c
    if !s.up || !x.saving then s
    else match e.par.bind fun p => (x.savedCores.find? fun v => v.core == p.1).map fun v => (p, v) with
      | some (p, v) =>
        (match v.state.prev.toList ++ v.state.run.toList with
          | t :: _ => s.drawn.parityFault p.1 c t.uid (parityCode p.2) p.2 (64 * (Config.freeNat s.free % 1024))
          | [] => s)
      | none =>
        let s := s.setCtx c { x with saving := false }
        let s := match x.lateNan with
          | some n => (s.setCtx c { s.ctx c with lateNan := none }).nanFor c n.uid n.exec (some n.site)
          | none => s
        let s := if (s.ctx c).halted then s else s.writeLine c
        if s.opIs 3 c then s.finishOp c 0 else s)

/-! ### The end of a slice -/

/-- Does another context of equal or more urgent priority wait for a core that c holds. -/
def State.rival (s : State) (c : Nat) : Bool :=
  (List.range s.ctxs.length).any fun v =>
    v != c && decide ((s.ctx v).prio ≤ (s.ctx c).prio) && match s.toPlace v with
      | none => false
      | some r => (s.coreFor v r).isNone &&
          (s.scan v (s.homeOfReady v r)).any fun k => (s.core k).runsFor c || (s.core k).waitsFor c

/-- SLICE_EXPIRY c (R375 to R377): the slice of an unbounded context has ended; it is pre-empted if a rival waits, else a
new slice begins at once. -/
def execSliceExpiry (c : Nat) (s : State) : Host.Outcome State Fault Refusal :=
  .next (
    let x := s.ctx c
    match x.sliceStart with
    | none => s
    | some t =>
      if x.bounded || !s.up || !x.runs || !s.holds c || decide (s.now.toNat - t.toNat < x.sliceLen) then s
      else if s.rival c then s.preemptCtx c
      else
        let r := x.beginSlice s.now
        s.setCtx c (if r.2 then r.1 else { r.1 with sliceStart := some s.now, sliceLen := 0 }))

end Sys2Proof.Machine
end

