-- ==== Sys2Proof/Machine/Power.lean ====
section
/-! DEFINITION. Power limit, thermal limits, AVSBus, timebase and activity states (spec file 16). Temperatures are in
1/8 °C, package power in units of 0.125 W, voltages in 0.1 mV. -/

namespace Sys2Proof.Machine

/-- Ticks since an instant. -/
def State.since (s : State) (t : Tick) : Nat := s.now.toNat - t.toNat

/-- Sends the THROTTLE and THERMAL messages that are due, each at most once per 1 ms (R434). -/
def State.powerMsgs (s : State) : State :=
  let due := fun (t : Option Tick) => match t with | some t => decide (1000000 ≤ s.since t) | none => true
  let s1 :=
    if s.power.throttlePending && due s.power.lastThrottle then
      State.message { s with power := { s.power with throttlePending := false, lastThrottle := some s.now } } 0x11 0 0 0 false 0 s.pwrCap
    else s
  match s1.power.thermalPending with
  | u :: r =>
    if due s1.power.lastThermal then
      let t := s1.power.temps.getD u (0, 0)
      State.message { s1 with power := { s1.power with thermalPending := r, lastThermal := some s1.now } } 0x12 0 0 0 false 0
        (u + satCode 16 (max t.1 t.2) * 2 ^ 16)
    else s1
  | [] => s1

/-- Notes a change of PWR_CAP against an earlier value (R434). -/
def State.noteCap (s : State) (old : Nat) : State :=
  if s.pwrCap = old then s else { s with power := { s.power with throttlePending := true } }

/-- One sample of package power, in units of 0.125 W: the AVSBus rails and 60 W (R426). -/
def packagePower (rails : List (Nat × Nat)) : Nat :=
  (rails.foldl (fun n r => n + r.1 * r.2) 0) * 8 / 100000 + 480

/-- The power cap after a sample (R426); `lastPowerMove` is the last move to a more restrictive code. -/
def Power.capStep (p : Power) (watts : Nat) (now : Tick) : Power :=
  let ago := fun (t : Tick) => now.toNat - t.toNat
  if watts * 8 < p.avg then
    let may := match p.lastPowerMove with | some t => decide (100000 ≤ ago t) | none => true
    if may then { p with powerCap := min (p.powerCap + 1) 3, lastPowerMove := some now, lowFrom := none }
    else { p with lowFrom := none }
  else if p.avg * 20 ≤ watts * 8 * 19 then
    match p.lowFrom with
    | none => { p with lowFrom := some now }
    | some t =>
      if 1000000 ≤ ago t then { p with powerCap := p.powerCap - 1, lowFrom := some now } else p
  else { p with lowFrom := none }

/-- POWER_SAMPLE (R426): the currents and voltages of the rails, the average, the power cap. -/
def execPowerSample (rails : List (Nat × Nat)) (s : State) : Host.Outcome State Fault Refusal :=
  .next (
    if !s.up || 4 ≤ s.power.cur || rails.length != 6 then s
    else
      let old := s.pwrCap
      let samples := (packagePower rails :: s.power.samples).take 100
      let avg := min (samples.foldl (· + ·) 0 / samples.length) 0xFFFF
      let p := { s.power with rails := rails, samples := samples, avg := avg }
      let p := p.capStep s.cfg.pwrLimit.toNat s.now
      (State.noteCap { s with power := p } old).powerMsgs)

/-- Is the reading a trip (Table 16.5). -/
def tripReading (junc stack : List Int) (hub : Int) : Bool :=
  junc.any (fun j => decide (920 ≤ j)) || stack.any (fun t => decide (800 ≤ t)) || decide (920 ≤ hub)

/-- A die's thermal cap and the instant its cool spell began, by the first matching row of Table 16.5. -/
def thermalStep (j t : Int) (cap : Nat) (cool : Option Tick) (now : Tick) : Nat × Option Tick :=
  if 840 ≤ j ∨ 760 ≤ t then (3, none)
  else if 824 ≤ j ∨ 744 ≤ t then (min (cap + 1) 3, none)
  else if j ≤ 800 ∧ t ≤ 720 then
    match cool with
    | none => (cap, some now)
    | some f => if 1000000 ≤ now.toNat - f.toNat then (cap - 1, some now) else (cap, some f)
  else (cap, none)

/-- A trip (R430): THERMTRIP_N, every island stops, no record or message; a pending apply is lost (R457). -/
def State.trip (s : State) : State :=
  { s.send .thermtrip with boot := { s.boot with thermtripN := false, life := .stopped }, shadow := none, snap := none }

/-- THERMAL_UPDATE (R429, R427, R430). -/
def execThermalUpdate (junc stack : List Int) (hub : Int) (s : State) : Host.Outcome State Fault Refusal :=
  .next (
    if !s.up || 4 ≤ s.power.cur || junc.length != 4 || stack.length != 4 then s
    else if tripReading junc stack hub then s.trip
    else
      let old := s.pwrCap
      let p := s.power
      let st := (List.range 4).map fun d =>
        thermalStep (junc.getD d 0) (stack.getD d 0) (p.thermalCap.getD d 0) (p.coolFrom.getD d none) s.now
      let caps := st.map fun x => x.1
      let hot := if 824 ≤ hub then true else if hub ≤ 800 then false else p.hot
      let changed := (List.range 4).filter fun d => caps.getD d 0 != p.thermalCap.getD d 0
      let changed := if hot = p.hot then changed else changed ++ [4]
      let p := { p with
        thermalCap := caps, coolFrom := st.map (fun x => x.2), hot := hot
        temps := (junc.zip stack) ++ [(hub, 0)]
        doubleRefresh := stack.map fun t => decide (680 < t)
        thermalPending := changed.foldl (fun l u => NatSet.add u l) p.thermalPending }
      (State.noteCap { s with power := p } old).powerMsgs)

/-- Range that the device sets on a rail (Table 16.6). -/
def railRange (i : Nat) : Nat × Nat := if i < 4 then (6500, 8500) else (7000, 8500)

/-- The next target of a rail: at most 10 mV away, raised only once the last one was reached (R432). -/
def railTarget (i old want : Nat) (reached : Bool) : Nat :=
  let r := railRange i
  let want := min (max want r.1) r.2
  if want ≤ old then max want (old - 100)
  else if reached then min want (old + 100) else old

/-- One regulator's answer (R432, R433). -/
def State.avsRail (s : State) (i : Nat) (a : AvsAnswer) : State :=
  let fault := fun (status : Nat) =>
    let new := !NatSet.mem i s.power.avsFault
    let s := { s with power := { s.power with avsFault := NatSet.add i s.power.avsFault, avsHeld := true, avsClearAt := none } }
    if new then s.message 0x13 0 0 0 false 0 (i + status * 2 ^ 16) else s
  match a with
  | .ok reached =>
    let s := { s with power := { s.power with avsFault := NatSet.del i s.power.avsFault } }
    if 5 ≤ i then s
    else
      let old := s.power.targets.getD i 8000
      let want := Config.voltage i (s.boot.otpByte (2584 + i)).toNat (s.power.temps.getD i (0, 0)).1
      let t := railTarget i old want reached
      if t = old then s
      else { s.send (.avs i t) with power := { s.power with targets := s.power.targets.set i t } }
  | .fault status => fault (status % 2 ^ 16)
  | .silent => fault 0xFFFF

/-- AVS_UPDATE (R432, R433): each adjustable rail; an absence of faults starts the 10 ms. -/
def execAvsUpdate (ans : List AvsAnswer) (s : State) : Host.Outcome State Fault Refusal :=
  .next (
    if !s.up || 4 ≤ s.power.cur then s
    else
      let old := s.pwrCap
      let s := (List.range (min ans.length 6)).foldl (fun s i => s.avsRail i (ans.getD i .silent)) s
      let p := s.power
      let s := if p.avsHeld && p.avsFault.isEmpty && p.avsClearAt.isNone
        then { s with power := { p with avsClearAt := some (s.now + 10000000) } } else s
      (s.noteCap old).powerMsgs)

/-- AVS_FAULT_CLEAR (R433): the fault has been absent for 10 ms. -/
def execAvsFaultClear (s : State) : Host.Outcome State Fault Refusal :=
  .next (
    match s.power.avsClearAt with
    | none => s
    | some t =>
      if !s.up || !s.power.avsHeld || s.now.toNat < t.toNat then s
      else
        let old := s.pwrCap
        (State.noteCap { s with power := { s.power with avsHeld := false, avsClearAt := none } } old).powerMsgs)

/-! ### Timebase (R417, R424, R462, R409) -/

/-- This device follows the host through PTM: alone on its board, or the board master (R417, R409). -/
def State.followsHost (s : State) : Bool :=
  bits s.cfg.board.toNat 7 6 == 0 || bits s.cfg.board.toNat 15 12 == s.boot.boardId

/-- PTM message when the lock changes (Table 16.7). -/
def State.setLock (s : State) (lock : Bool) : State :=
  let old := s.power.ptmLock
  let s := { s with power := { s.power with ptmLock := lock } }
  if old == lock then s else s.message 0x14 0 0 0 false 0 (b2n lock + satCode 16 s.power.ptmOffset * 2 ^ 16)

/-- A forward step of the timebase. -/
def State.stepTime (s : State) (d : Int) : State := { s with now := s.now + BitVec.ofNat 64 d.toNat }

/-- PTM_DIALOGUE (R417, R424, R462): the offset is host minus device; none when the dialogue failed. -/
def execPtmDialogue (offset : Option Int) (s : State) : Host.Outcome State Fault Refusal :=
  .next (
    if !s.up || !bit1 s.link.pcieStatus.toNat 11 || (4 ≤ s.power.cur && !s.power.exiting) then s
    else match offset with
      | none => s.setLock false
      | some d =>
        let s := s.count 9979 1
        let s := { s with power := { s.power with ptmOffset := clampInt (-32768) 32767 d } }
        let s :=
          if !s.followsHost && s.tbValid then s
          else if !s.tbValid then
            let s := s.stepTime d
            let stop := s.power.a4Stop.getD s.now
            { s.count 9972 (s.since stop) with tbValid := true, power := { s.power with a4Stop := none, slew := min d 0 } }
          else if 1000 < d then s.stepTime d
          else { s with power := { s.power with slew := d } }
        s.setLock (decide (d.natAbs ≤ 1000)))

/-! ### Activity states (R418 to R424) -/

/-- Exit latency and idle time before entry (Table 16.2), in ticks. -/
def exitLatency (d : Nat) : Nat := match d with | 0 => 0 | 1 => 2000 | 2 => 40000 | 3 => 2000000 | _ => 12000000
def idleTime (d : Nat) : Nat := match d with | 0 => 0 | 1 => 10000 | 2 => 200000 | 3 => 10000000 | _ => 50000000

/-- A SLIPWAY_WAIT that waits. -/
def Cmd.waiting (m : Cmd) : Bool := m.opcode == 0x11 && m.phase == .started

/-- The device waits on a slipway. -/
def State.slipWaiting (s : State) : Bool := s.ctxs.any fun x => x.alive && x.cmds.any Cmd.waiting

/-- Idle, but for the time since the host's last access (R419). -/
def State.idle (s : State) : Bool :=
  s.ctxs.all (fun x => !x.alive || (x.cmds.all Cmd.waiting && x.rings.all fun y => !y.en || y.paused || y.e == y.tail)) &&
  s.engines.all (fun g => g.unit.isNone) && s.mgmt.running.isNone && s.mgmt.fetched.isNone &&
  (!s.mgmt.active || s.mgmt.paused || s.mgmt.e == s.mgmt.tail) && s.shadow.isNone && s.snap.isNone

/-- May the device enter a state, by R420 apart from its latency. -/
def State.mayEnter (s : State) (d : Nat) : Bool :=
  (d < 3 || (s.ctxs.all (fun x => !x.holdsPins) && s.inPeers == 0)) &&
  (d < 4 || (bit1 s.link.pcieStatus.toNat 13 && bit1 s.link.pcieStatus.toNat 11 && !s.slipWaiting))

/-- The target state (R420, Table 16.3). -/
def State.targetState (s : State) : Nat :=
  let l := s.power.latTol.toNat
  let room := l - pollInterval l
  ((List.range (min s.power.maxDepth 4 + 1)).filter fun d => decide (exitLatency d ≤ room) && s.mayEnter d).foldl max 0

/-- Contents of the vector registers that power gating loses. -/
def lostRegs (draw k : Nat) : List (Nat × List Word) :=
  (List.range 64).map fun r => (r, (List.range 128).map fun i =>
    BitVec.ofNat 32 ((List.range 4).foldl (fun n b => n * 256 + (Config.freeByte draw (((k * 64 + r) * 128 + i) * 4 + b)).toNat) 0))

/-- Contents of the accumulators that power gating loses. -/
def lostAccs (draw k : Nat) : List (Nat × Word) :=
  (List.range 65536).foldl (fun l j => Cells.set 0 j (BitVec.ofNat 32 (Config.freeNat (Nat.pair draw (k * 65536 + j)))) l) []

/-- Entry to A2 or deeper empties the weight banks and loses the vector registers and accumulators, which nothing retains (R424, Table 16.2). -/
def State.gateCores (s : State) : State :=
  { s with free := s.free + 1
           cores := (List.range s.cores.length).map fun k =>
             let y := s.core k
             { y with banks := [{}, {}], acc := lostAccs s.free k, veng := { y.veng with v := lostRegs s.free k } } }

/-- Entry to A3 or deeper loses core memory: of a compute die only the die buffer is retained (Table 16.2). -/
def State.gateMemory (s : State) : State :=
  { s with free := s.free + 1
           cores := (List.range s.cores.length).map fun k => { s.core k with mem := { fill := some (Nat.pair s.free k) } } }

/-- Enters a deeper state: STATE message for A3 and A4, tolerance, loss of core state, the stop of the timebase. -/
def State.enter (s : State) (d : Nat) : State :=
  let prev := s.power.cur
  let s := if 3 ≤ d then s.message 0x10 0 0 0 false 0 (d + prev * 256) else s
  let s := if 2 ≤ d && prev < 2 then s.gateCores else s
  let s := if 3 ≤ d && prev < 3 then s.gateMemory else s
  let s := { s with power := { s.power with cur := d, exiting := false, target := d } }
  let s := s.ltrUpdate
  if d = 4 then
    { s with tbValid := false, synced := false, power := { s.power with a4Stop := some s.now, ptmLock := false } }
  else s

/-- IDLE_ENTRY (R419, R420): the evaluation of the target state and, idle long enough, its entry; a state that L no
longer allows is left. -/
def execIdleEntry (s : State) : Host.Outcome State Fault Refusal :=
  .next (
    if !s.up || s.power.exiting then s
    else
      let t := s.targetState
      let s := { s with power := { s.power with target := t } }
      if t < s.power.cur then s.wake
      else if !s.idle then { s with power := { s.power with idleFrom := s.now } }
      else if s.power.cur < t && idleTime t ≤ s.since s.power.idleFrom then s.enter t
      else s)

/-- WAKE_EVENT (R422). -/
def execWakeEvent (s : State) : Host.Outcome State Fault Refusal := .next (if s.up then s.wake else s)

/-- The image of a table whose bank 0 the firmware fills (R158, R166). -/
def Tables.standard (t : Tables) (table : Nat) : Tables :=
  match table with
  | 0 => { t with ex2 := t.ex2.set 0 stdEx2, active := t.active.set 0 0 }
  | 1 => { t with lg2 := t.lg2.set 0 stdLg2, active := t.active.set 1 0 }
  | _ => { t with micro := t.micro.set 0 [], microStd := t.microStd.set 0 true, active := t.active.set 2 0 }

/-- Restoration of both banks of every table on exit from A3 or A4 (R165): a bank whose image holds a poisoned line is marked
empty, and bank 0 of its table is loaded with the standard contents and active. -/
def Tables.restored (t : Tables) : Tables :=
  t.bad.foldl (fun (t : Tables) k => (t.put (k / 2) (k % 2) []).standard (k / 2)) t

/-- STATE_EXIT_DONE (R418, R424, R434): dispatch is possible again; after A4 only once the timebase is set. -/
def execStateExitDone (s : State) : Host.Outcome State Fault Refusal :=
  .next (
    if !s.up || !s.power.exiting || !s.tbValid then s
    else
      let prev := s.power.cur
      let s := { s with
        power := { s.power with cur := 0, exiting := false, idleFrom := s.now }
        tables := if 3 ≤ prev then s.tables.restored else s.tables }
      let s := s.ltrUpdate
      if 3 ≤ prev then s.message 0x10 0 0 0 false 0 (prev * 256) else s)

end Sys2Proof.Machine
end

