-- ==== Sys2Proof/Machine/Trust.lean ====
section
/-! DEFINITION. Boot, resets, watchdog, recovery (17, 19 R485, R493), attestation and link encryption (17 R448 to R452),
sideband and test port (19 R486 to R488). Results of cryptographic checks and bytes of the flash are free (entry 14). -/

namespace Sys2Proof.Machine

/-! ### The boot ROM (R435 to R446) -/

/-- CRC-32 (IEEE 802.3, reflected) over bytes. -/
def crcBits : Nat → Nat → Nat
  | 0, c => c
  | f + 1, c => crcBits f (if c % 2 = 1 then (c / 2) ^^^ 0xEDB88320 else c / 2)

def crc32 (bs : List Byte) : Nat :=
  (bs.foldl (fun c b => crcBits 8 (c ^^^ b.toNat)) 0xFFFFFFFF) ^^^ 0xFFFFFFFF

/-- Generation g is valid: WRITTEN and its CRC matches (R444). -/
def Boot.genValid (b : Boot) (g : Nat) : Bool :=
  bit1 (b.otpByte (512 * g)).toNat 0 &&
    crc32 ((List.range 508).map fun i => b.otpByte (512 * g + i)) == b.otpNat (512 * g + 508) 4

/-- The selected generation: the highest-numbered valid one (R444). -/
def Boot.selectGen (b : Boot) : Option Nat := [3, 2, 1, 0].find? b.genValid

/-- A state of a key slot is set when 5 or more of its 8 bits are 1 (R445). -/
def majority (x : Byte) : Bool := decide (5 ≤ ((List.range 8).filter fun i => bit1 x.toNat i).length)

/-- The active slot of a scheme: the lowest programmed and not revoked; 2,048 is the base of RSA, 2,304 of SLH-DSA. -/
def Boot.activeSlot (b : Boot) (base : Nat) : Option Nat :=
  [0, 1, 2, 3].find? fun k => majority (b.otpByte (base + 64 * k + 48)) && !majority (b.otpByte (base + 64 * k + 49))

/-- Fields of the selected generation (Table 17.4), or the defaults of R444. -/
def Boot.configure (b : Boot) : Boot :=
  match b.selectGen with
  | some g =>
    let v := b.otpNat (512 * g) 16
    { b with cfgGen := g, cfgDefault := false, i3cAddr := bits v 78 72, bar2Size := min (bits v 71 69) 5, ideRequired := bit1 v 68,
             debugPermit := bit1 v 67, testPermit := bit1 v 66, spdmSideband := bit1 v 65 }
  | none =>
    { b with cfgGen := 0, cfgDefault := true, i3cAddr := 0x30, bar2Size := 0, ideRequired := false, debugPermit := false,
             testPermit := false, spdmSideband := false }

/-- FIRST_SLOT of the selected generation. -/
def Boot.firstSlot (b : Boot) : Bool :=
  match b.selectGen with
  | some g => bit1 (b.otpNat (512 * g) 16) 64
  | none => false

/-- Outcome of the checks of a slot (R440): 1 to 6 the failed check, 7 a flash error; a scheme with no active slot fails
check 2 (R445), a slot that a reset spoiled fails check 1 (R485). -/
def Boot.checkSlot (b : Boot) (draw slot : Nat) : Nat :=
  if !b.imageGood.getD slot true then 1
  else
    let r := Config.imageCheck draw slot % 8
    if (b.activeSlot 2048).isNone || (b.activeSlot 2304).isNone then (if r = 1 || r = 7 then r else 2) else r

/-- Programs bits of an OTP byte: a programmed bit cannot return to 0 (R443). -/
def Boot.program (b : Boot) (n : Nat) (v : Byte) : Boot := { b with otp := Cells.set 0 n (b.otpByte n ||| v) b.otp }

/-- Programs bytes from n. -/
def Boot.programRun (b : Boot) (n : Nat) (vs : List Byte) : Boot :=
  (vs.zip (List.range vs.length)).foldl (fun b x => b.program (n + x.2) x.1) b

/-- A key package (KIND 2, 3): the next slot is written and programmed, then the active one revoked (R446). -/
def Boot.keyPackage (b : Boot) (base index : Nat) (payload : List Byte) : Option Boot :=
  if b.activeSlot base == some index && decide (index < 3) && !majority (b.otpByte (base + 64 * (index + 1) + 48)) then
    let b := b.programRun (base + 64 * (index + 1)) (payload.take 48)
    some ((b.program (base + 64 * (index + 1) + 48) 0xFF).program (base + 64 * index + 49) 0xFF)
  else none

/-- One package entry (R446): PKG and the OTP it leaves. -/
def Boot.package (b : Boot) (draw e : Nat) : Boot :=
  let r := Config.imageCheck draw (2 + e)
  if r = 1 then b
  else if r != 0 then { b with pkg := 2 }
  else
    let body := (List.range 576).map fun i => Config.flashByte draw (2 + e) (0x8000 + i)
    let kind := (body.getD 8 0).toNat
    let index := (body.getD 9 0).toNat
    let payload := body.drop 64
    let fits := leNat (body.take 8) == b.otpNat 2576 8 && ((body.take 64).drop 10).all (fun x => x == 0)
    let done : Option Boot :=
      if !fits then none
      else match kind with
        | 1 =>
          if index < 4 && !bit1 (b.otpByte (512 * index)).toNat 0 &&
              (List.range index).all (fun g => bit1 (b.otpByte (512 * g)).toNat 0)
          then some (b.programRun (512 * index) payload) else none
        | 2 => b.keyPackage 2048 index payload
        | 3 => b.keyPackage 2304 index payload
        | _ => none
    match done with
    | some b => { b with pkg := 1 }
    | none => { b with pkg := 3 }

/-- The slot that a boot takes, with FAIL_A and FAIL_B (R441). -/
def Boot.trySlots (b : Boot) (draw : Nat) : Boot × Option Nat :=
  let order := if b.firstSlot then [1, 0] else [0, 1]
  let f := fun (b : Boot) (k r : Nat) => if k = 0 then { b with failA := r } else { b with failB := r }
  let b := { b with failA := 0xF, failB := 0xF }
  let k0 := order.getD 0 0
  let r0 := b.checkSlot draw k0
  let b := f b k0 r0
  if r0 = 0 then (b, some k0)
  else
    let k1 := order.getD 1 1
    let r1 := b.checkSlot (draw + 1) k1
    let b := f b k1 r1
    if r1 = 0 then (b, some k1) else (b, none)

/-- The boot ROM from the reading of OTP to the start of the firmware, or to recovery (R435, R441). -/
def Boot.rom (b : Boot) (draw : Nat) : Boot :=
  let b := { b.configure with
    pkg := 0, svnTarget := none, recLo := 0, recHi := 0, fired := false, heartbeat := 0
    rsaSlot := (b.activeSlot 2048).getD 0, slhSlot := (b.activeSlot 2304).getD 0 }
  match b.trySlots draw with
  | (b, some k) =>
    let b := (List.range 4).foldl (fun b e => b.package (draw + 2 + e) e) b
    { b with life := .booting, stage := 1, slot := k == 1
             imageSvn := max b.svnCount (min (Config.flashByte draw k 8).toNat 128)
             fwVersion := BitVec.ofNat 32 (Config.freeNat draw) }
  | (b, none) => { b with life := .recovery, stage := 2, fwVersion := 0, imageSvn := 0 }

/-! ### Resets (R347, R485, R457) -/

/-- Everything but boot, time and what was sent returns to its reset value (R347, R485): every context and session ends,
device memory is undefined (entry 2). -/
def State.cleared (s : State) : State :=
  { State.reset with
    pending := s.pending, now := s.now, free := s.free + 1, tx := s.tx, txFrom := s.tx.length, boot := s.boot, jtag := s.jtag, mem := Mem.lost s.free
    link := { pcieStatus := 0, dlActive := s.link.dlActive } }

/-- The boot ROM runs. -/
def State.runRom (s : State) : State := { s with boot := s.boot.rom s.free, free := s.free + 8 }

/-- PERST_DEASSERT (R435, R403, R486): straps are read and the ROM runs. -/
def execPerstDeassert (s : State) : Host.Outcome State Fault Refusal :=
  .next (
    if s.boot.perstN then s
    else State.runRom { s.cleared with boot := { s.boot with perstN := true, pwrgd := true, thermtripN := true } })

/-- DEVICE_READY (R436, R166): the firmware has started everything, or a Function Level Reset is over. -/
def execDeviceReady (s : State) : Host.Outcome State Fault Refusal :=
  .next (
    match s.boot.life with
    | .booting => { s with boot := { s.boot with life := .ready }, tbValid := true }
    | .flr => { s with boot := { s.boot with life := .ready } }
    | _ => s)

/-- A reset during a recovery write spoils slot A (R485). -/
def Boot.spoil (b : Boot) : Boot := if b.stage = 3 then { b with imageGood := b.imageGood.set 0 false } else b

/-- RESET (R485, R347, R457): PERST_N holds the device; a hot reset and a link-down run the ROM again. -/
def execReset (cause : ResetCause) (s : State) : Host.Outcome State Fault Refusal :=
  .next (
    let t := { s.cleared with boot := s.boot.spoil }
    match cause with
    | .perst => { t with boot := { t.boot with perstN := false, life := .held, thermtripN := true, fired := false } }
    | _ => if s.boot.life == .held || s.boot.life == .stopped then s else t.runRom)

/-- FUNCTION_LEVEL_RESET (R485): registers, contexts and sessions go, the ROM does not run. Counters keep. -/
def execFunctionLevelReset (s : State) : Host.Outcome State Fault Refusal :=
  .next (
    if !s.up then s
    else { s.cleared with
      counters := s.counters
      boot := { s.boot with life := .flr, svnTarget := none, recLo := 0, recHi := 0, heartbeat := 0 } })

/-- PWRGD_DEASSERT (R493): the device acts as if PERST_N had been asserted. -/
def execPwrgdDeassert (s : State) : Host.Outcome State Fault Refusal :=
  .next (
    if !s.boot.perstN then { s with boot := { s.boot with pwrgd := false } }
    else { s.cleared with boot := { s.boot.spoil with pwrgd := false, life := .held, fired := false } })

/-! ### Watchdog (R458, R459) -/

/-- HEARTBEAT (R458). -/
def execHeartbeat (s : State) : Host.Outcome State Fault Refusal :=
  .next (
    if !s.up then s
    else { s with boot := { s.boot with heartbeat := (s.boot.heartbeat + 1) % 2 ^ 16, lastBeat := s.now } })

/-- WATCHDOG_FIRE (R458, R459): at once on a fatal error, else after 50 ms without a heartbeat. -/
def execWatchdogFire (fatal : Bool) (s : State) : Host.Outcome State Fault Refusal :=
  .next (
    if !s.up || (!fatal && s.since s.boot.lastBeat < 50000000) then s
    else { s.send .aer with boot := { s.boot with fired := true } })

/-! ### Anti-rollback and recovery (R442, R447) -/

/-- OTP bytes of the counter with the count raised to n. -/
def Boot.raise (b : Boot) (n : Nat) : Boot := b.programRun 2560 (leBytes 16 (2 ^ n - 1))

/-- SVN_COMMIT_DONE (R447): the count is min(TARGET, IMAGE), never lower than it was. -/
def execSvnCommitDone (s : State) : Host.Outcome State Fault Refusal :=
  .next (
    match s.boot.svnTarget with
    | none => s
    | some t =>
      if s.boot.life == .held || s.boot.life == .stopped then s
      else { s with boot := { s.boot.raise (min t s.boot.imageSvn) with svnTarget := none } })

/-- RECOVERY_LOAD_DONE (R442): the image read from the host passes and is written to slot A, or FAIL_A takes the reason. -/
def execRecoveryLoadDone (img : HostData) (s : State) : Host.Outcome State Fault Refusal :=
  .next (
    if s.boot.life != .recovery || s.boot.stage != 3 then s
    else match img with
      | .ok _ false =>
        let r := { s.boot with imageGood := [true, true] }.checkSlot s.free 0
        let s := s.drawn
        if r = 0 then { s with boot := { s.boot with stage := 4, failA := 0, imageGood := s.boot.imageGood.set 0 true } }
        else { s with boot := { s.boot with stage := 2, failA := r } }
      | _ => { s with boot := { s.boot with stage := 2, failA := 7 } })

/-! ### Attestation (R448 to R451) -/

/-- Response codes of SPDM (PRESUMED from the standard, entry 22). -/
def spdmError : Nat := 0x7F
def spdmMeasurements : Nat := 0x60

/-- Is a transport answered (R448, R487). -/
def State.spdmUp (s : State) (t : Transport) : Bool :=
  s.up && match t with | .doe => s.power.cur != 4 | .sideband => s.boot.spdmSideband && s.power.cur != 4

/-- An ERROR response with its code and extended data. -/
def State.spdmErr (s : State) (t : Transport) (code : Nat) (ext : List Byte) : State :=
  s.send (.spdm t spdmError (BitVec.ofNat 8 code :: ext))

/-- The unique device secret (Table 17.3). -/
def Boot.secret (b : Boot) : Nat := b.otpNat 2592 32

/-- The SLH-DSA key pair, which each boot derives from the secret (R449). -/
def Boot.slhKey (b : Boot) : Nat := Config.deriveKey b.secret 1

/-- A byte of the device's RSA-3072 key pair and certificate chain: the factory's, from the wrapped-key area under a key derived from the
same secret (R449). The certificate carries the SLH-DSA public key with the root's signature over it. -/
def Boot.rsaByte (b : Boot) (i : Nat) : Byte := Config.unwrapByte (Config.deriveKey b.secret 0) b.wrapped i

/-- A request whose response is signed (R451): Busy while a signature is being computed, else ResponseNotReady with
RDTExponent 19 and RDTM 2. -/
def State.signRequest (s : State) (t : Transport) (k : Nat) : State :=
  if !s.spdmUp t then s
  else if s.spdm.signing.isSome then s.spdmErr t 0x03 []
  else
    let s := { s with spdm := { s.spdm with signing := some (t, k), ready := none } }
    s.spdmErr t 0x42 [19, BitVec.ofNat 8 k, 0, 2]

/-- CHALLENGE (R448, R450, R451). -/
def execChallenge (t : Transport) (s : State) : Host.Outcome State Fault Refusal := .next (s.signRequest t 0x83)

/-- KEY_EXCHANGE (R448, R450, R451). -/
def execKeyExchange (t : Transport) (s : State) : Host.Outcome State Fault Refusal := .next (s.signRequest t 0xE4)

/-- One measurement (Table 17.5); digests are free bytes. -/
def State.measurement (s : State) (i : Nat) : List Byte :=
  let b := s.boot
  let digest := (List.range 48).map fun j => Config.cryptoByte i j
  match i with
  | 4 => if b.cfgDefault then [0xFF]
         else BitVec.ofNat 8 b.cfgGen :: (List.range 512).map fun j => b.otpByte (512 * b.cfgGen + j)
  | 5 => [BitVec.ofNat 8 b.imageSvn, BitVec.ofNat 8 b.svnCount]
  | 6 => [BitVec.ofNat 8 b.rsaSlot, BitVec.ofNat 8 b.slhSlot] ++
         (List.range 8).flatMap fun k => [b.otpByte (2048 + 64 * k + 48), b.otpByte (2048 + 64 * k + 49)]
  | 7 => [BitVec.ofNat 8 (b2n s.dbg.dbgEn + 2 * b2n s.dbg.tstEn)]
  | _ => digest

/-- GET_MEASUREMENTS (R448, Table 17.5): unsigned measurements at once, signed ones as R451; index 0 gives the number of
measurements, 0xFF all of them. -/
def execGetMeasurements (t : Transport) (index : Nat) (signed : Bool) (s : State) : Host.Outcome State Fault Refusal :=
  .next (
    if !s.spdmUp t then s
    else if signed then s.signRequest t 0xE0
    else if index = 0 then s.send (.spdm t spdmMeasurements [7])
    else if index = 0xFF then s.send (.spdm t spdmMeasurements ((List.range 7).flatMap fun i => s.measurement (i + 1)))
    else if index ≤ 7 then s.send (.spdm t spdmMeasurements (s.measurement index))
    else s.spdmErr t 0x01 [])

/-- SLH_DSA_SIGN_DONE (R451): the signature is computed. -/
def execSlhDsaSignDone (s : State) : Host.Outcome State Fault Refusal :=
  .next (
    match s.spdm.signing with
    | some q => if s.up then { s with spdm := { s.spdm with signing := none, ready := some q } } else s
    | none => s)

/-- OpaqueData of a signed response (R450): the element's header and the signature under the device's SLH-DSA key. -/
def opaqueData (key draw : Nat) : List Byte :=
  leBytes 4 0x0001 ++ [0x03, 4] ++ leBytes 4 0x0001B7A3 ++ leBytes 2 16228 ++ leBytes 2 0x0001 ++ leBytes 2 0 ++
    (List.range 16224).map fun i => Config.cryptoByte (Nat.pair key draw) i

/-- RESPOND_IF_READY (R451, R450): the finished response goes out in chunks, announced as a large response; a
KEY_EXCHANGE opens its session. -/
def execRespondIfReady (t : Transport) (s : State) : Host.Outcome State Fault Refusal :=
  .next (
    if !s.spdmUp t then s
    else match s.spdm.ready with
      | some (t', k) =>
        if t' != t then s.spdmErr t 0x01 []
        else
          let p := s.spdm
          let s := { s with spdm := { p with ready := none, chunk := some (t, k, 0), session := if k = 0xE4 then some t else p.session } }
          s.spdmErr t 0x0F [BitVec.ofNat 8 k]
      | none =>
        match s.spdm.signing with
        | some (t', k) => if t' == t then s.spdmErr t 0x42 [19, BitVec.ofNat 8 k, 0, 2] else s.spdmErr t 0x03 []
        | none => s.spdmErr t 0x01 [])

/-- CHUNK_GET (R450): the next chunk of the large response (chunks of 1,024 bytes, entry 22). -/
def execChunkGet (t : Transport) (s : State) : Host.Outcome State Fault Refusal :=
  .next (
    if !s.spdmUp t then s
    else match s.spdm.chunk with
      | some (t', k, pos) =>
        if t' != t then s.spdmErr t 0x01 []
        else
          let all := opaqueData s.boot.slhKey k
          let part := (all.drop (pos * 1024)).take 1024
          let more := decide ((pos + 1) * 1024 < all.length)
          let s := { s with spdm := { s.spdm with chunk := if more then some (t, k, pos + 1) else none } }
          s.send (.spdm t 0x06 part)
      | none => s.spdmErr t 0x01 [])

/-! ### Link encryption and translation (R452, R481) -/

/-- IDE_KM (R452): inside a session over DOE a stream becomes Secure; one link stream and up to 4 selective ones. -/
def execIdeKm (stream : Nat) (coversHost : Bool) (s : State) : Host.Outcome State Fault Refusal :=
  .next (
    if !s.up || s.spdm.session != some .doe || 5 ≤ stream then s
    else { s with link := { s.link with ide := s.link.ide.filter (fun x => x.1 != stream) ++ [(stream, coversHost)] } })

/-- Contexts with host accesses in progress lose them (R452). -/
def State.refuseHost (s : State) : State :=
  s.reads.foldl (fun s q => s.faultCtx q.ctx 0x314 (some q.uid)) s

/-- IDE_LEAVE_SECURE (R452). -/
def execIdeLeaveSecure (stream : Nat) (s : State) : Host.Outcome State Fault Refusal :=
  .next (
    if !s.up || !s.link.ide.any (fun x => x.1 == stream) then s
    else
      let s := { s with link := { s.link with ide := s.link.ide.filter fun x => x.1 != stream } }
      if s.boot.ideRequired && !s.ideSecure then s.refuseHost else s)

/-- ATS_INVALIDATION (R481): completes once every request that could use the translation has completed. -/
def execAtsInvalidation (s : State) : Host.Outcome State Fault Refusal :=
  .next (if s.up && s.reads.isEmpty then (s.received 0).send .invalDone else s)

/-! ### Sideband and test port (R486 to R488) -/

/-- A PLDM numeric sensor: 0 to 4 PWR_TEMP, 5 PWR_POWER, 6 to 11 voltages, 12 to 17 currents (R486; numbering entry 23). -/
def State.sensor (s : State) (i : Nat) : Option Nat :=
  if i < 5 then some (s.reg (0x40020 + 4 * i)).toNat
  else if i = 5 then some (s.reg 0x40014).toNat
  else if i < 12 then some ((s.reg (0x40040 + 4 * (i - 6))).toNat % 2 ^ 16)
  else if i < 18 then some ((s.reg (0x40040 + 4 * (i - 12))).toNat / 2 ^ 16)
  else none

/-- SIDEBAND_REQUEST (R486, R487): not acknowledged in A4; SPDM only when SPDM_SIDEBAND is 1. -/
def execSidebandRequest (r : SideReq) (s : State) : Host.Outcome State Fault Refusal :=
  .next (
    if s.boot.life == .held || s.boot.life == .stopped then s
    else if s.power.cur = 4 then s.send (.sideband none)
    else match r with
      | .mctpControl code => { s.send (.sideband (some [BitVec.ofNat 8 code, Config.freeByte s.free code])) with free := s.free + 1 }
      | .pldmSensor i => s.send (.sideband ((s.sensor i).map fun v => leBytes 4 v))
      | .spdm code => if s.boot.spdmSideband then s.send (.sideband (some [BitVec.ofNat 8 code])) else s.send (.sideband none))

/-- The register that a test access port instruction selects: 0 bypass, 1 idcode, 2 boundary, 3 to 5 the EXTESTs; these
act only while PERST_N is asserted (R488). -/
def jtagReg (x : JtagInstr) (perstN : Bool) : Nat :=
  match x with
  | .bypass => 0
  | .idcode => 1
  | .sample => 2
  | .extest => if perstN then 0 else 3
  | .extestPulse => if perstN then 0 else 4
  | .extestTrain => if perstN then 0 else 5

/-- JTAG_INSTRUCTION (R488). -/
def execJtagInstruction (x : JtagInstr) (s : State) : Host.Outcome State Fault Refusal :=
  .next (
    let r := jtagReg x s.boot.perstN
    { s.send (.tdo r) with jtag := r })

end Sys2Proof.Machine
end

