-- ==== Sys2Proof/Machine/Rolig.lean ====
section
/-! DEFINITION. Rolig ports, boards and remote requests (spec file 15), and the answers to reads of host memory
(19 R480). -/

namespace Sys2Proof.Machine

/-! ### Ports and routes -/

def State.port (s : State) (p : Nat) : Port := s.ports.getD p {}
def State.setPort (s : State) (p : Nat) (y : Port) : State := { s with ports := s.ports.set p y }

/-- The board is configured: its settings name more than one device (R412). -/
def State.boarded (s : State) : Bool := bits s.cfg.board.toNat 7 6 != 0

/-- Does device v, a peer of this device, share a link group with d, and is some port of that group up, by what v last sent (entry 94). -/
def State.farJoined (s : State) (v d : Nat) : Bool := s.ports.any fun y => y.state == 2 && y.peer == v && y.links.any fun x => x.1 == d
def State.farUp (s : State) (v d : Nat) : Bool := s.ports.any fun y => y.state == 2 && y.peer == v && y.links.any fun x => x.1 == d && x.2

/-- A route is valid while the board is up and every group on it has a port that is up (R402, R412). -/
def State.routesNow (s : State) : State :=
  { s with routes := (numbered s.routes).map fun r =>
      { r.2 with valid := s.boardStatus == 1 && ((List.range 12).any fun p => bit1 r.2.ports p && (s.port p).state == 2) && (r.2.via == r.1 || s.farUp r.2.via r.1) } }

/-- A port goes down: counted, and routes whose group is fully down become invalid (R399, R402). -/
def State.portDown (s : State) (p : Nat) : State :=
  let y := s.port p
  (s.setPort p { y with state := 3, width := 0, downs := min (y.downs + 1) 255, replays := 0 }).routesNow

/-- PORT_TRAIN (R396, R397, R412): an attempt ends at 8 or 4 lanes, or fails; the third failure in a row marks the port
down; a different peer on a board that is up is a topology error. -/
def execPortTrain (p lanes : Nat) (peer : RoligPeer) (peerPort : Nat) (s : State) : Host.Outcome State Fault Refusal :=
  .next (
    if !s.up || 12 ≤ p || !s.boarded then s
    else
      let y := s.port p
      if y.state = 2 then s
      else
        let s := s.count (9504 + 6 * p + 5) 1
        if lanes = 8 ∨ lanes = 4 then
          let moved := s.boardStatus == 1 && (y.peer != peer.board || y.peerPort != peerPort)
          let s := s.setPort p { y with state := 2, width := lanes / 4, peer := peer.board % 16, peerPort := peerPort % 16, settings := peer.settings % 1024, links := peer.links, fails := 0, replays := 0 }
          let s := s.send (.portHello p s.boot.boardId (bits s.cfg.board.toNat 15 6))
          if moved then State.routesNow { s with boardStatus := 3 } else s.routesNow
        else
          let s := s.setPort p { y with state := 1, fails := y.fails + 1 }
          if 3 ≤ y.fails + 1 then s.portDown p else s)

/-- PORT_RETRY (R397): a down port is tried again while the board is configured. -/
def execPortRetry (p : Nat) (s : State) : Host.Outcome State Fault Refusal :=
  .next (
    if !s.up || 12 ≤ p || !s.boarded || (s.port p).state != 3 then s
    else s.setPort p { s.port p with state := 1, fails := 0 })

/-- FLIT_RECEIVE (R398, R399): up to 15 symbol errors of a codeword are corrected; a flit whose CRC fails is replayed,
and the eighth failed replay in a row takes the port down. -/
def execFlitReceive (p symErrs : Nat) (crcOk : Bool) (s : State) : Host.Outcome State Fault Refusal :=
  .next (
    if !s.up || 12 ≤ p || (s.port p).state != 2 then s
    else
      let base := 9504 + 6 * p
      let s := if symErrs = 0 then s else if symErrs ≤ 15 then s.count (base + 2) 1 else s.count (base + 3) 1
      let y := s.port p
      if crcOk && symErrs ≤ 15 then (s.count (base + 1) 1).setPort p { y with replays := 0 }
      else
        if 8 ≤ y.replays then s.portDown p
        else ((s.send (.replay p)).count (base + 4) 1).setPort p { y with replays := y.replays + 1 })

/-- ACK_TIMEOUT (R399): no acknowledgement within 100 µs. -/
def execAckTimeout (p : Nat) (s : State) : Host.Outcome State Fault Refusal :=
  .next (if !s.up || 12 ≤ p || (s.port p).state != 2 then s else s.portDown p)

/-- Ports that are up towards a device, as a mask. -/
def State.groupTo (s : State) (d : Nat) : Nat :=
  (List.range 12).foldl (fun n p => n + b2n ((s.port p).state == 2 && (s.port p).peer == d) * 2 ^ p) 0

/-- Number of ports in a mask. -/
def popMask (m : Nat) : Nat := ((List.range 12).filter fun p => bit1 m p).length

/-- Do the links satisfy Table 15.1. -/
def State.linksOk (s : State) : Bool :=
  let topo := bits s.cfg.board.toNat 7 6
  let size := bits s.cfg.board.toNat 11 8
  let me := s.boot.boardId
  let n := fun d => popMask (s.groupTo d)
  match topo with
  | 0 => (List.range 16).all fun d => n d == 0
  | 1 =>
    (List.range 16).all (fun d => if d ≤ size && d != me then n d == 1 || n d == 2 else n d == 0) &&
      (size != 7 || decide (((List.range 8).filter fun d => d != me && n d == 2).length ≤ 5))
  | 2 =>
    let mine := (List.range 16).filter fun d => d / 8 == me / 8 && d != me
    let far := (List.range 16).filter fun d => d / 8 != me / 8
    mine.all (fun d => n d == 1 || n d == 2) && decide ((mine.filter fun d => n d == 2).length ≤ 1) &&
      far.all (fun d => n d == 0 || n d == 1) && (far.filter fun d => n d == 1).length == 4
  | _ => false

/-- The device through which a route runs (R402): direct, else the lowest-numbered common neighbour. -/
def State.viaOf (s : State) (d : Nat) : Option Nat :=
  if s.groupTo d != 0 then some d
  else (List.range 16).find? fun v => s.groupTo v != 0 && s.farJoined v d

/-- Two peers report one board ID, or settings disagree (R412): a peer has this device's ID, or two ports lead to one port of one ID. -/
def State.identityBad (s : State) : Bool :=
  let ups := (List.range 12).filter fun p => (s.port p).state == 2
  ups.any fun p => (s.port p).peer == s.boot.boardId || (s.port p).settings != bits s.cfg.board.toNat 15 6 ||
    ups.any fun q => p != q && (s.port q).peer == (s.port p).peer && (s.port q).peerPort == (s.port p).peerPort

/-- BOARD_CONFIGURE (R412): after an apply that names a board, the firmware checks the links, sets STATUS and builds the routes. -/
def execBoardConfigure (s : State) : Host.Outcome State Fault Refusal :=
  .next (
    if !s.up || !s.boarded || s.boardStatus != 0 then s
    else
      let me := s.boot.boardId
      let same := s.identityBad
      let status := if same then 2 else if s.linksOk then 1 else 3
      let size := bits s.cfg.board.toNat 11 8
      let routes := (List.range 16).map fun d =>
        if d = me || size < d then ({} : Route)
        else match s.viaOf d with
          | some v => { valid := false, via := v, ports := s.groupTo v }
          | none => {}
      State.routesNow { s with boardStatus := status, routes := routes })

/-- TIME_EXCHANGE (R409): a device that is not the master follows it; more than 1,000 ticks off, SYNCED clears and a
forward step is made. -/
def execTimeExchange (offset : Int) (s : State) : Host.Outcome State Fault Refusal :=
  .next (
    if !s.up || s.followsHost || s.boardStatus != 1 then s
    else
      let limit := if bits s.cfg.board.toNat 11 8 ≤ 7 then 8 else 16
      if 1000 < offset.natAbs then
        let s := { s with synced := false }
        if 0 < offset then s.stepTime offset else { s with power := { s.power with slew := offset } }
      else
        { s with synced := s.synced || decide (offset.natAbs ≤ limit), power := { s.power with slew := offset } })

/-! ### Requests of other devices (R405, R406) -/

/-- Is every byte of a request in the inbound window, for a device whose bit is set. -/
def State.inboundOk (s : State) (src a n : Nat) : Bool :=
  bit1 s.inPeers src && decide (s.inBase.toNat * 0x200000 ≤ a) && decide (a + n ≤ s.inLimit.toNat * 0x200000) &&
    decide (a + n ≤ devTop)

/-- ROLIG_INBOUND_REQUEST (R405, R406, R293): accepted and answered, or refused and counted. -/
def execRoligInboundRequest (src : Nat) (r : RoligReq) (s : State) : Host.Outcome State Fault Refusal :=
  .next (
    if !s.up then s
    else
      let s := s.wake
      let (a, n) := match r with
        | .read a n => (a, n)
        | .write a d _ => (a, d.length)
        | .add a _ => (a, 4)
      if !s.inboundOk src a n then
        State.send { s with inRefused := min (s.inRefused + 1) 0xFFFF } (.roligRefuse src)
      else match r with
        | .read a n =>
          let s := (s.settle [(a, n)]).carryFrom [(a, n)] 4
          s.send (.roligAck src (s.mem.read a n) (s.mem.poisoned 64 a n))
        | .write a d p => ((s.carryTo 4 a d.length).devWrite a d p).send (.roligAck src [] false)
        | .add a inc =>
          let s := (s.settle [(a, 4)]).carryTo 4 a 4
          if s.mem.poisoned 64 a 4 then s.send (.roligAck src [] true)
          else (s.slipAdd a inc.toNat).send (.roligAck src [] false))

/-! ### Answers to the part's own requests (R406, R407, R480) -/

/-- The last answer of a transfer advances its slipway; the last of a command ends it. -/
def State.answered (s : State) (q : Outstanding) : State :=
  let s := match q.slip with
    | some (a, inc) => s.signal q.toAsker a inc q.last
    | none => s
  if q.last && (s.ctx q.ctx).alive && !s.asks q.toAsker then (s.finish q.ctx q.uid).phaseDebt q.ctx q.phase else s.listEnd q.ctx q.uid

/-- Data that an outstanding read asked for goes from the hub die to its destination, with its poison (R14, R480, R406). -/
def State.readData (s : State) (q : Outstanding) (data : List Byte) (pz : Bool) : State :=
  (s.carryTo 4 q.dst (min q.n data.length)).devWrite q.dst (data.take q.n) pz

/-- REMOTE_ACK (R406, R407): the oldest Rolig request is answered, or refused; an atomic add on a poisoned line faults its context (R294). -/
def execRemoteAck (data : List Byte) (poison refused : Bool) (s : State) : Host.Outcome State Fault Refusal :=
  .next (
    match s.remote with
    | [] => s
    | q :: r =>
      if !s.up then s
      else
        let s := { s with remote := r }
        if q.ctx = mgmtCtx then s.mgmtDone (if refused then 0x315 else 0) 0
        else if !(s.ctx q.ctx).alive then s
        else if refused then s.failAsker q.toAsker 0x315
        else match q.kind with
          | .data => (s.readData q data poison).answered q
          | .added => if poison then s.failAsker q.toAsker 0x310 else s.answered q
          | .written => s.answered q)

/-- REMOTE_TIMEOUT (R407): 100 µs without data or acknowledgement. -/
def execRemoteTimeout (s : State) : Host.Outcome State Fault Refusal :=
  .next (
    match s.remote with
    | [] => s
    | q :: r =>
      if !s.up || s.since q.issued < 100000 then s
      else if q.ctx = mgmtCtx then ({ s with remote := r }).mgmtDone 0x315 0
      else ({ s with remote := r }).failAsker q.toAsker 0x315)

/-- HOST_READ_COMPLETION (R480): the oldest read of host memory ends with data, or with HOST_ERROR. -/
def execHostReadCompletion (d : HostData) (s : State) : Host.Outcome State Fault Refusal :=
  .next (
    match s.reads with
    | [] => s
    | q :: r =>
      if !s.hostUp then s
      else
        let s := { s with reads := r }.fetched d
        match d with
        | .failed => s.failAsker q.toAsker 0x314
        | .ok bs ep => (s.readData q bs ep).answered q)

/-- HOST_READ_TIMEOUT (R480): no completion within 50 ms. -/
def execHostReadTimeout (s : State) : Host.Outcome State Fault Refusal :=
  .next (
    match s.reads with
    | [] => s
    | q :: r =>
      if !s.up || s.since q.issued < 50000000 then s
      else ({ s with reads := r }).failAsker q.toAsker 0x314)

end Sys2Proof.Machine
end

