-- ==== Sys2Proof/Machine/Validate.lean ====
section
/-! DEFINITION. Validation (04 R113, 05 R153, 13 R337): the plan of every opcode, the checks of a step list (09 R232, R249, R251,
R260), and COMMAND_VALIDATE with its copy space (14 R380). -/

namespace Sys2Proof.Machine

/-! ### Plans -/

/-- A body field of 64 bits whose top bit is `hi`. -/
def field64 (d hi : Nat) : Nat := bits d hi (hi - 63)

/-- What validation knows around context c. -/
def State.venv (s : State) (c : Nat) : VEnv :=
  let b := (s.ctx c).blk
  { mem := s.mem
    bind := s.bound s.tables.active
    dbLo := (b.map fun (x : CtxBlock) => x.dbaOff * 64).getD 0
    dbHi := (b.map fun (x : CtxBlock) => (x.dbaOff + x.dbaLen) * 64).getD 0
    home := (s.ctx c).homeDie }

/-- The plan of a descriptor but for a step list; `host` holds a FERRY chain of host memory. -/
def State.planOf (s : State) (c d : Nat) (host : List Nat) : Plan :=
  let v := s.venv c
  match bits d 479 472 with
  | 0x01 => planMatmul v d
  | 0x02 => planChain v d
  | 0x03 => planAttend v d
  | 0x04 => planConv v d
  | 0x05 => planPool v d
  | 0x06 => planPosy v d
  | 0x07 =>
    match bits d 127 120 with
    | 0 => planFold v d
    | 1 => planRowstat v d
    | 2 => planClover v d
    | _ => planTranspose v d
  | 0x08 => s.planFerry c d host
  | 0x09 => planFill v d
  | 0x0A => planNoise v d
  | 0x0C => planWupd v d
  | 0x0D => { work := some (.tableLoad (field64 d 383) (bits d 319 288) (bits d 287 286) (bits d 285 285) (bit1 d 284)) }
  | 0x10 => { work := some (.signal (field64 d 383) (bits d 319 288)) }
  | 0x11 => { work := some (.wait (field64 d 383) (bits d 319 288)) }
  | 0x12 => { work := some (.fence (bit1 d 383)) }
  | 0x13 => { work := some (.stamp (field64 d 383) (bit1 d 319)) }
  | _ => planCodec v d

/-- Is a descriptor a FERRY whose chain lies in host memory. -/
def hostChain (d : Nat) : Bool := bits d 479 472 == 0x08 && bit1 d 319

/-- A chain in host memory has been read as far as it reaches: to its end, 4,096 transfers, or past the windows. -/
def State.chainRead (s : State) (c d : Nat) (host : List Nat) : Bool :=
  !hostChain d || chainEnds host || decide (4096 ≤ host.length) ||
    (winFor (s.ctx c).hwins (field64 d 383 + 64 * host.length) 64 false).isNone

/-! ### Step lists -/

/-- Counts of a step-list header (Table 9.1). -/
def slSteps (h : Nat) : Nat := bits h 159 149
def slStages (h : Nat) : Nat := bits h 148 137
def slImages (h : Nat) : Nat := bits h 136 124
def slMicro (h : Nat) : Nat := bits h 123 120
def slPins (h : Nat) : Nat := bits h 119 115

/-- A stage entry: its descriptor and control word. -/
structure RawStage where
  desc : Nat
  ctl : Nat
  deriving DecidableEq, Repr

def RawStage.op (g : RawStage) : Nat := bits g.desc 479 472
def RawStage.phase (g : RawStage) : Nat := bits g.ctl 220 219
def RawStage.mb (g : RawStage) : Nat := bits g.ctl 218 216
def RawStage.sampler (g : RawStage) : Bool := bit1 g.ctl 190

/-- Substitutions in use, raw. -/
def RawStage.cmaps (g : RawStage) : List Nat := (List.range (bits g.ctl 223 221)).map fun j => bits g.ctl (319 - 16 * j) (304 - 16 * j)

/-- A step list as memory holds it. -/
structure RawList where
  a : Nat
  h : Nat
  stages : List RawStage
  pins : List Nat

def listAt (m : Mem) (a : Nat) : RawList :=
  let h := desc64 m a
  { a := a, h := h
    stages := (List.range (slStages h)).map fun j => { desc := desc64 m (a + 64 + 128 * j), ctl := desc64 m (a + 128 + 128 * j) }
    pins := (List.range (slPins h)).map fun j => leNat (m.read (field64 h 383 + 32 * j) 32) }

/-- Memory that the structures of a list take: block, seeds, coefficients, pins. -/
def RawList.parts (r : RawList) : List (Nat × Nat) :=
  [(r.a, 64 + 128 * slStages r.h), (field64 r.h 511, 8 * slImages r.h), (field64 r.h 447, 32 * slSteps r.h)] ++
    (if slPins r.h = 0 then [] else [(field64 r.h 383, 32 * slPins r.h)])

/-- A failure with the stage index that its record carries. -/
abbrev StageFail := Failure × Nat

def stageFlag (b : Bool) (code j : Nat) : List StageFail := if b then [((code, 0, 0), j)] else []

/-- SL_ADDR and SL_FIELD. -/
def RawList.headFails (r : RawList) : List StageFail :=
  let h := r.h
  stageFlag (field64 h 511 % 8 != 0 || field64 h 447 % 32 != 0 || (slPins h != 0 && field64 h 383 % 32 != 0) ||
    r.parts.any fun p => !inDevice p.1 p.2) 0x0270 0 ++
  stageFlag (bits h 113 0 != 0 || slSteps h == 0 || decide (1024 < slSteps h) || slStages h == 0 || decide (2048 < slStages h) ||
    slImages h == 0 || decide (4096 < slImages h) || slMicro h == 0 || decide (8 < slMicro h) || decide (16 < slPins h) ||
    (slPins h == 0 && field64 h 383 != 0)) 0x0271 0 ++
  (numbered r.stages).flatMap fun x =>
    let k := x.2.ctl
    stageFlag (bits k 188 0 != 0 || decide (6 < bits k 223 221) || x.2.phase == 3 || decide (slMicro h ≤ x.2.mb) ||
      decide (slImages h ≤ bits k 203 191) || (x.2.cmaps.take 6).any fun m => bits m 7 3 != 0) 0x0271 x.1

/-- SL_OPCODE and SL_PHASE. -/
def RawList.phaseFails (r : RawList) : List StageFail :=
  (numbered r.stages).flatMap (fun x =>
    stageFlag (!stageOp x.2.op) 0x0272 x.1 ++
    stageFlag (decide (0 < x.1) && (match r.stages[x.1 - 1]? with | some g => decide (x.2.phase < g.phase) | none => false)) 0x0273 x.1) ++
  stageFlag (!r.stages.any fun g => g.phase == 1) 0x0273 0

/-- Header of the epilogue of a stage that may be a SAMPLER (R241). -/
def RawStage.pair (m : Mem) (g : RawStage) : Bool :=
  let a := match g.op with | 0x02 => field64 g.desc 191 | 0x06 => field64 g.desc 383 | _ => field64 g.desc 319
  bit1 (desc64 m a) 495

/-- SL_SAMPLER. -/
def RawList.samplerFails (r : RawList) (m : Mem) : List StageFail :=
  let guide := bit1 r.h 114
  (numbered r.stages).flatMap (fun x =>
    let g := x.2
    stageFlag (g.sampler && (g.phase != 1 || !(g.op == 0x01 || g.op == 0x02 || g.op == 0x04 || (g.op == 0x06 && !guide)) ||
      g.pair m != guide)) 0x0274 x.1) ++
  stageFlag ((List.range (slMicro r.h)).any fun b => r.stages.countP (fun g => g.phase == 1 && g.sampler && g.mb == b) != 1) 0x0274 0

/-- Does a command have the posy of a code of Table 9.3. -/
def RawStage.hasPosy (m : Mem) (g : RawStage) (code : Nat) : Bool :=
  match code with
  | 0 => (decide (1 ≤ g.op) && decide (g.op ≤ 6)) || (g.op == 0x07 && bits g.desc 127 120 == 1)
  | 1 => ((g.op == 0x01 || g.op == 0x04) && field64 g.desc 255 != 0) || (g.op == 0x02 && field64 g.desc 127 != 0)
  | 2 => g.op == 0x02
  | 6 => false
  | 7 => false
  | k =>
    let n := bits (desc64 m (field64 g.desc 383 + 384)) 97 95
    g.op == 0x04 && decide (1 < n) && decide (k - 3 < n)

/-- SL_CMAP. -/
def RawList.cmapFails (r : RawList) (m : Mem) : List StageFail :=
  (numbered r.stages).flatMap fun x => stageFlag (x.2.cmaps.any fun k => !x.2.hasPosy m (bits k 15 13)) 0x0275 x.1

/-- Pin entry (Table 9.4). -/
def pinOf (v : Nat) : Pin := { src := bits v 255 192, bytes := bits v 191 160, dbOff := bits v 159 140, dies := bits v 139 136 }

/-- Byte ranges that a stage writes (R251): outputs, timestamps, and the counters that it advances. -/
def State.writesOf (s : State) (g : RawStage) (w : Work) : List (Nat × Nat) :=
  let sig := field64 g.ctl 447
  s.outsOf w ++ (if sig = 0 then [] else s.placed sig 4) ++
    match w with
    | .signal a _ => s.placed a 4
    | .ferry ts => ts.flatMap fun t => if t.slip then s.placed t.slipAddr 4 else []
    | _ => []

/-- T3 slots of a work, and the mask of the dies that hold them. -/
def Work.t3Slots (home : Nat) (w : Work) : List (Nat × Nat) × Nat :=
  let mask := fun (l : Level) => if l.dies = 0 then 2 ^ home else l.dies
  match w with
  | .matmul tb epi _ => (tb.bufs epi.pair, mask tb.t3)
  | .chain a b _ _ _ => (a.bufs false ++ b.bufs false, mask a.t3)
  | .conv b _ => (b.bufs (b.exts b.k) false, mask b.t3)
  | .pool b => (b.bufs (b.exts 1) true, mask b.t3)
  | _ => ([], 0)

/-- Do two masks of dies share one. -/
def sharedDie (a b : Nat) : Bool := (List.range 4).any fun d => bit1 a d && bit1 b d

/-- SL_PIN: Table 9.4 and R251, with the works of the stages. -/
def State.pinFails (s : State) (v : VEnv) (r : RawList) (works : List (RawStage × Work)) : List StageFail :=
  let ps := r.pins.map pinOf
  stageFlag (r.pins.any fun w => bits w 135 0 != 0) 0x0276 0 ++
  stageFlag (ps.any fun p => p.src % 64 != 0 || p.bytes % 64 != 0 || p.bytes == 0 || decide (33554432 < p.bytes) || p.dies == 0 ||
    !inDevice p.src p.bytes || decide (p.dbOff * 64 < v.dbLo) || decide (v.dbHi < p.dbOff * 64 + p.bytes)) 0x0276 0 ++
  stageFlag ((List.range ps.length).any fun i => (List.range i).any fun j =>
    let p := ps.getD i ⟨0, 0, 0, 0⟩
    let q := ps.getD j ⟨0, 0, 0, 0⟩
    sharedDie p.dies q.dies && overlap (p.dbOff * 64) p.bytes (q.dbOff * 64) q.bytes) 0x0276 0 ++
  (numbered works).flatMap fun x =>
    let t := x.2.2.t3Slots v.home
    stageFlag (ps.any fun p =>
      (sharedDie p.dies t.2 && t.1.any fun q => overlap (p.dbOff * 64) p.bytes q.1 q.2) ||
      (x.2.1.phase != 0 && (s.writesOf x.2.1 x.2.2).any fun q => overlap p.src p.bytes q.1 q.2)) 0x0276 x.1

/-- SL_SLIP and the board addresses of Table 15.2. -/
def State.slipFails (s : State) (r : RawList) : List StageFail :=
  let at_ := fun (a j : Nat) (remote : Bool) =>
    if a = 0 then [] else (s.boardFails a 64 64 0x0277 0 remote).map fun f => ((f, j) : StageFail)
  at_ (field64 r.h 319) 0 true ++
    (numbered r.stages).flatMap fun x => at_ (field64 x.2.ctl 511) x.1 false ++ at_ (field64 x.2.ctl 447) x.1 true

/-- The first of the lowest code. -/
def lowestStage (fs : List StageFail) : Option StageFail :=
  fs.foldl (fun (acc : Option StageFail) f =>
    match acc with
    | none => some f
    | some g => if f.1.1 < g.1.1 then some f else some g) none

/-- Chains of host memory, stage by stage, from the bytes that were read. -/
def hostChains : List RawStage → List Byte → List (List Nat)
  | [], _ => []
  | g :: r, bs =>
    if hostChain g.desc then
      let x := chainOf 4096 bs
      x.1 :: hostChains r x.2
    else [] :: hostChains r bs

/-- A stage as its work and control word give it (Table 9.2). -/
def RawStage.stage (g : RawStage) (w : Work) : Stage :=
  let k := g.ctl
  { work := w, opcode := g.op, waitAddr := field64 k 511, sigAddr := field64 k 447, waitBase := bits k 383 352, waitStep := bits k 351 336
    sigInc := bits k 335 320, cmaps := g.cmaps.map fun m => { posy := bits m 15 13, const := bits m 12 8, col := bits m 2 0 }
    phase := g.phase, mb := g.mb, stream := bits k 215 204, imgBase := bits k 203 191, sampler := g.sampler, barrier := bit1 k 189 }

/-- The list that validation copies (R232). -/
def RawList.list (r : RawList) (m : Mem) (stages : List Stage) : StepList :=
  { stepSlip := field64 r.h 319, deadline := field64 r.h 255, stepBudget := bits r.h 191 160, steps := slSteps r.h, images := slImages r.h
    micro := slMicro r.h, guide := bit1 r.h 114, stages := stages
    seeds := (List.range (slImages r.h)).map fun i => leNat (m.read (field64 r.h 511 + 8 * i) 8)
    coefs := (List.range (slSteps r.h)).map fun t => (List.range 8).map fun j => BitVec.ofNat 32 (leNat (m.read (field64 r.h 447 + 32 * t + 4 * j) 4))
    pins := r.pins.map pinOf }

/-! ### The whole check of one command -/

/-- What validation finds: a failure with its stage, more of a host chain to read, or the command's job. -/
inductive Verdict where
  | bad (f : Failure) (stage : Nat)
  | more
  | ok (j : Job)
  deriving DecidableEq, Repr

/-- What a command's validation reads, and its verdict. -/
structure Checked where
  reads : List (Nat × Nat)
  extra : Nat
  verdict : Verdict

/-- A command that is one piece of work. -/
def State.checkOne (s : State) (c d : Nat) (bs : List Byte) : Checked :=
  let host := if hostChain d then (chainOf 4096 bs).1 else []
  let p := s.planOf c d host
  { reads := p.reads, extra := 64 * host.length
    verdict :=
      if !s.chainRead c d host then .more
      else match firstOf p.groups, p.work with
        | some f, _ => .bad f 0
        | none, some w => .ok (.work w)
        | none, none => .more }

/-- The stages of a list, in entry order: the first that fails, or lacks bytes of its chain (R260). -/
def State.stagesVerdict (s : State) (c : Nat) : List (Nat × RawStage × List Nat × Plan) → Option Verdict
  | [] => none
  | (j, g, host, p) :: r =>
    match lowest (s.descFails c .stage g.desc) with
    | some f => some (.bad f j)
    | none =>
      if !s.chainRead c g.desc host then some .more
      else match firstOf p.groups with
        | some f => some (.bad f j)
        | none => s.stagesVerdict c r

/-- STEPLIST (Table 9.5, then every stage). -/
def State.checkList (s : State) (c d : Nat) (bs : List Byte) : Checked :=
  let v := s.venv c
  let r := listAt s.mem (field64 d 383)
  let hosts := hostChains r.stages bs
  let plans := (numbered r.stages).map fun x => s.planOf c x.2.desc (hosts.getD x.1 [])
  let works := r.stages.zip (plans.map fun p => p.work.getD (.fence false))
  let head := r.headFails ++ r.phaseFails ++ r.samplerFails s.mem ++ r.cmapFails s.mem ++ s.pinFails v r works ++ s.slipFails r
  let rows := (numbered r.stages).map fun x => (x.1, x.2, hosts.getD x.1 [], plans.getD x.1 {})
  { reads := readable (r.parts ++ plans.flatMap fun p => p.reads)
    extra := (hosts.map fun h => 64 * h.length).foldl (fun a b => a + b) 0
    verdict := match lowestStage head with
      | some f => .bad f.1 f.2
      | none => match s.stagesVerdict c rows with
        | some x => x
        | none => .ok (.steps (r.list s.mem (works.map fun x => x.1.stage x.2)))  }

/-- The check of a descriptor that has passed Table 13.5. -/
def State.check (s : State) (c d : Nat) (bs : List Byte) : Checked :=
  if bits d 479 472 = 0x0B then s.checkList c d bs else s.checkOne c d bs

/-! ### COMMAND_VALIDATE -/

/-- The copy area (Table 14.10). -/
def copyArea : Nat := 4128768

/-- Bytes of the copy area that a context's commands hold. -/
def Ctx.copies (x : Ctx) : Nat := (x.cmds.map fun (m : Cmd) => m.copy).foldl (fun a b => a + b) 0

/-- Commands that are bound to table banks (R161). -/
def bindsTables (op : Nat) : Bool := (decide (1 ≤ op) && decide (op ≤ 7)) || op == 0x0A || op == 0x0B || op == 0x0C

/-- Turns a command away (R113, R340). -/
def State.reject (s : State) (c : Nat) (m : Cmd) (f : Failure) (stage : Nat) : State :=
  s.putCmd c { m with phase := .rejected f.1 f.2.1 f.2.2, recStage := stage }

/-- Takes a command that passed: its copies, its banks and its tile commands. -/
def State.accept (s : State) (c : Nat) (m : Cmd) (j : Job) (copy : Nat) : State :=
  let n := j.tiles
  s.putCmd c { m with phase := .checked, job := some j, copy := copy, banks := if bindsTables m.opcode then s.tables.active else []
                      unplaced := List.range n, tilesDone := n }


/-- Validation once the descriptor itself has passed (R380, R294): the copy must fit, then poison, then the checks. -/
def State.validate (s : State) (c : Nat) (m : Cmd) (bs : List Byte) : State :=
  let k := s.check c m.desc bs
  let n := (k.reads.map fun r => r.2).foldl (fun a b => a + b) 0 + k.extra
  if copyArea < n then s.reject c m (0x0309, 0, 0) 0
  else if copyArea < (s.ctx c).copies + n then s
  else if k.reads.any fun r => s.mem.poisoned 64 r.1 r.2 then s.faultCtx c 0x310 (some m.uid)
  else match k.verdict with
    | .bad f st => s.reject c m f st
    | .more => s
    | .ok j => s.accept c m j n

/-- Where a command's descriptor stands. -/
def Ctx.descPlace (x : Ctx) (m : Cmd) : DescPlace := if (x.ring m.ring).codec then .codec else .compute

/-- Does a descriptor name a chain in host memory, itself or in a stage. -/
def State.needsHost (s : State) (d : Nat) : Bool :=
  hostChain d || (bits d 479 472 == 0x0B && (listAt s.mem (field64 d 383)).stages.any fun g => hostChain g.desc)

/-- Where the chains in host memory of a descriptor begin (R122, R335). -/
def State.chainHeads (s : State) (d : Nat) : List Nat :=
  if hostChain d then [field64 d 383]
  else ((listAt s.mem (field64 d 383)).stages.filter fun g => hostChain g.desc).map fun g => field64 g.desc 383

/-- The host memory that chains with these beginnings take up, by the bytes that were read of them. -/
def chainSpans : List Nat → List Byte → List (Nat × Nat)
  | [], _ => []
  | a :: r, bs => let x := chainOf 4096 bs; (a, 64 * max 1 x.1.length) :: chainSpans r x.2

/-- The reads of those chains, through the windows of the context (R122, R483). -/
def State.askChains (s : State) (c d : Nat) (chain : HostData) : State :=
  let bs := match chain with | .ok bs _ => bs | .failed => []
  (chainSpans (s.chainHeads d) bs).foldl (fun s r =>
    s.toHost (.hostRead r.1 r.2 ((winFor (s.ctx c).hwins r.1 r.2 false).bind HWin.tag))) s

/-- May command i be validated ahead of its turn (R354): nothing that its validation reads lies in the write set of an earlier command or
is poisoned, and none of it lies in host memory. -/
def State.validEarly (s : State) (c i : Nat) (m : Cmd) : Bool :=
  let x := s.ctx c
  let rs := (s.check c m.desc []).reads
  x.ahead i m && !m.poisoned && !s.needsHost m.desc && x.clearOf i m rs && !rs.any fun r => (s.settle rs (some c)).mem.poisoned 64 r.1 r.2

/-- May command i be validated: every earlier command of its ring validated, in its turn or ahead of it (R353, R354, entry 36). -/
def State.validTurn (s : State) (c i : Nat) (m : Cmd) : Bool :=
  let x := s.ctx c
  m.phase == .fetched && s.ready c && (x.earlier i m.ring).all (fun e => e.phase != .fetched) && (x.inOrder i m || s.validEarly c i m)

/-- COMMAND_VALIDATE (R113, R153, R337, R380). `chain` holds what was read of FERRY chains in host memory. -/
def execCommandValidate (c i : Nat) (chain : HostData) (s : State) : Host.Outcome State Fault Refusal :=
  .next (
    match (s.ctx c).cmd? i with
    | none => s
    | some m =>
      if !s.validTurn c i m then s
      else if m.poisoned then s.faultCtx c 0x310 (some m.uid)
      else match lowest (s.descFails c ((s.ctx c).descPlace m) m.desc) with
        | some f => s.reject c m f 0
        | none =>
          let s := s.settle (s.check c m.desc []).reads (some c)
          let s := if s.needsHost m.desc then (s.askChains c m.desc chain).fetched chain else s
          (match s.needsHost m.desc, chain with
            | true, .failed => s.faultCtx c 0x314 (some m.uid)
            | true, .ok _ true => s.faultCtx c 0x310 (some m.uid)
            | true, .ok bs false => s.validate c m bs
            | false, _ => s.validate c m []))

end Sys2Proof.Machine
end

