-- ==== Sys2Proof/Machine/Dispatch.lean ====
section
/-! DEFINITION. The meaning of every command, one arm per constructor. -/

namespace Sys2Proof.Machine

def exec (i : Instr) (s : State) : Host.Outcome State Fault Refusal :=
  match i with
  | .matmul c ix => Sys2Proof.Machine.execMatmul c ix s
  | .chain c ix => Sys2Proof.Machine.execChain c ix s
  | .attend c ix => Sys2Proof.Machine.execAttend c ix s
  | .conv c ix => Sys2Proof.Machine.execConv c ix s
  | .pool c ix => Sys2Proof.Machine.execPool c ix s
  | .posy c ix => Sys2Proof.Machine.execPosy c ix s
  | .reduceFold c ix => Sys2Proof.Machine.execReduceFold c ix s
  | .reduceRowstat c ix => Sys2Proof.Machine.execReduceRowstat c ix s
  | .reduceClover c ix => Sys2Proof.Machine.execReduceClover c ix s
  | .reduceTranspose c ix => Sys2Proof.Machine.execReduceTranspose c ix s
  | .ferry c ix => Sys2Proof.Machine.execFerry c ix s
  | .fill c ix => Sys2Proof.Machine.execFill c ix s
  | .noise c ix => Sys2Proof.Machine.execNoise c ix s
  | .steplist c ix => Sys2Proof.Machine.execSteplist c ix s
  | .wupd c ix => Sys2Proof.Machine.execWupd c ix s
  | .tableLoad c ix => Sys2Proof.Machine.execTableLoad c ix s
  | .slipwaySignal c ix => Sys2Proof.Machine.execSlipwaySignal c ix s
  | .slipwayWait c ix => Sys2Proof.Machine.execSlipwayWait c ix s
  | .fenceRing a ix => Sys2Proof.Machine.execFenceRing a ix s
  | .fenceContext c ix => Sys2Proof.Machine.execFenceContext c ix s
  | .timestamp a ix => Sys2Proof.Machine.execTimestamp a ix s
  | .hintLatency => Sys2Proof.Machine.execHintLatency s
  | .snapshot => Sys2Proof.Machine.execSnapshot s
  | .cfgCheck => Sys2Proof.Machine.execCfgCheck s
  | .cfgApply => Sys2Proof.Machine.execCfgApply s
  | .sessionOpen c ix => Sys2Proof.Machine.execSessionOpen c ix s
  | .sessionClose c ix => Sys2Proof.Machine.execSessionClose c ix s
  | .decode c ix => Sys2Proof.Machine.execDecode c ix s
  | .encode c ix => Sys2Proof.Machine.execEncode c ix s
  | .jpegDec c ix => Sys2Proof.Machine.execJpegDec c ix s
  | .jpegEnc c ix => Sys2Proof.Machine.execJpegEnc c ix s
  | .scale c ix => Sys2Proof.Machine.execScale c ix s
  | .create c block wins => Sys2Proof.Machine.execCreate c block wins s
  | .destroy c => Sys2Proof.Machine.execDestroy c s
  | .preempt c => Sys2Proof.Machine.execPreempt c s
  | .resume c => Sys2Proof.Machine.execResume c s
  | .debugStop c => Sys2Proof.Machine.execDebugStop c s
  | .debugResume c => Sys2Proof.Machine.execDebugResume c s
  | .debugStep c n => Sys2Proof.Machine.execDebugStep c n s
  | .debugEnWrite v => Sys2Proof.Machine.execDebugEnWrite v s
  | .testEnWrite v => Sys2Proof.Machine.execTestEnWrite v s
  | .svnCommit v => Sys2Proof.Machine.execSvnCommit v s
  | .svnCommitDone => Sys2Proof.Machine.execSvnCommitDone s
  | .recoveryGo v => Sys2Proof.Machine.execRecoveryGo v s
  | .recoveryLoadDone img => Sys2Proof.Machine.execRecoveryLoadDone img s
  | .pwrWake v => Sys2Proof.Machine.execPwrWake v s
  | .eccArm v => Sys2Proof.Machine.execEccArm v s
  | .nanArm v => Sys2Proof.Machine.execNanArm v s
  | .mgmtEnableWrite v wins => Sys2Proof.Machine.execMgmtEnableWrite v wins s
  | .dieEccCountRead die => Sys2Proof.Machine.execDieEccCountRead die s
  | .eccLogClear die v => Sys2Proof.Machine.execEccLogClear die v s
  | .telTimeLoRead => Sys2Proof.Machine.execTelTimeLoRead s
  | .cfgApplyTimeLoRead => Sys2Proof.Machine.execCfgApplyTimeLoRead s
  | .timeHiRead p => Sys2Proof.Machine.execTimeHiRead p s
  | .dbgWindowRead off par => Sys2Proof.Machine.execDbgWindowRead off par s
  | .registerWrite off width v => Sys2Proof.Machine.execRegisterWrite off width v s
  | .bar2Read off n => Sys2Proof.Machine.execBar2Read off n s
  | .bar2Write off data ep => Sys2Proof.Machine.execBar2Write off data ep s
  | .configRequest => Sys2Proof.Machine.execConfigRequest s
  | .doorbellPoll => Sys2Proof.Machine.execDoorbellPoll s
  | .doorbellRead a line => Sys2Proof.Machine.execDoorbellRead a line s
  | .descriptorFetched a r d => Sys2Proof.Machine.execDescriptorFetched a r d s
  | .commandValidate c ix chain => Sys2Proof.Machine.execCommandValidate c ix chain s
  | .mgmtDescriptorStart => Sys2Proof.Machine.execMgmtDescriptorStart s
  | .completionRecordWrite c ix => Sys2Proof.Machine.execCompletionRecordWrite c ix s
  | .irqDelayExpiry c => Sys2Proof.Machine.execIrqDelayExpiry c s
  | .statusLineRefresh a => Sys2Proof.Machine.execStatusLineRefresh a s
  | .tilePlace c => Sys2Proof.Machine.execTilePlace c s
  | .sliceExpiry c => Sys2Proof.Machine.execSliceExpiry c s
  | .preemptSaveDone c => Sys2Proof.Machine.execPreemptSaveDone c s
  | .ferryFillDone k j => Sys2Proof.Machine.execFerryFillDone k j s
  | .weightLoadDone k => Sys2Proof.Machine.execWeightLoadDone k s
  | .matrixIssue k par => Sys2Proof.Machine.execMatrixIssue k par s
  | .accumulatorUpdate k par => Sys2Proof.Machine.execAccumulatorUpdate k par s
  | .resultRowCopy k par => Sys2Proof.Machine.execResultRowCopy k par s
  | .holdExpiry k => Sys2Proof.Machine.execHoldExpiry k s
  | .rampPhaseEnd k => Sys2Proof.Machine.execRampPhaseEnd k s
  | .posyRunStart k => Sys2Proof.Machine.execPosyRunStart k s
  | .posyInstruction k par => Sys2Proof.Machine.execPosyInstruction k par s
  | .teardownComplete c => Sys2Proof.Machine.execTeardownComplete c s
  | .lateDataMiss k wait => Sys2Proof.Machine.execLateDataMiss k wait s
  | .memoryRead m addr nsym user => Sys2Proof.Machine.execMemoryRead m addr nsym user s
  | .memoryWriteHome => Sys2Proof.Machine.execMemoryWriteHome s
  | .scrubRead die nsym => Sys2Proof.Machine.execScrubRead die nsym s
  | .refresh stack ch => Sys2Proof.Machine.execRefresh stack ch s
  | .stageExecutionStart c ix e => Sys2Proof.Machine.execStageExecutionStart c ix e s
  | .stageExecutionDone c ix e => Sys2Proof.Machine.execStageExecutionDone c ix e s
  | .pinCopyDone c ix => Sys2Proof.Machine.execPinCopyDone c ix s
  | .stepComplete c ix st => Sys2Proof.Machine.execStepComplete c ix st s
  | .stepBudgetCheck c ix st => Sys2Proof.Machine.execStepBudgetCheck c ix st s
  | .deadlineCheck c ix => Sys2Proof.Machine.execDeadlineCheck c ix s
  | .codecUnitStart eng => Sys2Proof.Machine.execCodecUnitStart eng s
  | .codecUnitDone eng => Sys2Proof.Machine.execCodecUnitDone eng s
  | .powerSample rails => Sys2Proof.Machine.execPowerSample rails s
  | .thermalUpdate junc stack hub => Sys2Proof.Machine.execThermalUpdate junc stack hub s
  | .avsUpdate ans => Sys2Proof.Machine.execAvsUpdate ans s
  | .avsFaultClear => Sys2Proof.Machine.execAvsFaultClear s
  | .ptmDialogue offset => Sys2Proof.Machine.execPtmDialogue offset s
  | .idleEntry => Sys2Proof.Machine.execIdleEntry s
  | .wakeEvent => Sys2Proof.Machine.execWakeEvent s
  | .stateExitDone => Sys2Proof.Machine.execStateExitDone s
  | .perstDeassert => Sys2Proof.Machine.execPerstDeassert s
  | .deviceReady => Sys2Proof.Machine.execDeviceReady s
  | .reset cause => Sys2Proof.Machine.execReset cause s
  | .functionLevelReset => Sys2Proof.Machine.execFunctionLevelReset s
  | .pwrgdDeassert => Sys2Proof.Machine.execPwrgdDeassert s
  | .watchdogFire fatal => Sys2Proof.Machine.execWatchdogFire fatal s
  | .cfgApplyDecision acked => Sys2Proof.Machine.execCfgApplyDecision acked s
  | .cfgApplyCommit => Sys2Proof.Machine.execCfgApplyCommit s
  | .snapshotLatch => Sys2Proof.Machine.execSnapshotLatch s
  | .portTrain p lanes peer peerPort => Sys2Proof.Machine.execPortTrain p lanes peer peerPort s
  | .portRetry p => Sys2Proof.Machine.execPortRetry p s
  | .flitReceive p symErrs crcOk => Sys2Proof.Machine.execFlitReceive p symErrs crcOk s
  | .ackTimeout p => Sys2Proof.Machine.execAckTimeout p s
  | .boardConfigure => Sys2Proof.Machine.execBoardConfigure s
  | .timeExchange offset => Sys2Proof.Machine.execTimeExchange offset s
  | .roligInboundRequest src r => Sys2Proof.Machine.execRoligInboundRequest src r s
  | .remoteAck data poison refused => Sys2Proof.Machine.execRemoteAck data poison refused s
  | .remoteTimeout => Sys2Proof.Machine.execRemoteTimeout s
  | .hostReadCompletion d => Sys2Proof.Machine.execHostReadCompletion d s
  | .hostReadTimeout => Sys2Proof.Machine.execHostReadTimeout s
  | .atsInvalidation => Sys2Proof.Machine.execAtsInvalidation s
  | .ideKm stream coversHost => Sys2Proof.Machine.execIdeKm stream coversHost s
  | .ideLeaveSecure stream => Sys2Proof.Machine.execIdeLeaveSecure stream s
  | .challenge t => Sys2Proof.Machine.execChallenge t s
  | .getMeasurements t index signed => Sys2Proof.Machine.execGetMeasurements t index signed s
  | .keyExchange t => Sys2Proof.Machine.execKeyExchange t s
  | .respondIfReady t => Sys2Proof.Machine.execRespondIfReady t s
  | .slhDsaSignDone => Sys2Proof.Machine.execSlhDsaSignDone s
  | .sidebandRequest r => Sys2Proof.Machine.execSidebandRequest r s
  | .jtagInstruction x => Sys2Proof.Machine.execJtagInstruction x s
  | .heartbeat => Sys2Proof.Machine.execHeartbeat s
  | .chunkGet t => Sys2Proof.Machine.execChunkGet t s

end Sys2Proof.Machine
end

