-- ==== Sys2Proof/Safety.lean ====
section
/-! DEFINITION. What counts as a good state, and the turns and frames of commands, in the terms that the claims
use. -/

namespace Sys2Proof.Machine

/-! ### Good states -/

/-- Debug mode and test mode are on only where the settings permit them (17 Table 17.4, 18 R467, R473). -/
def State.Permitted (s : State) : Prop :=
  (s.dbg.dbgEn = true → s.boot.debugPermit = true) ∧ (s.dbg.tstEn = true → s.boot.testPermit = true)

/-- Outside test mode every test register holds its reset value and no injection is armed (18 R473, 20 R501). -/
def State.TestQuiet (s : State) : Prop :=
  s.dbg.tstEn = false →
    s.dbg.handshake = 0 ∧ s.dbg.credit = 0 ∧ s.dbg.delay = 0 ∧ s.dbg.eccLo = 0 ∧ s.dbg.eccHi = 0 ∧ s.dbg.eccCtrl = 0 ∧
      s.dbg.eccArmed = false ∧ s.dbg.nan = 0 ∧ s.dbg.nanArmed = false

/-- The groups of the part have their sizes: 64 contexts, 256 cores, 4 dies with a buffer each, 36 media engines, 12 ports,
16 routes (01, 12, 14 R366, 15). -/
def State.Shaped (s : State) : Prop :=
  s.ctxs.length = 64 ∧ s.cores.length = 256 ∧ s.dies.length = 4 ∧ s.dieBuf.length = 4 ∧ s.engines.length = 36 ∧
    s.ports.length = 12 ∧ s.routes.length = 16

/-- The error counts of every die are within their 16 bits (11 R297). -/
def State.CountsFit (s : State) : Prop := ∀ y ∈ s.dies, y.corr ≤ 0xFFFF ∧ y.uncorr ≤ 0xFFFF

/-- Device memory and the die buffers are in canonical form. -/
def State.Canonical (s : State) : Prop := Memory.wf s.mem = true ∧ ∀ b ∈ s.dieBuf, Memory.wf b = true

/-! ### Turns -/

/-- Descriptor i of context c is m and its work is w. -/
def State.Holds (s : State) (c i : Nat) (m : Cmd) (w : Work) : Prop := (s.ctx c).cmd? i = some m ∧ m.work? = some w

/-- It may act now: the context may, and the order of its ring allows it (13 R353, R357). -/
def State.Turn (s : State) (c i : Nat) (m : Cmd) (w : Work) : Prop :=
  s.Holds c i m w ∧ s.ready c = true ∧ (s.ctx c).inOrder i m = true

/-- Every command of context c with number uid has its writes at home since tick `now` (13 R340). -/
def State.Finished (s : State) (c uid : Nat) (now : Tick) : Prop :=
  ∀ m ∈ (s.ctx c).cmds, m.uid = uid → m.phase = .written now

/-- The commands of every context but c, and those of c but number uid, are as they were. -/
def OtherCommandsKept (s t : State) (c uid : Nat) : Prop :=
  (∀ d, d ≠ c → t.ctx d = s.ctx d) ∧ ∀ i m, (s.ctx c).cmd? i = some m → m.uid ≠ uid → (t.ctx c).cmd? i = some m

/-- The compute command of a piece of work: its row of the table. -/
def Work.row (w : Work) (c i : Nat) : Option Instr :=
  match w with
  | .matmul _ _ _ => some (.matmul c i)
  | .chain _ _ _ _ _ => some (.chain c i)
  | .attend _ _ => some (.attend c i)
  | .conv _ _ => some (.conv c i)
  | .pool _ => some (.pool c i)
  | .posy _ _ => some (.posy c i)
  | .fold _ _ => some (.reduceFold c i)
  | .rowstat _ _ _ _ => some (.reduceRowstat c i)
  | .clover _ _ _ _ _ _ => some (.reduceClover c i)
  | .transpose _ _ => some (.reduceTranspose c i)
  | .fill _ _ _ => some (.fill c i)
  | .noise _ _ _ => some (.noise c i)
  | .wupd _ => some (.wupd c i)
  | _ => none

/-! ### Rows in order -/

/-- Rows one after another, while each answers a next state. -/
def runRows (rows : List Instr) (s : State) : Host.Outcome State Fault Refusal :=
  rows.foldl (fun o r => match o with | .next t => exec r t | x => x) (.next s)

/-- The start and the end of n executions from a on. -/
def spanRows (c i a n : Nat) : List Instr :=
  (List.range n).flatMap fun k => [.stageExecutionStart c i (a + k), .stageExecutionDone c i (a + k)]

/-- The rows of a list in the flattened order (09 R233): executions, the copy of the pins after the prefix, the completion of each
step after its executions. -/
def StepList.rows (l : StepList) (c i : Nat) : List Instr :=
  let p := (l.stagesOf 0).length
  let q := (l.stagesOf 1).length
  spanRows c i 0 p ++ [.pinCopyDone c i] ++
    (List.range l.steps).flatMap (fun t => spanRows c i (p + t * q) q ++ [.stepComplete c i t]) ++
    spanRows c i (p + l.steps * q) (l.stagesOf 2).length

/-! ### Frames -/

/-- Bytes outside some ranges read as before. -/
def SameOutside (a b : Mem) (rs : List (Nat × Nat)) : Prop := ∀ x, inRegions rs x = false → b.byte x = a.byte x

/-- Every core but k is as it was. -/
def OtherCoresKept (s t : State) (k : Nat) : Prop := ∀ j, j ≠ k → t.core j = s.core j

/-- The offsets of BAR0 that Table 20.2 lists: first offset and length in bytes. -/
def listedRegisters : List (Nat × Nat) :=
  [(0x0, 12), (0x10000, 8), (0x11000, 256), (0x18000, 32768), (0x2E000, 16), (0x2F000, 16), (0x40000, 28), (0x40020, 20),
    (0x40040, 24), (0x60000, 4), (0x60008, 8), (0x60100, 8), (0x80000, 24), (0x81000, 8192), (0xA0000, 12), (0xC0000, 16),
    (0xC1000, 4096), (0xE0000, 32), (0x100000, 4), (0x200000, 16), (0x200100, 48), (0x200200, 64)] ++
  (List.range 4).flatMap fun d => [(0x401000 + d * 0x100000, 4), (0x402000 + d * 0x100000, 16)]

/-- Is an offset in the register index. -/
def listedOffset (off : Nat) : Bool := inRegions listedRegisters off

end Sys2Proof.Machine
end

