-- ==== Sys2Proof/Certificates/Slice0/Obligations.lean ====
section
/-! DEFINITION. The statements for the provers. -/

open Sys2Proof Sys2Proof.Machine

/-! ### The queue, time, reset, invariants -/

/-- A step takes the command at the front of the queue: it is exec of that command on the state with the queue's rest. -/
def Obligations.StepRunsFrontCommand : Prop :=
  ∀ (s : State) (c : Instr) (r : List Instr), s.pending = c :: r → step s = exec c { s with pending := r }

/-- With nothing waiting a step is one tick (the model's own choice, entry 4): the timebase goes on by one, counters may change, and
nothing else; while the control section is down, or in A4, nothing changes. -/
def Obligations.IdleStepIsOneTick : Prop :=
  ∀ s : State, s.pending = [] →
    (s.up = true → s.power.cur ≠ 4 → ∃ k, step s = .next { s with now := s.now + 1, counters := k }) ∧
    (s.up = false ∨ s.power.cur = 4 → step s = .next s)

/-- What reset leaves in the registers of Table 20.2 that have a Reset value, and in the groups behind them. -/
def Obligations.ResetRegisters : Prop :=
  (∀ off ∈ [0x10000, 0x10004, 0x2E000, 0x2E004, 0x2E008, 0x2E00C, 0x2F000, 0x2F004, 0x2F008, 0x2F00C, 0x40008, 0x40010, 0x40014,
      0x40018, 0x60000, 0x60008, 0x6000C, 0x60100, 0x60104, 0x80008, 0x80010, 0x80014, 0xC0004, 0xC0008, 0xC000C, 0xE0004,
      0xE0008, 0xE000C, 0xE0010, 0xE0014, 0xE0018, 0xE001C, 0x100000, 0x200004, 0x200008, 0x20000C, 0x401000, 0x402004, 0x402008,
      0x40200C], State.reset.reg off = 0) ∧
  State.reset.reg 0x0 = 0x4D4241FF ∧ State.reset.reg 0x4 = 0x01010418 ∧ State.reset.reg 0x40000 = 0x3E8 ∧
  State.reset.reg 0x40004 = 0x300 ∧ State.reset.reg 0x4000C = 0xC80 ∧ State.reset.reg 0x402000 = 0x18 ∧
  State.reset.reg 0xA0000 = 0x010026FD ∧ State.reset.pending = [] ∧ (∀ c < 64, (State.reset.ctx c).live = false)

/-- The state after reset meets every invariant. -/
def Obligations.ResetMeetsInvariants : Prop :=
  State.reset.Permitted ∧ State.reset.TestQuiet ∧ State.reset.Shaped ∧ State.reset.CountsFit ∧ State.reset.Canonical

/-- No step turns debug or test mode on where the settings forbid it. -/
def Obligations.PermitsKept : Prop :=
  ∀ s t : State, s.Permitted → step s = .next t → t.Permitted

/-- Outside test mode the test registers keep their reset values and nothing is armed, whatever steps are taken. -/
def Obligations.TestQuietKept : Prop :=
  ∀ s t : State, s.TestQuiet → step s = .next t → t.TestQuiet

/-- No step changes how many contexts, cores, dies, die buffers, engines, ports and routes there are.
Every step keeps the error counts of every die within 16 bits: they saturate. -/
def Obligations.SizesAndCountsKept : Prop :=
  (∀ s t : State, s.Shaped → step s = .next t → t.Shaped) ∧
  (∀ s t : State, s.CountsFit → step s = .next t → t.CountsFit)

/-- Every step keeps device memory and the die buffers in canonical form. -/
def Obligations.MemoryCanonicalKept : Prop :=
  ∀ s t : State, s.Canonical → step s = .next t → t.Canonical

/-- Every command completes but one: MEMORY_READ of an address that its memory does not have stops, and nothing else does. -/
def Obligations.OnlyAbsentAddressStops : Prop :=
  ∀ (c : Instr) (s : State),
    (∃ t, exec c s = .next t) ∨
      ∃ m a n u, c = .memoryRead m a n u ∧ memHas m a = false ∧ exec c s = .fault .absentAddress

/-! ### Registers and windows of the host -/

/-- A wake event changes the power manager and its counters only; in A0 it only restarts the time of idleness, and in a deeper state
it starts the exit, once. WAKE_EVENT and a write of PWR_WAKE are wake events. CONFIG_REQUEST gets Retry Status until the device is
ready; then it is a wake event, leaves LNK_PCIE_STATUS and the size of BAR2 as the host configured them (which values is the
model's free choice among the legal ones, entry 98), and completes; in recovery it completes. -/
def Obligations.ConfigAndWake : Prop :=
  (∀ s : State, (∃ p k, s.wake = { s with power := p, counters := k }) ∧
    (s.power.cur = 0 → s.wake = { s with power := { s.power with idleFrom := s.now } }) ∧
    (s.power.cur ≠ 0 → s.power.exiting = false → s.wake.power = { s.power with exiting := true, idleFrom := s.now }) ∧
    (s.power.cur ≠ 0 → s.power.exiting = true → s.wake = s)) ∧
  (∀ s : State,
    (∀ v, s.up = true → exec .wakeEvent s = .next s.wake ∧ exec (.pwrWake v) s = .next (s.received 4).wake) ∧
    (s.up = true → ∃ (w : Word) (n : Nat), exec .configRequest s = .next { s.wake.received 0 with
        link := { s.link with pcieStatus := w }, boot := { s.boot with bar2Size := n }, free := s.free + 2, tx := s.tx ++ [.cplDone] } ∧
      n ≤ 5 ∧ 1 ≤ w.toNat % 16 ∧ w.toNat % 16 ≤ 7) ∧
    (s.boot.life = .recovery → exec .configRequest s = .next { s with tx := s.tx ++ [.cplDone] }) ∧
    (s.boot.life = .booting ∨ s.boot.life = .flr → exec .configRequest s = .next { s with tx := s.tx ++ [.retryStatus] }))

/-- A write of BAR0 of another width than an aligned 32-bit one (or an aligned 64-bit one of the MSI-X arrays) is answered
with Unsupported Request and changes no register; that this holds of misaligned ones too is the model's choice (entry 90).
An offset that the register index does not list reads as zero and ignores writes.
A register that software owns holds what is written: CTX_HOST_TOKEN, SEC_RECOVERY_HI, CTX_CB_HI and CTX_MGMT_BASE_HI all
32 bits, LNK_IN_PEERS its lower 16; CTX_CB_LO drops bits [5:0] and CTX_MGMT_BASE_LO bits [11:0]; beside them only the arrival of
the packet shows: the wake event and the counts of packets received.
Unmasking an MSI-X vector whose pending bit is set sends its message and clears the bit; masking sends nothing.
Once the watchdog has fired, and in recovery, BAR0 answers in the ID and version block and the security block only: any
other offset reads as zero, and a write there changes nothing. -/
def Obligations.RegisterBlock : Prop :=
  (∀ (s : State) (off width : Nat) (v : Tick), s.up = true →
    ¬ (width = 4 ∧ off % 4 = 0) → ¬ (isMsix off = true ∧ width = 8 ∧ off % 8 = 0) →
    exec (.registerWrite off width v) s = .next { s.wake.received width with tx := s.tx ++ [.unsupported] }) ∧
  (∀ (s : State) (off : Nat) (v : Tick), listedOffset off = false → off % 4 = 0 →
    s.reg off = 0 ∧ (s.up = true → exec (.registerWrite off 4 v) s = .next (s.wake.received 4))) ∧
  (∀ (s : State) (v : Tick), s.up = true →
    let w : Word := BitVec.ofNat 32 (v.toNat % 2 ^ 32)
    let r := s.wake.received 4
    exec (.registerWrite 0x2F00C 4 v) s = .next { r with hostToken := w } ∧
    exec (.registerWrite 0x2E004 4 v) s = .next { r with cbHi := w } ∧
    exec (.registerWrite 0x2F004 4 v) s = .next { r with mgmtHi := w } ∧
    exec (.registerWrite 0x80014 4 v) s = .next { r with boot := { s.boot with recHi := w } } ∧
    exec (.registerWrite 0x20000C 4 v) s = .next { r with inPeers := w.toNat % 2 ^ 16 } ∧
    exec (.registerWrite 0x2E000 4 v) s = .next { r with cbLo := w &&& 0xFFFFFFC0 } ∧
    exec (.registerWrite 0x2F000 4 v) s = .next { r with mgmtLo := w &&& 0xFFFFF000 }) ∧
  (∀ (s : State) (i : Nat), s.hostUp = true → i < 2048 → NatSet.mem i s.pba = true →
    (∃ k m, exec (.registerWrite (0x18000 + 16 * i + 12) 4 0) s =
      .next { s.wake with counters := k, msix := m, pba := NatSet.del i s.pba, tx := s.tx ++ [.msix i] }) ∧
    ∃ m, exec (.registerWrite (0x18000 + 16 * i + 12) 4 1) s = .next { s.wake.received 4 with msix := m }) ∧
  (∀ (s : State) (off : Nat) (v : Tick), (s.boot.life = .ready ∧ s.boot.fired = true) ∨ s.boot.life = .recovery →
    secBlock off = false → off % 4 = 0 → s.reg off = 0 ∧ exec (.registerWrite off 4 v) s = .next s)

/-- DIE_ECC_COUNT_READ returns both counts of the die and clears both in the same access; the other dies keep theirs.
ECC_LOG_CLEAR with 1 in VALID clears VALID and leaves the rest of the log; with 0 it leaves the log.
TEL_TIME and CFG_APPLY_TIME: a read of LO returns the lower word and captures the upper word of the same value; the
next read of HI returns the captured word whatever the value is by then, and releases the capture; a read of HI without a
capture returns the upper word as it is. -/
def Obligations.ReadSideEffects : Prop :=
  (∀ (s : State) (d : Nat) (v : Word), s.up = true → d < 4 → s.CountsFit → d < s.dies.length →
    exec (.dieEccCountRead d) s = .next { s.wake.received 0 with
      dies := s.dies.set d { s.die d with corr := 0, uncorr := 0 }
      tx := s.tx ++ [.cpl (leBytes 4 ((s.die d).uncorr * 2 ^ 16 + (s.die d).corr)) false] } ∧
    exec (.eccLogClear d v) s = .next { s.wake.received 4 with
      dies := if v.toNat % 2 = 1 then s.dies.set d { s.die d with logLo := (s.die d).logLo &&& 0xFFFFFFFE } else s.dies }) ∧
  (∀ s : State, s.up = true → s.tbValid = true →
    let r := s.wake.received 0
    (exec .telTimeLoRead s = .next { r with
      hiTel := some (BitVec.ofNat 32 (s.now.toNat / 2 ^ 32)), tx := s.tx ++ [.cpl (leBytes 4 (s.now.toNat % 2 ^ 32)) false] }) ∧
    (exec .cfgApplyTimeLoRead s = .next { r with
      hiApply := some (BitVec.ofNat 32 (s.applyTime.toNat / 2 ^ 32))
      tx := s.tx ++ [.cpl (leBytes 4 (s.applyTime.toNat % 2 ^ 32)) false] }) ∧
    (exec (.timeHiRead .telTime) s = .next { r with
      hiTel := none
      tx := s.tx ++ [.cpl (leBytes 4 (match s.hiTel with | some w => w.toNat | none => s.now.toNat / 2 ^ 32)) false] }) ∧
    (exec (.timeHiRead .applyTime) s = .next { r with
      hiApply := none
      tx := s.tx ++ [.cpl (leBytes 4 (match s.hiApply with | some w => w.toNat | none => s.applyTime.toNat / 2 ^ 32)) false] }))

/-- BAR2_WRITE stores its bytes at BASE + offset, where BASE is LNK_BAR2_BASE.UNITS × 16 GiB without the bits below the
window's size: each stored byte reads back, every other byte of device memory reads as before, and of the rest only the
power manager, counters, and an ECC injection that the write takes change (over memory that holds no bad symbols).
BAR2_READ returns the bytes of device memory at BASE + offset, with EP where a unit of them is poisoned; a request that
reaches above device memory, and a write into a landing area outside debug mode, get Unsupported Request. -/
def Obligations.Bar2Window : Prop :=
  (∀ (s : State) (off : Nat) (data : List Byte) (ep : Bool), s.up = true → s.bar2Up = true → s.Canonical → s.mem.latent = [] →
    s.bar2Base + off + data.length ≤ devTop →
    (s.dbg.dbgEn = true ∨ ∀ i < data.length, s.landingAt (s.bar2Base + off + i) = none) →
    ∃ m g k, exec (.bar2Write off data ep) s = .next { s.wake with mem := m, dbg := g, counters := k } ∧
      (∀ i < data.length, m.byte (s.bar2Base + off + i) = data.getD i 0) ∧
      SameOutside s.mem m [(s.bar2Base + off, data.length)] ∧
      g = { s.dbg with eccArmed := g.eccArmed }) ∧
  (∀ (s : State) (off n : Nat), s.up = true → s.bar2Up = true →
    (s.bar2Base + off + n ≤ devTop → (∀ i < n, s.landingAt (s.bar2Base + off + i) = none) → s.mem.latent = [] →
      ∃ k, exec (.bar2Read off n) s = .next { s.wake with
        counters := k
        tx := s.tx ++ [.cpl (s.mem.read (s.bar2Base + off) n) (s.mem.poisoned 64 (s.bar2Base + off) n)] }) ∧
    (devTop < s.bar2Base + off + n → exec (.bar2Read off n) s = .next { s.wake.received 0 with tx := s.tx ++ [.unsupported] }) ∧
    (∀ data ep i, i < data.length → (s.landingAt (s.bar2Base + off + i)).isSome = true → s.dbg.dbgEn = false →
      exec (.bar2Write off data ep) s = .next { s.wake.received data.length with tx := s.tx ++ [.unsupported] }))

/-! ### Debug and test modes -/

/-- DBG_STOP in debug mode stops a context that exists and is neither halted, torn down nor being saved: its cores stop, its
slice is kept, a DEBUG message is sent. Otherwise the write sets ERR and stops nothing. Outside debug mode the stop, resume
and step commands are ignored. (Each is a packet of the host, which is counted.)
A resume of a stopped context lets its cores and its slice go on, and sends a DEBUG message; a step does so until each of
its cores has used n issue slots, and with n = 0, or no core to step, the context stays stopped. -/
def Obligations.DebugStopResumeStep : Prop :=
  (∀ (s : State) (c n : Nat), s.up = true →
    let r := s.received 4
    (s.dbg.dbgEn = true → (s.ctx c).live = true → (s.ctx c).halted = false → (s.ctx c).torn = false → (s.ctx c).saving = false →
      exec (.debugStop c) s = .next (State.debugMsg { r with
        dbg := { s.dbg with ctx := c }
        ctxs := s.ctxs.set c { (s.ctx c).pauseSlice s.now with dbgStopped := true }
        cores := s.cores.map fun y => if y.runsFor c then { y with dbgStop := true, stepLeft := none } else y } c true)) ∧
    (s.dbg.dbgEn = true → (s.ctx c).live = false ∨ (s.ctx c).halted = true ∨ (s.ctx c).torn = true ∨ (s.ctx c).saving = true →
      exec (.debugStop c) s = .next { r with dbg := { s.dbg with ctx := c, err := true } }) ∧
    (s.dbg.dbgEn = false → exec (.debugStop c) s = .next r ∧ exec (.debugResume c) s = .next r ∧ exec (.debugStep c n) s = .next r)) ∧
  (∀ (s : State) (c n : Nat), s.up = true → s.dbg.dbgEn = true → (s.ctx c).dbgStopped = true →
    let r := s.received 4
    (exec (.debugResume c) s = .next (State.debugMsg { r with
      dbg := { s.dbg with ctx := c }
      ctxs := s.ctxs.set c { (s.ctx c).runSlice (s.holds c) s.now with dbgStopped := false }
      cores := s.cores.map fun y => if y.runsFor c then { y with dbgStop := false, stepLeft := none } else y } c false)) ∧
    (0 < n → (s.cores.any fun y => y.runsFor c) = true → exec (.debugStep c n) s = .next (State.debugMsg { r with
      dbg := { s.dbg with ctx := c }
      ctxs := s.ctxs.set c { (s.ctx c).runSlice (s.holds c) s.now with dbgStopped := false }
      cores := s.cores.map fun y => if y.runsFor c then { y with dbgStop := false, stepLeft := some n } else y } c false)) ∧
    (n = 0 ∨ (s.cores.any fun y => y.runsFor c) = false → exec (.debugStep c n) s = .next { r with dbg := { s.dbg with ctx := c } }))

/-- DEBUG_EN can be set only while DEBUG_PERMIT is 1: a write that would set it otherwise is ignored; each change takes effect
at once and sends a MODE message, and clearing it resumes every stopped context.
In test mode a write of TST_ECC_CTRL keeps NSYM and TARGET, and arms at the address that TST_ECC_ADDR holds then when ARM is 1 with
NSYM not 0; a write of TST_NAN keeps the core and lane selected and arms when ARM is 1. Outside test mode both are ignored.
A read of DBG_WINDOW while the selected core is not stopped by debug returns zero and sets ERR; on a stopped core it
returns four bytes of the selected item, with every issued group applied; a register of the item with a parity error tears the
owner's context down. -/
def Obligations.DebugEnableArmWindow : Prop :=
  (∀ s : State, s.up = true →
    let r := s.received 4
    (s.dbg.dbgEn = false → s.boot.debugPermit = false → exec (.debugEnWrite true) s = .next r) ∧
    (s.dbg.dbgEn = false → s.boot.debugPermit = true →
      exec (.debugEnWrite true) s = .next (State.modeMsg { r with dbg := { s.dbg with dbgEn := true } })) ∧
    (s.dbg.dbgEn = true → ∃ u, exec (.debugEnWrite false) s = .next (State.modeMsg u) ∧ u.dbg = { s.dbg with dbgEn := false } ∧
      (∀ x ∈ u.ctxs, x.dbgStopped = false) ∧ (∀ y ∈ u.cores, y.dbgStop = false) ∧ u.mem = s.mem ∧ u.ctxs.length = s.ctxs.length) ∧
    (∀ v, s.dbg.dbgEn = v → exec (.debugEnWrite v) s = .next r)) ∧
  (∀ (s : State) (v : Word), s.up = true →
    let r := s.received 4
    (s.dbg.tstEn = true →
      (v.getLsbD 0 = true → v &&& 0xF0 ≠ 0 → exec (.eccArm v) s = .next { r with dbg := { s.dbg with
        eccCtrl := v &&& 0x1FFF0, eccArmed := true, armLo := s.dbg.eccLo, armHi := s.dbg.eccHi } }) ∧
      (v.getLsbD 0 = false ∨ v &&& 0xF0 = 0 → exec (.eccArm v) s = .next { r with dbg := { s.dbg with eccCtrl := v &&& 0x1FFF0 } }) ∧
      exec (.nanArm v) s = .next { r with dbg := { s.dbg with nan := v &&& 0x7FFFE, nanArmed := s.dbg.nanArmed || v.getLsbD 0 } }) ∧
    (s.dbg.tstEn = false → exec (.eccArm v) s = .next r ∧ exec (.nanArm v) s = .next r)) ∧
  (∀ (s : State) (off : Nat) (par : Bool), s.up = true → off < 4096 → off % 4 = 0 →
    let r := s.wake.received 0
    let k := s.dbg.sel.toNat / 2 ^ 24
    let item := s.dbg.sel.toNat / 2 ^ 20 % 16
    let index := s.dbg.sel.toNat % 256
    ((s.core k).dbgStop = false → exec (.dbgWindowRead off par) s =
      .next { r with tx := s.tx ++ [.cpl [0, 0, 0, 0] false], dbg := { s.dbg with err := true } }) ∧
    ((s.core k).dbgStop = true → exec (.dbgWindowRead off false) s = .next { r with
      tx := s.tx ++ [.cpl ((List.range 4).map fun j => (s.core k).drained.1.itemByte k item index (off + j)) false] }) ∧
    (∀ o, (s.core k).dbgStop = true → item ≤ 4 → (s.core k).itemOwner item index = some o → (s.ctx o.1).alive = true →
      o.1 < s.ctxs.length → ∃ t, exec (.dbgWindowRead off true) s = .next t ∧ (t.ctx o.1).torn = true))

/-- 18 R473. TST_CTRL.TEST_EN can be set only while TEST_PERMIT is 1. Clearing it returns every test register to its reset value and
disarms every injection. No injection acts while it is 0: no write is hit, no group is given a NaN. -/
def Obligations.TestModeRule : Prop :=
  ∀ s : State,
    (s.up = true → s.dbg.tstEn = false → s.boot.testPermit = false → exec (.testEnWrite true) s = .next (s.received 4)) ∧
    (s.up = true → s.dbg.tstEn = false → s.boot.testPermit = true →
      exec (.testEnWrite true) s = .next (State.modeMsg { s.received 4 with dbg := { s.dbg with tstEn := true } })) ∧
    (s.up = true → s.dbg.tstEn = true → exec (.testEnWrite false) s = .next (State.modeMsg { s.received 4 with
      dbg := { dbgEn := s.dbg.dbgEn, err := s.dbg.err, ctx := s.dbg.ctx, sel := s.dbg.sel } })) ∧
    (s.dbg.tstEn = false → (∀ tg who u a n, s.eccHits tg who u a n = none) ∧ ∀ k w, s.injects k w = none)

/-! ### Boot, resets, watchdog, anti-rollback, recovery -/

/-- PERST_N asserted, and loss of PWRGD, hold the device: every context and session ends, the host's token is 0, nothing of
device memory is kept, and a pending configuration change is lost. PERST_N deasserted starts the boot ROM, which reads the
configuration from OTP and ends booting or in recovery. A hot reset and a link-down run the ROM at once.
A Function Level Reset ends every context and session and returns the host's token, the configuration and the debug and test
registers to their reset values without running the ROM: what boot left stays but for the heartbeat, the recovery registers and
a pending commit of the anti-rollback count. When the device is ready again the control section runs; after a boot the timebase
is valid too. -/
def Obligations.ResetsAndReady : Prop :=
  (∀ s : State,
    (∃ t, exec (.reset .perst) s = .next t ∧ t.boot.life = .held ∧ t.boot.perstN = false ∧ t.hostToken = 0 ∧ t.shadow = none ∧
      t.sessions = [] ∧ (∀ c, (t.ctx c).live = false) ∧ t.cfg = Cfg.reset ∧ t.staged = Cfg.reset ∧ t.now = s.now ∧
      ∃ d, t.mem = Mem.lost d) ∧
    (s.boot.perstN = true → ∃ t, exec .pwrgdDeassert s = .next t ∧ t.boot.life = .held ∧ t.boot.pwrgd = false ∧ t.hostToken = 0 ∧
      t.shadow = none ∧ t.sessions = [] ∧ (∀ c, (t.ctx c).live = false) ∧ ∃ d, t.mem = Mem.lost d) ∧
    (s.boot.perstN = false → ∃ t, exec .perstDeassert s = .next t ∧ (t.boot.life = .booting ∨ t.boot.life = .recovery) ∧
      t.boot.perstN = true ∧ t.boot.fired = false ∧ t.hostToken = 0 ∧ ∀ c, (t.ctx c).live = false) ∧
    (s.boot.life = .ready → ∀ k, k ≠ .perst → ∃ t, exec (.reset k) s = .next t ∧ (t.boot.life = .booting ∨ t.boot.life = .recovery) ∧
      t.hostToken = 0 ∧ t.shadow = none ∧ t.sessions = [] ∧ ∀ c, (t.ctx c).live = false)) ∧
  (∀ s : State,
    (s.up = true → ∃ t, exec .functionLevelReset s = .next t ∧ t.hostToken = 0 ∧ t.sessions = [] ∧
      (∀ c, (t.ctx c).live = false) ∧ t.cfg = Cfg.reset ∧ t.staged = Cfg.reset ∧ t.dbg = State.reset.dbg ∧ t.now = s.now ∧
      t.boot = { s.boot with life := .flr, svnTarget := none, recLo := 0, recHi := 0, heartbeat := 0 }) ∧
    (s.boot.life = .flr → exec .deviceReady s = .next { s with boot := { s.boot with life := .ready } }) ∧
    (s.boot.life = .booting → exec .deviceReady s = .next { s with boot := { s.boot with life := .ready }, tbValid := true }))

/-- The heartbeat counts modulo 2^16. The watchdog fires at once on a fatal error, and otherwise only when no heartbeat came
for 50 ms: it sets FIRED and reports an uncorrectable internal error, and changes nothing else; in the state that it leaves no
request to host memory is sent, the device does not dispatch and no context is ready to act.
SEC_SVN_COMMIT with the key 0x5356 takes TARGET; a wrong key, or a commit under way, starts none. When it is done the count of
consecutive 1 bits of the counter is not below min(TARGET, IMAGE) nor below what it was, and it is the larger of the two where the
counter held no 1 bit above its count; nothing else changes.
GO in SEC_RECOVERY_LO, in recovery with STAGE 0x2, starts the load: STAGE becomes 0x3 and a read goes to the host address of the
two registers; with another STAGE, or without GO, the write only sets the address bits. The load's end sets STAGE 0x4 and FAIL_A 0
when the image passes, or returns STAGE to 0x2 with a reason that is not 0 in FAIL_A; a failed read, or poisoned data, gives the
reason 7. -/
def Obligations.WatchdogSvnRecovery : Prop :=
  (∀ s : State, s.up = true →
    (exec .heartbeat s = .next { s with boot := { s.boot with heartbeat := (s.boot.heartbeat + 1) % 65536, lastBeat := s.now } }) ∧
    (s.now.toNat - s.boot.lastBeat.toNat < 50000000 → exec (.watchdogFire false) s = .next s) ∧
    (∀ fatal, fatal = true ∨ 50000000 ≤ s.now.toNat - s.boot.lastBeat.toNat →
      let t : State := { s with boot := { s.boot with fired := true }, tx := s.tx ++ [.aer] }
      exec (.watchdogFire fatal) s = .next t ∧ (∀ p, t.toHost p = t) ∧ t.awake = false ∧ ∀ c, t.ready c = false)) ∧
  (∀ (s : State) (v : Word), s.boot.life = .ready ∨ s.boot.life = .recovery →
    let r := s.received 4
    (v.toNat / 65536 = 0x5356 → s.boot.svnTarget = none →
      exec (.svnCommit v) s = .next { r with boot := { s.boot with svnTarget := some (v.toNat % 256) } }) ∧
    (v.toNat / 65536 ≠ 0x5356 ∨ s.boot.svnTarget ≠ none → exec (.svnCommit v) s = .next r) ∧
    (∀ n, s.boot.svnTarget = some n → s.boot.imageSvn ≤ 128 → Cells.wf 0 s.boot.otp = true → ∃ otp,
      let t : State := { s with boot := { s.boot with otp := otp, svnTarget := none } }
      exec .svnCommitDone s = .next t ∧ min n s.boot.imageSvn ≤ t.boot.svnCount ∧ s.boot.svnCount ≤ t.boot.svnCount ∧
      (s.boot.otpNat 2560 16 = 2 ^ s.boot.svnCount - 1 → t.boot.svnCount = max s.boot.svnCount (min n s.boot.imageSvn)))) ∧
  (∀ (s : State) (v : Word),
    (s.boot.life = .recovery → s.boot.stage = 2 → v.getLsbD 0 = true → exec (.recoveryGo v) s = .next { s with
      boot := { s.boot with recLo := v &&& 0xFFFFF000, stage := 3 }
      tx := s.tx ++ [.hostRead (s.boot.recHi.toNat * 2 ^ 32 + (v &&& 0xFFFFF000).toNat) 0x8000 none] }) ∧
    (s.boot.stage ≠ 2 ∨ v.getLsbD 0 = false →
      exec (.recoveryGo v) s = .next { s.received 4 with boot := { s.boot with recLo := v &&& 0xFFFFF000 } }) ∧
    (s.boot.life = .recovery → s.boot.stage = 3 →
      (∀ bs, ∃ b, exec (.recoveryLoadDone (.ok bs false)) s = .next { s with free := s.free + 1, boot := b } ∧
        (b = { s.boot with stage := 4, failA := 0, imageGood := s.boot.imageGood.set 0 true } ∨
          ∃ r, r ≠ 0 ∧ b = { s.boot with stage := 2, failA := r })) ∧
      (exec (.recoveryLoadDone .failed) s = .next { s with boot := { s.boot with stage := 2, failA := 7 } }) ∧
      ∀ bs, exec (.recoveryLoadDone (.ok bs true)) s = .next { s with boot := { s.boot with stage := 2, failA := 7 } }))

/-! ### Management ring and configuration -/

/-- At the rise of ENABLE with LOG_ENTRIES 4 to 12 the management ring starts afresh: its sequences, its accepted head and
its messages at 0, its base as the registers stand, its window table read 512 bytes above it; out of that range ACTIVE stays 0; the
fall stops it.
Management descriptors run one at a time: a start is made only when none runs, and makes the fetched one the running
one, started now, or completes it with the code of the check that it fails; while one runs, or none is fetched, a start
changes nothing. HINT_LATENCY sets TOL to its L, is a wake event and completes with code 0.
A completion of the running management descriptor writes its MGMT_DONE record (KIND 0x01, its SEQ in REF, the code) in
the next message slot, then the status line, then sends the ring's vector; the ring holds no running descriptor after. -/
def Obligations.ManagementRing : Prop :=
  (∀ (s : State) (v : Word) (wins : HostData), s.up = true →
    let w : Word := BitVec.ofNat 32 (bits v.toNat 18 8 * 256 + bits v.toNat 7 4 * 16 + v.toNat % 2)
    (v.getLsbD 0 = true → s.mgmtCtrl.getLsbD 0 = false → 4 ≤ bits v.toNat 7 4 → bits v.toNat 7 4 ≤ 12 →
      ∃ g k x, exec (.mgmtEnableWrite v wins) s = .next { s.wake with mgmtCtrl := w, mgmt := g, counters := k, tx := x } ∧
        (s.hostUp = true → x = s.tx ++ [.hostRead (g.base + 512) 512 none]) ∧ g.active = true ∧ g.e = 0 ∧
        g.tail = 0 ∧ g.mseq = 0 ∧ g.cqHead = 0 ∧ g.running = none ∧ g.fetched = none ∧ g.logN = bits v.toNat 7 4 ∧
        g.base = s.mgmtHi.toNat * 2 ^ 32 + s.mgmtLo.toNat / 4096 * 4096) ∧
    (v.getLsbD 0 = true → s.mgmtCtrl.getLsbD 0 = false → 12 < bits v.toNat 7 4 ∨ bits v.toNat 7 4 < 4 →
      exec (.mgmtEnableWrite v wins) s = .next { s.wake.received 4 with mgmtCtrl := w }) ∧
    (v.getLsbD 0 = false → ∃ g, exec (.mgmtEnableWrite v wins) s = .next { s.wake.received 4 with mgmtCtrl := w, mgmt := g } ∧
      g.active = false ∧ g.fetched = none)) ∧
  (∀ (s : State) (d : MgmtDesc), s.awake = true →
    (s.mgmt.fetched = some d → s.mgmt.running = none →
      let u : State := { s with mgmt := { s.mgmt with fetched := none, running := some { d with start := s.now } } }
      exec .mgmtDescriptorStart s = .next (if u.mgmtCheck { d with start := s.now } = 0 then u
        else u.mgmtDone (u.mgmtCheck { d with start := s.now }) 0)) ∧
    (s.mgmt.running ≠ none ∨ s.mgmt.fetched = none → exec .mgmtDescriptorStart s = .next s) ∧
    (s.mgmt.running = some d → d.opcode = 0x14 → d.waiting = false → exec .hintLatency s = .next (
      (State.wake { s with power := { s.power with latTol := BitVec.ofNat 32 (bits d.desc 383 352) } }).ltrUpdate.mgmtDone 0 0))) ∧
  (∀ (s : State) (d : MgmtDesc) (code detail : Nat), s.mgmt.running = some d → s.hostUp = true →
    (s.msixWord (bits s.mgmtCtrl.toNat 18 8 * 4 + 3)).toNat % 2 = 0 →
    let g := s.mgmt
    let n := 2 ^ g.logN
    ∃ line k, (s.mgmtDone code detail) = { s with
      counters := k
      mgmt := { g with running := none, reserved := g.reserved - 1, mseq := g.mseq + 1, dropped := 0, lineDirty := false }
      tx := s.tx ++ [
        .hostWrite (g.base + 4096 + 64 * n + 32 * (g.mseq.toNat % n))
          (leBytes 32 (msgBits g.mseq.toNat d.seq.toNat s.now.toNat 0x01 0 0 false (min g.dropped 16383) code (detail % 2 ^ 64))) false false none,
        .hostWrite (g.base + 64) line false false none, .msix (bits s.mgmtCtrl.toNat 18 8)] })

/-- SNAPSHOT is refused with 0x0420 when T is below start + 2,000 or above start + 1,000,000,000, else with 0x0421 for its
address, else with 0x0422 for its groups; otherwise it is pending, and its descriptor waits.
Before T a pending snapshot stays. At T it is over: a header of 64 bytes and each counter of its groups in ascending order, 8 bytes
each, go to its address, in device memory (where they read back, over memory that holds no bad symbols, and no other byte changes)
or in host memory (as one write through the management windows), and the descriptor completes with code 0 and T. -/
def Obligations.SnapshotRule : Prop :=
  (∀ (s : State) (d : MgmtDesc), s.mgmtRun 0x18 = some d →
    let start := d.start.toNat
    let time := if bits d.desc 319 256 = 0 then start + 2000 else bits d.desc 319 256
    let groups := bits d.desc 255 240
    let addr := bits d.desc 383 320
    let n := 64 + 8 * (groupIndexes groups).length
    let badAddr := addr % 64 ≠ 0 ∨ (bit1 d.desc 239 = true ∧ winFor s.mgmt.wins addr n true = none) ∨
      (bit1 d.desc 239 = false ∧ devTop < addr + n)
    (time < start + 2000 ∨ start + 1000000000 < time → exec .snapshot s = .next (s.mgmtDone 0x420 0)) ∧
    (start + 2000 ≤ time → time ≤ start + 1000000000 → badAddr → exec .snapshot s = .next (s.mgmtDone 0x421 0)) ∧
    (start + 2000 ≤ time → time ≤ start + 1000000000 → ¬ badAddr → (groups = 0 ∨ groups % 2 = 1 ∨ 4096 ≤ groups) →
      exec .snapshot s = .next (s.mgmtDone 0x422 0)) ∧
    (start + 2000 ≤ time → time ≤ start + 1000000000 → ¬ badAddr → groups ≠ 0 → groups % 2 = 0 → groups < 4096 →
      exec .snapshot s = .next { s with
        snap := some { time := BitVec.ofNat 64 time, seq := d.seq, groups := groups, addr := addr, host := bit1 d.desc 239 }
        mgmt := { s.mgmt with running := some { d with waiting := true } } })) ∧
  (∀ (s : State) (q : Snap), s.snap = some q → s.awake = true →
    let header := q.time.toNat + q.seq.toNat * 2 ^ 64 + q.groups * 2 ^ 96 + (groupIndexes q.groups).length * 2 ^ 128
    let data := leBytes 64 header ++ (groupIndexes q.groups).flatMap fun i => leBytes 8 (s.counterNow i)
    (s.now.toNat < q.time.toNat → exec .snapshotLatch s = .next s) ∧
    (q.time.toNat ≤ s.now.toNat → q.host = false → s.Canonical → s.mem.latent = [] →
      ∃ u : State, exec .snapshotLatch s = .next (u.mgmtDone 0 q.time.toNat) ∧ u.snap = none ∧ u.mgmt = s.mgmt ∧
        u.mem.read q.addr data.length = data ∧ SameOutside s.mem u.mem [(q.addr, data.length)] ∧ u.ctxs = s.ctxs ∧ u.cores = s.cores) ∧
    (q.time.toNat ≤ s.now.toNat → q.host = true → s.hostUp = true →
      exec .snapshotLatch s = .next (State.mgmtDone { s with
        snap := none
        tx := s.tx ++ [.hostWrite q.addr data false false ((winFor s.mgmt.wins q.addr data.length true).bind HWin.tag)] } 0 q.time.toNat)))

/-- A write of a staged register changes the staged value and clears CLEAN, and never the live value. CFG_CHECK sets CLEAN when
the staged set has no conflict and else clears it; it leaves the count, changes neither set, and answers 0 or 0x0400 with the count;
with a list address in device memory the first MAX conflict records stand there, and no other byte changes.
From TIME − 2,000 on the hub decides: it commits when every island has acknowledged, else discards the shadow and answers
0x0407. At TIME a committed shadow becomes the live set, CFG_APPLY_TIME holds TIME, and the answer is 0 with TIME. -/
def Obligations.StageCheckCommit : Prop :=
  (∀ (s : State) (v : Tick) (d : MgmtDesc), s.up = true →
    let w : Word := BitVec.ofNat 32 (v.toNat % 2 ^ 32)
    let r := s.wake.received 4
    (exec (.registerWrite 0x4000C 4 v) s = .next { r with
      staged := { s.staged with pwrLimit := w &&& 0xFFF }, cfgClean := false }) ∧
    (exec (.registerWrite 0x60100 4 v) s = .next { r with staged := { s.staged with memMap := w &&& 3 }, cfgClean := false }) ∧
    (exec (.registerWrite 0x60104 4 v) s = .next { r with staged := { s.staged with bound := w &&& 1 }, cfgClean := false }) ∧
    (∀ x < 4, exec (.registerWrite (0x401000 + x * 0x100000) 4 v) s = .next { r with
      staged := { s.staged with mu := s.staged.mu.set x (w &&& 15) }, cfgClean := false }) ∧
    (s.mgmtRun 0x19 = some d →
      let code := if s.conflicts = [] then 0 else 0x400
      let list := bits d.desc 383 320
      let data := (s.conflicts.take (bits d.desc 319 304)).flatMap Conflict.bytes
      (list = 0 → exec .cfgCheck s = .next (State.mgmtDone { s with cfgConflicts := s.conflicts.length, cfgClean := s.conflicts.isEmpty }
        code (s.conflicts.length % 2 ^ 32))) ∧
      (list ≠ 0 → bit1 d.desc 303 = false → s.Canonical → s.mem.latent = [] → ∃ u : State,
        exec .cfgCheck s = .next (State.mgmtDone { u with cfgConflicts := s.conflicts.length, cfgClean := s.conflicts.isEmpty }
          code (s.conflicts.length % 2 ^ 32)) ∧ u.staged = s.staged ∧ u.cfg = s.cfg ∧
        u.mem.read list data.length = data ∧ SameOutside s.mem u.mem [(list, data.length)] ∧ u.ctxs = s.ctxs ∧ u.mgmt = s.mgmt))) ∧
  (∀ (s : State) (w : Shadow), s.shadow = some w → s.up = true →
    (w.decided = false → w.time.toNat ≤ s.now.toNat + 2000 →
      exec (.cfgApplyDecision true) s = .next { s with shadow := some { w with decided := true } } ∧
      exec (.cfgApplyDecision false) s = .next (State.mgmtDone { s with shadow := none } 0x407 0)) ∧
    (w.decided = true → w.time.toNat ≤ s.now.toNat →
      exec .cfgApplyCommit s = .next ((State.applied { s with cfg := w.cfg, shadow := none, applyTime := w.time } s.cfg).mgmtDone 0 w.time.toNat)) ∧
    (w.decided = false ∨ s.now.toNat < w.time.toNat → exec .cfgApplyCommit s = .next s))

/-- 17 R455. CFG_APPLY applies nothing and completes with the first code that holds: 0x0405 when CLEAN is 0; 0x0400 when the repeated
checks find a conflict, with CLEAN cleared; 0x0406 when TIME is not 0 and lies outside start + 10,000 to start + 490,000.
Else the staged set is copied into the shadow; TIME 0 means start + 10,000. -/
def Obligations.CfgApplyRule : Prop :=
  ∀ (s : State) (d : MgmtDesc), s.mgmtRun 0x1A = some d →
    let t := bits d.desc 383 320
    let start := d.start.toNat
    (s.cfgClean = false → exec .cfgApply s = .next (s.mgmtDone 0x405 0)) ∧
    (s.cfgClean = true → s.conflicts ≠ [] →
      exec .cfgApply s = .next (State.mgmtDone { s with cfgClean := false, cfgConflicts := s.conflicts.length } 0x400 s.conflicts.length)) ∧
    (s.cfgClean = true → s.conflicts = [] → t ≠ 0 → t < start + 10000 ∨ start + 490000 < t →
      exec .cfgApply s = .next (s.mgmtDone 0x406 0)) ∧
    (s.cfgClean = true → s.conflicts = [] → t = 0 ∨ (start + 10000 ≤ t ∧ t ≤ start + 490000) →
      exec .cfgApply s = .next { s with
        shadow := some { time := BitVec.ofNat 64 (if t = 0 then start + 10000 else t), cfg := s.staged, decided := false }
        mgmt := { s.mgmt with running := some { d with waiting := true } } })

/-! ### Contexts -/

/-- CREATE of a number that exists answers 0x0301 and changes nothing but the operation's status. Else the block of 256 bytes at CTX_CB,
and the window table where the block names one, are read: one that cannot be read whole answers 0x0303; a block that fails a check
answers that check's code; neither changes a context, a core or memory. A block that passes brings the context into existence with the
rings, windows and starting numbers of the block, writes its status line and answers 0.
DESTROY of a context that does not exist answers 0x0302. Of one that exists it ends the context, with its started commands torn down
first (cause 0x0317), empties its weight banks, closes its sessions and frees its cores, and answers 0; no other context changes.
While a Rolig request of the torn-down context is outstanding the operation stays busy; a halted context first needs a free slot. -/
def Obligations.CreateAndDestroy : Prop :=
  (∀ (s : State) (c : Nat) (bs : List Byte) (wins : HostData), s.opIs 1 c = true → s.hostUp = true →
    ((s.ctx c).live = true → exec (.create c (.ok bs false) wins) s = .next (s.finishOp c 0x301)) ∧
    ((s.ctx c).live = false →
      let read : Tx := .hostRead s.opCb 256 none
      exec (.create c .failed wins) s = .next (State.finishOp { s with tx := s.tx ++ [read] } c 0x303) ∧
      (∀ ep, ep = true ∨ bs.length ≠ 256 → ∃ t, exec (.create c (.ok bs ep) wins) s = .next t ∧ t.opBusy = false ∧ t.opResult = 0x303 ∧
        t.ctxs = s.ctxs ∧ t.cores = s.cores ∧ t.mem = s.mem) ∧
      (bs.length = 256 →
        let v := leNat (bs.take 128)
        let b := blockOf v
        let ringBits := (List.range 8).map fun r => leNat ((bs.drop (128 + 16 * r)).take 16)
        let code := s.createCode v b (ringBits.map ringOf) ringBits
        (b.hwinAddr ≠ 0 → (∀ ws, wins = .ok ws false → ws.length ≠ 512) → ∃ t, exec (.create c (.ok bs false) wins) s = .next t ∧
          t.opBusy = false ∧ t.opResult = 0x303 ∧ t.ctxs = s.ctxs ∧ t.cores = s.cores ∧ t.mem = s.mem) ∧
        (∀ ws, ws.length = 512 → b.hwinAddr = 0 ∨ wins = .ok ws false →
          (code ≠ 0 → ∃ t, exec (.create c (.ok bs false) wins) s = .next t ∧ t.opBusy = false ∧ t.opResult = code ∧ t.ctxs = s.ctxs ∧
            t.cores = s.cores ∧ t.mem = s.mem) ∧
          (code = 0 → c < s.ctxs.length → ∃ t line, exec (.create c (.ok bs false) wins) s = .next t ∧ t.opBusy = false ∧ t.opResult = 0 ∧
            (t.ctx c).live = true ∧ (t.ctx c).blk = some b ∧ (t.ctx c).rings = ringBits.map ringOf ∧
            (t.ctx c).hwins = (if b.hwinAddr = 0 then [] else hwinsOf ws) ∧
            (t.ctx c).nextCseq = BitVec.ofNat 32 b.cseq0 ∧ (t.ctx c).cqHead = BitVec.ofNat 32 b.cseq0 ∧ (t.ctx c).cmds = [] ∧
            (t.ctx c).armed = b.nanEn ∧ (∀ e, e ≠ c → t.ctx e = s.ctx e) ∧ t.mem = s.mem ∧ t.cores = s.cores ∧
            t.tx = s.tx ++ [read] ++ (if b.hwinAddr = 0 then [] else [.hostRead b.hwinAddr 512 none]) ++
              [.hostWrite b.cqBase line false false none]))))) ∧
  (∀ (s : State) (c : Nat), s.opIs 2 c = true → c < s.ctxs.length →
    ((s.ctx c).live = false → exec (.destroy c) s = .next (s.finishOp c 0x302)) ∧
    ((s.ctx c).live = true → (s.ctx c).halted = true → (s.ctx c).slotFree = false → exec (.destroy c) s = .next s) ∧
    ((s.ctx c).live = true → (s.ctx c).halted = false ∨ (s.ctx c).slotFree = true → (s.ctx c).teardown = none →
      let starts := (s.ctx c).alive && (s.ctx c).anyActive
      ((s.remote.any fun q => q.ctx == c) = false ∨ starts = false →
        ∃ t, exec (.destroy c) s = .next t ∧ t.opBusy = false ∧ t.opResult = 0 ∧ (t.ctx c) = {} ∧ (∀ e, e ≠ c → t.ctx e = s.ctx e) ∧
          (∀ y ∈ t.cores, y.runsFor c = false ∧ y.waitsFor c = false ∧ ∀ b ∈ y.banks, b.owner ≠ some c) ∧
          (∀ q ∈ t.sessions, q.ctx ≠ c) ∧ t.dbg = s.dbg ∧ t.boot = s.boot) ∧
      ((s.remote.any fun q => q.ctx == c) = true → starts = true →
        ∃ t, exec (.destroy c) s = .next t ∧ (t.ctx c).torn = true ∧ (t.ctx c).teardown = some (0x317, 3, (s.ctx c).destroyedCmd) ∧
          t.opBusy = s.opBusy ∧ ∀ e, e ≠ c → t.ctx e = s.ctx e)))

/-- PREEMPT of a context that exists, is neither halted nor torn down and not yet pre-empted saves each core that runs for it into its
slot of a landing area, takes its tile commands off the cores, and changes no other byte of device memory and no other context. It
answers 0 once the save is done; a register that the save found bad tears the context down instead. Of one already
pre-empted it answers 0 at once; of one halted or torn down, 0x0308; of one that does not exist, 0x0302.
RESUME of a halted context, once a completion slot is free, lets it go on: the trapped command is started again with its
trap disarmed, a slot is reserved for its final record, the context's trap is armed as its block says. It answers 0x0308 for a
context that is not halted and 0x0302 for one that does not exist, and waits while no slot is free. -/
def Obligations.PreemptAndResume : Prop :=
  (∀ (s : State) (c : Nat), s.opIs 3 c = true → c < s.ctxs.length →
    ((s.ctx c).live = false → exec (.preempt c) s = .next (s.finishOp c 0x302)) ∧
    ((s.ctx c).live = true → (s.ctx c).halted = true ∨ (s.ctx c).torn = true → exec (.preempt c) s = .next (s.finishOp c 0x308)) ∧
    ((s.ctx c).live = true → (s.ctx c).halted = false → (s.ctx c).torn = false → (s.ctx c).saving = false →
      ((s.ctx c).preempted = true → exec (.preempt c) s = .next (s.finishOp c 0)) ∧
      ((s.ctx c).preempted = false →
        let ks := (List.range s.cores.length).filter fun k => (s.core k).runsFor c
        ∃ t, exec (.preempt c) s = .next t ∧ (t.ctx c).preempted = true ∧ (t.ctx c).saving = true ∧
          t.holds c = false ∧ t.opBusy = s.opBusy ∧ (∀ e, e ≠ c → t.ctx e = s.ctx e) ∧ t.dbg = s.dbg ∧
          (t.ctx c).savedCores.length = (s.ctx c).savedCores.length + ks.length ∧
          SameOutside s.mem t.mem (ks.map fun k => ((s.ctx c).slotAddr k, slotBytes)))) ∧
    (∀ e : SaveEnd, e.ctx = c → s.up = true → (s.ctx c).saving = true → (s.ctx c).halted = false →
      (e.par = none → (s.ctx c).lateNan = none → ∃ t, exec (.preemptSaveDone e) s = .next t ∧ (t.ctx c).saving = false ∧
        t.opBusy = false ∧ t.opResult = 0 ∧ t.mem = s.mem ∧ t.cores = s.cores ∧ ∀ d, d ≠ c → t.ctx d = s.ctx d) ∧
      (∀ p v, e.par = some p → ((s.ctx c).savedCores.find? fun v => v.core == p.1) = some v →
        v.state.prev.toList ++ v.state.run.toList ≠ [] → (s.ctx c).alive = true →
        ∃ t, exec (.preemptSaveDone e) s = .next t ∧ (t.ctx c).torn = true))) ∧
  (∀ (s : State) (c : Nat), s.opIs 4 c = true → c < s.ctxs.length →
    ((s.ctx c).live = false → exec (.resume c) s = .next (s.finishOp c 0x302)) ∧
    ((s.ctx c).live = true → (s.ctx c).halted = false → exec (.resume c) s = .next (s.finishOp c 0x308)) ∧
    ((s.ctx c).live = true → (s.ctx c).halted = true → (s.ctx c).slotFree = false → exec (.resume c) s = .next s) ∧
    (∀ b, (s.ctx c).live = true → (s.ctx c).halted = true → (s.ctx c).slotFree = true → (s.ctx c).blk = some b →
      exec (.resume c) s = .next (State.finishOp { s with ctxs := s.ctxs.set c { s.ctx c with
        halted := false, reserved := (s.ctx c).reserved + 1, armed := b.nanEn, lineDirty := true
        preempted := !(s.ctx c).savedCores.isEmpty
        cmds := (s.ctx c).cmds.map fun m => if m.phase = .trapped then { m with phase := .started, disarm := true } else m } } c 0)))

/-- A context that wins the dispatch with a core for what it has to place: a tile command goes onto the first eligible core in scan
order, where it begins when the core runs none and else waits behind the running one, and is no longer to be placed; a saved core is
restored; no other core changes, no bit of device memory or of a die buffer, and no other context. Without a core its victim is
pre-empted. A context that loses changes nothing, and one without anything to place that is pre-empted goes on. -/
def Obligations.TilePlacement : Prop :=
  (∀ (s : State) (c : Nat), s.toPlace c = none → s.awake = true → (s.ctx c).runs = true → c < s.ctxs.length →
    ∃ t, exec (.tilePlace c) s = .next t ∧ (t.ctx c).preempted = false ∧ t.cores = s.cores ∧ t.mem = s.mem) ∧
  (∀ (s : State) (c : Nat) (r : Ready), s.toPlace c = some r → c < s.ctxs.length →
    let won := s.winner dispatchRes false ((List.range s.ctxs.length).filter s.competes) = some c
    (¬ won → exec (.tilePlace c) s = .next s) ∧
    (∀ v, won → s.coreFor c r = none → s.victim c r = some v → exec (.tilePlace c) s = .next (s.preemptCtx v)) ∧
    (∀ k, won → s.coreFor c r = some k → k < s.cores.length →
      (s.ctx c).bounded = true ∨ s.holds c = true ∨ (s.ctx c).debt < (s.ctx c).slice →
      (∀ u e n m t, r = .tile u e n → (s.ctx c).preempted = false → (s.ctx c).byUid u = some m → s.tileOf c u e n = some t →
        ∃ v, exec (.tilePlace c) s = .next v ∧
          ((s.core k).run = none → (v.core k).run = some t ∧ (v.core k).wait = none) ∧
          ((s.core k).run ≠ none → v.core k = { s.core k with wait := some t, aheadFill := 0 }) ∧
          OtherCoresKept s v k ∧ v.mem = s.mem ∧ v.dieBuf = s.dieBuf ∧ (∀ d, d ≠ c → v.ctx d = s.ctx d) ∧
          (∀ y ∈ (v.ctx c).cmds, y.uid = u → y = m.placed e n)) ∧
      (∀ q, r = .saved q → s.mem.latent = [] →
        ∃ v, exec (.tilePlace c) s = .next v ∧ (v.core k).run = q.state.run ∧ (v.core k).prev = q.state.prev ∧
          (v.core k).acc = (q.state.fromSlot s.mem ((s.ctx c).slotAddr q.core)).acc ∧ (v.ctx c).savedCores = (s.ctx c).savedCores.erase q ∧
          (v.ctx c).preempted = false ∧ OtherCoresKept s v k ∧ v.mem = s.mem ∧ v.dieBuf = s.dieBuf ∧ ∀ d, d ≠ c → v.ctx d = s.ctx d)))

/-- The slice of an unbounded context that holds a core ends after its length: a rival for its cores has it pre-empted, and
without one a new slice begins at once, of what its debt leaves; before the end, and for a bounded context, nothing changes.
The end of a teardown, once no Rolig request of the context is outstanding and a slot is free for a trapped command: the
context keeps no command and no reservation, its status line is written, a TEARDOWN message follows, and no other context
changes. Before that TEARDOWN_COMPLETE changes nothing. -/
def Obligations.SliceAndTeardown : Prop :=
  (∀ (s : State) (c : Nat) (b : Tick), (s.ctx c).sliceStart = some b →
    ((s.ctx c).bounded = true ∨ s.now.toNat - b.toNat < (s.ctx c).sliceLen → exec (.sliceExpiry c) s = .next s) ∧
    ((s.ctx c).bounded = false → s.up = true → (s.ctx c).runs = true → s.holds c = true → (s.ctx c).sliceLen ≤ s.now.toNat - b.toNat →
      (s.rival c = true → exec (.sliceExpiry c) s = .next (s.preemptCtx c)) ∧
      (s.rival c = false → (s.ctx c).debt < (s.ctx c).slice → exec (.sliceExpiry c) s = .next { s with
        ctxs := s.ctxs.set c { s.ctx c with sliceStart := some s.now, sliceLen := (s.ctx c).slice - (s.ctx c).debt, debt := 0 } }) ∧
      (s.rival c = false → (s.ctx c).slice ≤ (s.ctx c).debt → exec (.sliceExpiry c) s = .next { s with
        ctxs := s.ctxs.set c { s.ctx c with sliceStart := some s.now, sliceLen := 0, debt := (s.ctx c).debt - (s.ctx c).slice } }))) ∧
  (∀ (s : State) (c : Nat),
    (s.teardownReady c = false → exec (.teardownComplete c) s = .next s) ∧
    (∀ code status uid b, s.teardownReady c = true → (s.ctx c).teardown = some (code, status, uid) → (s.ctx c).blk = some b →
      c < s.ctxs.length →
      ∃ u : State, exec (.teardownComplete c) s = .next (u.message 0x03 0 c 0 false status 0) ∧ (u.ctx c).cmds = [] ∧
        (u.ctx c).reserved = 0 ∧ (u.ctx c).teardown = none ∧ (u.ctx c).torn = (s.ctx c).torn ∧ (∀ e, e ≠ c → u.ctx e = s.ctx e) ∧
        u.mem = s.mem ∧ u.cores = s.cores ∧
        (s.hostUp = true → ∃ line, .hostWrite b.cqBase line false false none ∈ u.tx)))

/-! ### Rings, doorbells and records -/

/-- A poll reads the doorbell line of every context that exists and is not torn down, and of no other; none is made in A4.
A CQ_HEAD read at a poll is accepted when (CQ_HEAD − H) is at most (NEXT_CSEQ − H), where H is the head last accepted; any
other value is ignored: the device keeps H. The management ring treats its CQ_HEAD in the same way. A context starts with H at
CSEQ0, the management ring with 0.
A tail read at a poll is accepted when it is at most 2^LOG_ENTRIES ahead of E, and the ring's earlier bad value is
forgotten; another value is not accepted and is kept as the bad value, and a bad value is ignored until it changes. A ring that is paused goes on when its RESUME byte has
changed since it was first read. A read of the line that fails tears the context down. -/
def Obligations.DoorbellRule : Prop :=
  (∀ s : State, s.hostUp = true →
    (s.power.cur = 4 → exec .doorbellPoll s = .next s) ∧
    (s.power.cur ≠ 4 → ∃ t, exec .doorbellPoll s = .next t ∧ t.power.polls = s.power.polls + 1 ∧ t.ctxs = s.ctxs ∧ t.mem = s.mem ∧
      t.mgmt = s.mgmt ∧
      (∀ c < 64, ∀ b, (s.ctx c).blk = some b → (s.ctx c).alive = true → .hostRead b.dbAddr 64 none ∈ t.tx) ∧
      (s.tx = [] → ∀ a n q, .hostRead a n q ∈ t.tx →
        (∃ c < 64, ∃ b, (s.ctx c).alive = true ∧ (s.ctx c).blk = some b ∧ b.dbAddr = a) ∨ (s.mgmt.active = true ∧ s.mgmt.base = a)))) ∧
  ((∀ (s : State) (c : Nat) (bs : List Byte), s.hostUp = true → (s.ctx c).alive = true → bs.length = 64 → c < s.ctxs.length →
    let h := (s.ctx c).cqHead
    let v : Word := BitVec.ofNat 32 (bits (leNat bs) 287 256)
    ∃ t, exec (.doorbellRead (.ctx c) (.ok bs false)) s = .next t ∧ (t.ctx c).nextCseq = (s.ctx c).nextCseq ∧
      ((v - h).toNat ≤ ((s.ctx c).nextCseq - h).toNat → (t.ctx c).cqHead = v) ∧
      (((s.ctx c).nextCseq - h).toNat < (v - h).toNat → (t.ctx c).cqHead = h) ∧ ∀ e, e ≠ c → t.ctx e = s.ctx e) ∧
  (∀ (s : State) (bs : List Byte), s.hostUp = true → s.mgmt.active = true → bs.length = 64 →
    let h := s.mgmt.cqHead
    let v : Word := BitVec.ofNat 32 (bits (leNat bs) 287 256)
    ∃ t, exec (.doorbellRead .mgmt (.ok bs false)) s = .next t ∧
      ((v - h).toNat ≤ (s.mgmt.mseq - h).toNat → t.mgmt.cqHead = v) ∧
      ((s.mgmt.mseq - h).toNat < (v - h).toNat → t.mgmt.cqHead = h)) ∧
  (∀ b rings ws, (newCtx b rings ws).cqHead = BitVec.ofNat 32 b.cseq0)) ∧
  (∀ (s : State) (c r : Nat) (bs : List Byte), s.hostUp = true → (s.ctx c).alive = true → bs.length = 64 → c < s.ctxs.length →
    r < 8 → r < (s.ctx c).rings.length → ((s.ctx c).ring r).en = true →
    let y := (s.ctx c).ring r
    let v : Word := BitVec.ofNat 32 (bits (leNat bs) (32 * r + 31) (32 * r))
    (∃ t, exec (.doorbellRead (.ctx c) (.ok bs false)) s = .next t ∧
      (y.bad = some v → ((t.ctx c).ring r).tail = y.tail ∧ ((t.ctx c).ring r).bad = y.bad) ∧
      (y.bad ≠ some v → (v - y.e).toNat ≤ 2 ^ y.logN → ((t.ctx c).ring r).tail = v ∧ ((t.ctx c).ring r).bad = none) ∧
      (y.bad ≠ some v → 2 ^ y.logN < (v - y.e).toNat → ((t.ctx c).ring r).tail = y.tail ∧ ((t.ctx c).ring r).bad = some v) ∧
      (y.paused = true → ((t.ctx c).ring r).paused =
        match y.resumeByte with | none => true | some b => decide (b = bits (leNat bs) (288 + 8 * r + 7) (288 + 8 * r))) ∧
      ((t.ctx c).ring r).e = y.e ∧ t.mem = s.mem) ∧
    exec (.doorbellRead (.ctx c) .failed) s = .next (s.faultCtx c 0x314 none))

/-- A descriptor fetched from the ring whose turn it is: its slot is read, a completion slot is reserved; with SEQ equal to E it joins
the context's commands and E advances; with another SEQ it joins them as a sequence failure, E stays, the ring pauses and the doorbell
line is read again. Out of turn a fetch changes nothing; a read that fails tears the context down. A management descriptor is
fetched while none runs and none is fetched, and waits for its start. -/
def Obligations.FetchRule : Prop :=
  (∀ (s : State) (c r : Nat) (bs : List Byte), s.hostUp = true → bs.length = 64 →
    let x := s.ctx c
    let y := x.ring r
    let seq : Word := BitVec.ofNat 32 (bits (leNat bs) 511 480)
    let read : Tx := .hostRead (slotOf y.base y.e y.logN) 64 none
    (x.nextRing ≠ some r ∨ x.runs = false → exec (.descriptorFetched (.ctx c) r (.ok bs false)) s = .next s) ∧
    (x.nextRing = some r → x.runs = true → x.preempted = false → c < s.ctxs.length → r < x.rings.length →
      (∀ b, x.blk = some b → ∃ z m k, exec (.descriptorFetched (.ctx c) r (.ok bs false)) s = .next { s with
          ctxs := s.ctxs.set c z, counters := k
          tx := s.tx ++ [read] ++ if seq = y.e then [] else [.hostRead b.dbAddr 64 none] } ∧
        z.cmds = x.cmds ++ [m] ∧ z.reserved = x.reserved + 1 ∧ m.seq = seq ∧ m.opcode = bits (leNat bs) 479 472 ∧ m.desc = leNat bs ∧
        m.ring = r ∧
        (seq = y.e → m.phase = .fetched ∧ (z.ring r) = { y with e := y.e + 1 }) ∧
        (seq ≠ y.e → m.phase = .badSeq ∧ (z.ring r) = { y with paused := true, resumeByte := none })) ∧
      ∃ t, exec (.descriptorFetched (.ctx c) r .failed) s = .next t ∧ (t.ctx c).torn = true)) ∧
  (∀ (s : State) (r : Nat) (bs : List Byte), s.hostUp = true → bs.length = 64 → s.mgmt.active = true → s.mgmt.paused = false →
    s.mgmt.running = none → s.mgmt.fetched = none → s.mgmt.e ≠ s.mgmt.tail → s.mgmt.room = true →
    BitVec.ofNat 32 (bits (leNat bs) 511 480) = s.mgmt.e → ∃ k, exec (.descriptorFetched .mgmt r (.ok bs false)) s = .next { s with
      counters := k
      tx := s.tx ++ [.hostRead (slotOf (s.mgmt.base + 4096) s.mgmt.e s.mgmt.logN) 64 none]
      mgmt := { s.mgmt with
        e := s.mgmt.e + 1, lineDirty := true, reserved := s.mgmt.reserved + 1
        fetched := some { seq := s.mgmt.e, opcode := bits (leNat bs) 479 472, desc := leNat bs, start := 0 } } })

/-- Validation in its turn: a descriptor whose line was poisoned tears the context down; one that fails a check of the
descriptor is rejected with the code of the lowest failure. Of the others that name no chain in host memory (over memory that holds
no bad symbols) one whose copies would not fit the copy area at all is rejected with 0x0309, one that reads poison tears the context
down, one that fails a check of its work is rejected with that failure, and one whose work passes every check is ready with that work,
with the table banks then active, and with its tile commands to place. Nothing but the context's command changes unless the context
is torn down. -/
def Obligations.ValidationRule : Prop :=
  ∀ (s : State) (c i : Nat) (m : Cmd) (ch : HostData), (s.ctx c).cmd? i = some m → s.validTurn c i m = true →
    (m.poisoned = true → exec (.commandValidate c i ch) s = .next (s.faultCtx c 0x310 (some m.uid))) ∧
    (∀ f, m.poisoned = false → lowest (s.descFails c ((s.ctx c).descPlace m) m.desc) = some f →
      ∃ t, exec (.commandValidate c i ch) s = .next t ∧ OtherCommandsKept s t c m.uid ∧ t = { s with ctxs := t.ctxs } ∧
        ∀ y ∈ (t.ctx c).cmds, y.uid = m.uid → y.phase = .rejected f.1 f.2.1 f.2.2) ∧
    (m.poisoned = false → lowest (s.descFails c ((s.ctx c).descPlace m) m.desc) = none → s.needsHost m.desc = false →
      s.mem.latent = [] →
      let k := s.check c m.desc []
      let n := (k.reads.map fun r => r.2).foldl (fun a b => a + b) 0 + k.extra
      (copyArea < n → ∃ t, exec (.commandValidate c i ch) s = .next t ∧ OtherCommandsKept s t c m.uid ∧ t = { s with ctxs := t.ctxs } ∧
        ∀ y ∈ (t.ctx c).cmds, y.uid = m.uid → y.phase = .rejected 0x0309 0 0) ∧
      ((s.ctx c).copies + n ≤ copyArea → k.reads.any (fun r => s.mem.poisoned 64 r.1 r.2) = true →
        exec (.commandValidate c i ch) s = .next (s.faultCtx c 0x310 (some m.uid))) ∧
      ((s.ctx c).copies + n ≤ copyArea → k.reads.any (fun r => s.mem.poisoned 64 r.1 r.2) = false →
        (∀ f g, k.verdict = .bad f g → ∃ t, exec (.commandValidate c i ch) s = .next t ∧ OtherCommandsKept s t c m.uid ∧
          t = { s with ctxs := t.ctxs } ∧
          ∀ y ∈ (t.ctx c).cmds, y.uid = m.uid → y.phase = .rejected f.1 f.2.1 f.2.2 ∧ y.recStage = g) ∧
        (∀ j, k.verdict = .ok j → ∃ t, exec (.commandValidate c i ch) s = .next t ∧ OtherCommandsKept s t c m.uid ∧
          t = { s with ctxs := t.ctxs } ∧
          ∀ y ∈ (t.ctx c).cmds, y.uid = m.uid → y.phase = .checked ∧ y.job = some j ∧ y.unplaced = List.range j.tiles ∧
            y.banks = if bindsTables m.opcode then s.tables.active else [])))

/-- The completion record of a command whose writes are home, in its turn, goes into the next slot: the next CSEQ, the
descriptor's SEQ and the tick of its completion; the command leaves, its reservation is used, CSEQ advances.
The interrupt of a context is sent once COUNT records with IRQ 1 are written since the last, or the oldest of them is DELAY
ticks old, and the count starts anew; a masked vector becomes pending instead. A status line that has changed is written to the
start of the completion area, and then counts as unchanged. -/
def Obligations.RecordsAndInterrupts : Prop :=
  (∀ (s : State) (c i : Nat) (m : Cmd) (b : CtxBlock) (w : Tick), (s.ctx c).cmd? i = some m → m.phase = .written w →
    s.hostUp = true → (s.ctx c).alive = true → (s.ctx c).recordTurn i m = true → (s.ctx c).blk = some b →
    let x := s.ctx c
    ∃ t rest, exec (.completionRecordWrite c i) s = .next t ∧
      t.tx = s.tx ++ .hostWrite (b.cqBase + 64 + 32 * (x.nextCseq.toNat % 2 ^ b.logNc))
        (leBytes 32 (recordBits x.nextCseq m.seq w m 0 0 0 0)) false false none :: rest ∧
      (t.ctx c).nextCseq = x.nextCseq + 1 ∧ (t.ctx c).reserved = x.reserved - 1 ∧
      (t.ctx c).cmds = x.cmds.filter (fun y => y.uid != m.uid) ∧ (∀ e, e ≠ c → t.ctx e = s.ctx e) ∧ t.mem = s.mem ∧ t.cores = s.cores) ∧
  (∀ (s : State) (c : Nat) (b : CtxBlock) (w : Tick), s.hostUp = true → (s.ctx c).alive = true → (s.ctx c).blk = some b →
    ((s.ctx c).irqOldest = some w → (b.delay ≤ s.now.toNat - w.toNat ∨ b.count ≤ (s.ctx c).irqCount) →
      let u : State := { s with ctxs := s.ctxs.set c { s.ctx c with irqCount := 0, irqOldest := none } }
      ((s.msixWord (b.vector * 4 + 3)).toNat % 2 = 0 → ∃ k, exec (.irqDelayExpiry c) s = .next { u with tx := s.tx ++ [.msix b.vector], counters := k }) ∧
      ((s.msixWord (b.vector * 4 + 3)).toNat % 2 = 1 → exec (.irqDelayExpiry c) s = .next { u with pba := NatSet.add b.vector s.pba })) ∧
    ((s.ctx c).irqOldest = none → exec (.irqDelayExpiry c) s = .next s) ∧
    ((s.ctx c).lineDirty = true → exec (.statusLineRefresh (.ctx c)) s = .next { s with
      tx := s.tx ++ [.hostWrite b.cqBase (leBytes 64 ((s.ctx c).line s.now)) false false none]
      ctxs := s.ctxs.set c { s.ctx c with lineDirty := false } }) ∧
    ((s.ctx c).lineDirty = false → exec (.statusLineRefresh (.ctx c)) s = .next s))

/-! ### Order: fences, slipways, timestamps -/

/-- A FENCE of ring scope completes once every earlier descriptor of its ring has; one of context scope once every descriptor
that the context fetched before it has, on any ring; before that it changes nothing. On the management ring, where only one
descriptor runs, it completes at once.
TIMESTAMP, once every earlier descriptor of its ring has completed, writes the tick as 8 bytes: to device memory (over lines that
hold no bad symbols), where they read back and no other byte changes, or as one write through the context's host window; then it is
complete. To another device with a valid route it sends one write, and waits for its answer. On the management ring it writes the
same and completes with code 0. -/
def Obligations.FenceAndTimestamp : Prop :=
  (∀ (s : State) (c i : Nat) (m : Cmd), s.ready c = true →
    (s.Holds c i m (.fence false) →
      ((s.ctx c).allEarlier i m = true → ∃ t, exec (.fenceRing (.ctx c) i) s = .next t ∧ t.Finished c m.uid s.now ∧
        OtherCommandsKept s t c m.uid ∧ t = { s with ctxs := t.ctxs }) ∧
      ((s.ctx c).allEarlier i m = false → exec (.fenceRing (.ctx c) i) s = .next s)) ∧
    (s.Holds c i m (.fence true) →
      (((s.ctx c).cmds.take i).all Cmd.finished = true → ∃ t, exec (.fenceContext c i) s = .next t ∧ t.Finished c m.uid s.now ∧
        OtherCommandsKept s t c m.uid ∧ t = { s with ctxs := t.ctxs }) ∧
      (((s.ctx c).cmds.take i).all Cmd.finished = false → exec (.fenceContext c i) s = .next s)) ∧
    (∀ d, s.mgmt.running = some d → d.opcode = 0x12 → exec (.fenceRing .mgmt i) s = .next (s.mgmtDone 0 0))) ∧
  (∀ (s : State) (c i : Nat) (m : Cmd) (addr : Nat), s.ready c = true → (s.ctx c).allEarlier i m = true → m.phase = .checked →
    (∀ a, s.Holds c i m (.stamp addr false) → s.place addr = .here a → s.Canonical → s.mem.latent = [] →
      ∃ t, exec (.timestamp (.ctx c) i) s = .next t ∧ t.mem.read a 8 = leBytes 8 s.now.toNat ∧
        SameOutside s.mem t.mem [(a, 8)] ∧ t.Finished c m.uid s.now ∧ OtherCommandsKept s t c m.uid ∧ t.cores = s.cores) ∧
    (∀ d a, s.Holds c i m (.stamp addr false) → s.place addr = .there d a → s.routeOk d = true →
      ∃ t, exec (.timestamp (.ctx c) i) s = .next t ∧ t.tx = s.tx ++ [.roligWrite (s.portTo d a) d a (leBytes 8 s.now.toNat) false] ∧
        t.remote.length = s.remote.length + 1 ∧ t.mem = s.mem ∧ ∀ y ∈ (t.ctx c).cmds, y.uid = m.uid → y.phase = .started) ∧
    (s.Holds c i m (.stamp addr true) → s.hostUp = true →
      ∃ t, exec (.timestamp (.ctx c) i) s = .next t ∧ t.Finished c m.uid s.now ∧ t.mem = s.mem ∧
        t.tx = s.tx ++ [.hostWrite addr (leBytes 8 s.now.toNat) false false ((winFor (s.ctx c).hwins addr 8 true).bind HWin.tag)])) ∧
  (∀ (s : State) (i : Nat) (d : MgmtDesc), s.mgmt.running = some d → s.awake = true → d.opcode = 0x13 → d.waiting = false →
    let addr := bits d.desc 383 320
    (∀ a, bit1 d.desc 319 = false → s.place addr = .here a → s.Canonical → s.mem.latent = [] →
      ∃ u : State, exec (.timestamp .mgmt i) s = .next (u.mgmtDone 0 0) ∧ u.mem.read a 8 = leBytes 8 s.now.toNat ∧
        SameOutside s.mem u.mem [(a, 8)] ∧ u.mgmt = s.mgmt ∧ u.ctxs = s.ctxs) ∧
    (bit1 d.desc 319 = true → s.hostUp = true → exec (.timestamp .mgmt i) s = .next (State.mgmtDone { s with
      tx := s.tx ++ [.hostWrite addr (leBytes 8 s.now.toNat) false false ((winFor s.mgmt.wins addr 8 true).bind HWin.tag)] } 0 0)))

/-- SLIPWAY_SIGNAL adds INC to the counter once every earlier descriptor of its ring has completed, and not before: the counter
then holds the sum modulo 2^32, no byte outside it changes, and the command is complete (over a line that holds no bad symbols); a
poisoned line tears the context down. A counter on another device with a valid route is advanced there by one atomic add, and the
command waits for its answer.
SLIPWAY_WAIT completes when its target is reached, (value − target) below 2^31, and else waits, started; it changes no
memory and no core; a poisoned line tears the context down. -/
def Obligations.SlipwayRule : Prop :=
  (∀ (s : State) (c i : Nat) (m : Cmd) (addr inc : Nat), s.Holds c i m (.signal addr inc) → s.ready c = true → m.phase = .checked →
    ((s.ctx c).allEarlier i m = false → exec (.slipwaySignal c i) s = .next s) ∧
    (∀ a, (s.ctx c).allEarlier i m = true → s.place addr = .here a → s.Canonical → s.mem.latent = [] →
      (s.mem.poisoned 64 a 4 = false → ∃ t, exec (.slipwaySignal c i) s = .next t ∧ t.slip a = s.slip a + BitVec.ofNat 32 inc ∧
        SameOutside s.mem t.mem [(a, 4)] ∧ t.Finished c m.uid s.now ∧ OtherCommandsKept s t c m.uid ∧ t.cores = s.cores ∧ t.tx = s.tx) ∧
      (s.mem.poisoned 64 a 4 = true → ∃ t, exec (.slipwaySignal c i) s = .next t ∧ (t.ctx c).torn = true)) ∧
    (∀ d a, (s.ctx c).allEarlier i m = true → s.place addr = .there d a → s.routeOk d = true →
      ∃ t, exec (.slipwaySignal c i) s = .next t ∧ t.tx = s.tx ++ [.roligAdd (s.portTo d a) d a inc] ∧
        t.remote.length = s.remote.length + 1 ∧ t.mem = s.mem ∧ ∀ y ∈ (t.ctx c).cmds, y.uid = m.uid → y.phase = .started)) ∧
  (∀ (s : State) (c i : Nat) (m : Cmd) (addr target a : Nat), s.Turn c i m (.wait addr target) → s.place addr = .here a →
    s.mem.latent = [] →
    (s.mem.poisoned 64 a 4 = true → ∃ t, exec (.slipwayWait c i) s = .next t ∧ (t.ctx c).torn = true) ∧
    (s.mem.poisoned 64 a 4 = false →
      ((s.slip a - BitVec.ofNat 32 target).toNat < 2 ^ 31 → ∃ t, exec (.slipwayWait c i) s = .next t ∧ t.Finished c m.uid s.now ∧
        OtherCommandsKept s t c m.uid ∧ t = { s with ctxs := t.ctxs }) ∧
      (2 ^ 31 ≤ (s.slip a - BitVec.ofNat 32 target).toNat → ∃ t, exec (.slipwayWait c i) s = .next t ∧
        (∀ y ∈ (t.ctx c).cmds, y.uid = m.uid → y.phase = .started) ∧ OtherCommandsKept s t c m.uid ∧ t = { s with ctxs := t.ctxs })))

/-! ### Compute commands -/

/-- Every compute command (MATMUL, CHAIN, ATTEND, CONV, POOL, POSY, REDUCE of its four kinds, FILL, NOISE, WUPD), in its turn and while
none of its tile commands is placed, runs its work over memory (that holds no bad symbols) and the table banks it is bound to: with no
poison consumed, and no NaN trapped, memory holds what the work computes, its record carries SAT when the work saturated, its writes
are home now, and nothing changes but device memory, the command, the number of the next free value, and an ECC injection that its
writes take. Where only its tile commands can tell whether poison or a NaN comes first, the row changes nothing. -/
def Obligations.ComputeCommandCompletes : Prop :=
  ∀ (s : State) (c i : Nat) (m : Cmd) (w : Work) (cmd : Instr), s.Turn c i m w → w.row c i = some cmd →
    m.whole = true → s.mem.latent = [] →
    (∀ mem sat, runWork (s.workEnv m w.philox) (s.trapArmed c) w s.mem = .done mem sat →
      ∃ t, exec cmd s = .next t ∧ (∀ a, t.mem.byte a = mem.byte a) ∧ t.mem.poison = mem.poison ∧ t.Finished c m.uid s.now ∧
        (∀ y ∈ (t.ctx c).cmds, y.uid = m.uid → y.sat = (m.sat || sat)) ∧ OtherCommandsKept s t c m.uid ∧
        t = { s with mem := t.mem, ctxs := t.ctxs, free := s.free + 1, dbg := { s.dbg with eccArmed := t.dbg.eccArmed } }) ∧
    (runWork (s.workEnv m w.philox) (s.trapArmed c) w s.mem = .defer → exec cmd s = .next s)

/-- A compute command that consumes poison tears its context down with POISON_DATA, and its own record carries it; one that
meets an address outside device memory does so with EXEC_ADDR; one that
produces a NaN while its context's trap is armed leaves the context halted with the trap record, 64 bytes, in the NaN trap
line, and the command's first record carries NAN_TRAP; beside that line only the landing slots of the context's cores change in
memory (a trap line inside such a slot is shut out); the other contexts run on. -/
def Obligations.ComputePoisonAndTrap : Prop :=
  ∀ (s : State) (c i : Nat) (m : Cmd) (w : Work) (cmd : Instr), s.Turn c i m w → w.row c i = some cmd → m.whole = true →
    s.mem.latent = [] →
    let ran := runWork (s.workEnv m w.philox) (s.trapArmed c) w s.mem
    let slots := ((List.range s.cores.length).filter fun k => (s.core k).runsFor c).map fun k => ((s.ctx c).slotAddr k, slotBytes)
    (ran = .poison → ∃ t, exec cmd s = .next t ∧ (t.ctx c).torn = true ∧
      (t.ctx c).teardown = some (0x310, 4, some m.uid) ∧ ∀ e, e ≠ c → t.ctx e = s.ctx e) ∧
    (ran = .addr → ∃ t, exec cmd s = .next t ∧ (t.ctx c).torn = true ∧
      (t.ctx c).teardown = some (0x316, 3, some m.uid) ∧ ∀ e, e ≠ c → t.ctx e = s.ctx e) ∧
    (∀ n b, ran = .trap n → (s.ctx c).blk = some b → s.Canonical → (∀ r ∈ slots, overlap b.nanLine 64 r.1 r.2 = false) →
      (∃ t rest, exec cmd s = .next t ∧ (t.ctx c).halted = true ∧ (t.ctx c).armed = false ∧
        (∀ y ∈ (t.ctx c).cmds, y.uid = m.uid → y.phase = .trapped) ∧ (t.ctx c).nextCseq = (s.ctx c).nextCseq + 1 ∧
        (s.hostUp = true → slots = [] → t.tx = s.tx ++ .hostWrite (b.cqBase + 64 + 32 * ((s.ctx c).nextCseq.toNat % 2 ^ b.logNc))
          (leBytes 32 (recordBits (s.ctx c).nextCseq m.seq s.now m 6 0 0 0)) false false none :: rest) ∧
        t.mem.read b.nanLine 64 = leBytes 64 (trapBits s.now c m.opcode m none n) ∧
        SameOutside s.mem t.mem ((b.nanLine, 64) :: slots) ∧ ∀ e, e ≠ c → t.ctx e = s.ctx e))

/-- The commands that write whole rows of one tensor (FILL, NOISE, REDUCE FOLD, REDUCE TRANSPOSE) write no byte outside the rows
of that tensor and its block scales.
FILL of a tensor of 8-bit elements that is not of an MX format writes VALUE into every element of every row. -/
def Obligations.RowWriters : Prop :=
  (∀ (we : WorkEnv) (m : Mem) (out a : Tensor) (v sc key st : Nat), Memory.wf m = true →
    ∀ w ∈ [Work.fill out v sc, Work.noise out key st, Work.fold a out, Work.transpose a out],
      SameOutside m (w.eval we { mem := m }).mem out.ranges) ∧
  (∀ (m : Mem) (out : Tensor) (v sc i0 i1 i2 i3 : Nat), Memory.wf m = true → out.fmt.mx = false →
    out.fmt.elem.width = 8 → v < 256 → out.inside i0 i1 i2 i3 = true →
    (evalFill out v sc { mem := m }).mem.byte (out.rowAddr i1 i2 i3 + i0) = BitVec.ofNat 8 v)

/-- REDUCE TRANSPOSE of an INT8 tensor into an INT8 tensor whose rows do not overlap moves elements: element (i0, i1, i2, i3) of
the output is the source's element (i1, i0, i2) as memory held it before, where the output's rows do not cover that element (the
tensors must not overlap). -/
def Obligations.TransposeMovesElements : Prop :=
  ∀ (we : WorkEnv) (m : Mem) (a b : Tensor) (i0 i1 i2 i3 : Nat), Memory.wf m = true → a.fmt = ⟨.int8, false⟩ → b.fmt = ⟨.int8, false⟩ →
    b.e0 ≤ b.s1 → b.e1 * b.s1 ≤ b.s2 → b.e2 * b.s2 ≤ b.s3 → b.inside i0 i1 i2 i3 = true → a.inside i1 i0 i2 0 = true →
    inRegions b.ranges (a.rowAddr i0 i2 0 + i1) = false →
    (evalTranspose we a b { mem := m }).mem.byte (b.rowAddr i1 i2 i3 + i0) = m.byte (a.rowAddr i0 i2 0 + i1)

/-- TABLE_LOAD, in its turn and served by the sequence of its table, puts the image into the bank it names once it passes the checks,
makes the bank active when SWAP is 1, and completes; with a check failed it is rejected with that check's code and no bank changes;
poison in the image tears the context down. A context that is not served changes nothing. -/
def Obligations.TableLoadRule : Prop :=
  ∀ (s : State) (c i : Nat) (m : Cmd) (image bytes table bank : Nat) (swap : Bool),
    s.Turn c i m (.tableLoad image bytes table bank swap) → s.mem.latent = [] →
    let won := s.winner (tableRes table) false (s.wanting (Cmd.loads table)) = some c
    let img := s.mem.read image bytes
    (¬ won → exec (.tableLoad c i) s = .next s) ∧
    (∀ code, won → s.loadFault c image bytes table bank = some code → ∃ t, exec (.tableLoad c i) s = .next t ∧
      t = { s with ctxs := t.ctxs, arb := t.arb } ∧
      OtherCommandsKept s t c m.uid ∧ ∀ y ∈ (t.ctx c).cmds, y.uid = m.uid → y.phase = .rejected code 0 0) ∧
    (won → s.loadFault c image bytes table bank = none →
      (s.mem.poisoned 64 image bytes = true → ∃ t, exec (.tableLoad c i) s = .next t ∧ (t.ctx c).torn = true) ∧
      (∀ code j, s.mem.poisoned 64 image bytes = false → imageFault table img = some (code, j) → ∃ t, exec (.tableLoad c i) s = .next t ∧
        t = { s with ctxs := t.ctxs, arb := t.arb } ∧
        OtherCommandsKept s t c m.uid ∧ ∀ y ∈ (t.ctx c).cmds, y.uid = m.uid → y.phase = .rejected code j 0) ∧
      (s.mem.poisoned 64 image bytes = false → imageFault table img = none →
        ∃ t, exec (.tableLoad c i) s = .next t ∧ t = { s with ctxs := t.ctxs, tables := t.tables, arb := t.arb } ∧
          t.Finished c m.uid s.now ∧ OtherCommandsKept s t c m.uid ∧
          t.tables.ex2 = (if table = 0 then s.tables.ex2.set bank img else s.tables.ex2) ∧
          t.tables.lg2 = (if table = 1 then s.tables.lg2.set bank img else s.tables.lg2) ∧
          t.tables.micro = (if 2 ≤ table then s.tables.micro.set bank img else s.tables.micro) ∧
          t.tables.active = if swap then s.tables.active.set table bank else s.tables.active))

/-- FERRY of one row within device memory copies its bytes, completes and changes no other byte; of one row from host memory it
asks for the bytes through the context's window and waits, started; of one row to host memory it writes them through the window and
completes; of one row to another device, or from one, it sends one request for each piece of at most a line and waits, started. (Over
memory that holds no bad symbols.) -/
def Obligations.FerryRule : Prop :=
  ∀ (s : State) (c i : Nat) (m : Cmd) (t : Transfer), s.Turn c i m (.ferry [t]) → m.phase = .checked → m.steps.moved = [] →
    t.rows = 1 → t.slip = false → s.awaits c m.uid = false → s.mem.latent = [] → s.Canonical →
    (∀ x y, t.srcHost = false → t.dstHost = false → s.place t.src = .here x → s.place t.dst = .here y →
      ∃ u, exec (.ferry c i) s = .next u ∧ u.mem.read y t.rowBytes = s.mem.read x t.rowBytes ∧
        SameOutside s.mem u.mem [(y, t.rowBytes)] ∧ u.Finished c m.uid s.now ∧ OtherCommandsKept s u c m.uid ∧ u.cores = s.cores) ∧
    (∀ y w, t.srcHost = true → t.dstHost = false → s.place t.dst = .here y → s.hostUp = true →
      winFor (s.ctx c).hwins t.src t.rowBytes false = some w →
      ∃ u, exec (.ferry c i) s = .next u ∧ u.tx = s.tx ++ [.hostRead t.src t.rowBytes w.tag] ∧ u.mem = s.mem ∧
        u.reads.length = s.reads.length + 1 ∧ (∀ z ∈ (u.ctx c).cmds, z.uid = m.uid → z.phase = .started) ∧ OtherCommandsKept s u c m.uid) ∧
    (∀ x w, t.srcHost = false → t.dstHost = true → s.place t.src = .here x → s.hostUp = true → s.mem.poisoned 64 x t.rowBytes = false →
      winFor (s.ctx c).hwins t.dst t.rowBytes true = some w →
      ∃ u, exec (.ferry c i) s = .next u ∧ u.tx = s.tx ++ [.hostWrite t.dst (s.mem.read x t.rowBytes) true false w.tag] ∧
        u.mem = s.mem ∧ u.Finished c m.uid s.now ∧ OtherCommandsKept s u c m.uid) ∧
    (∀ d, t.srcHost = false → t.dstHost = false → 0 < t.rowBytes → s.routeOk d = true → s.phaseTurn c m.uid 0 = true →
      (∀ x y, s.place t.src = .here x → s.place t.dst = .there d y →
        ∃ u, exec (.ferry c i) s = .next u ∧ u.mem = s.mem ∧ u.remote.length = s.remote.length + (linePieces y x t.rowBytes).length ∧
          u.tx = s.tx ++ (linePieces y x t.rowBytes).map (fun p => .roligWrite (s.portTo d (y + p.1)) d (y + p.1)
            (s.mem.read (x + p.1) p.2) (s.mem.poisoned 64 (x + p.1) p.2)) ∧
          (∀ z ∈ (u.ctx c).cmds, z.uid = m.uid → z.phase = .started) ∧ OtherCommandsKept s u c m.uid) ∧
      (∀ x y, s.place t.src = .there d x → s.place t.dst = .here y →
        ∃ u, exec (.ferry c i) s = .next u ∧ u.mem = s.mem ∧ u.remote.length = s.remote.length + (linePieces x y t.rowBytes).length ∧
          u.tx = s.tx ++ (linePieces x y t.rowBytes).map (fun p => .roligRead (s.portTo d (x + p.1)) d (x + p.1) p.2) ∧
          (∀ z ∈ (u.ctx c).cmds, z.uid = m.uid → z.phase = .started) ∧ OtherCommandsKept s u c m.uid))

/-! ### Step lists -/

/-- An execution of a step list starts once every execution that it is ordered after is done, its prefix and pins are (for a
step or the suffix), no other collective phase is in its way, and its slipway is at its target: it is noted as started, and no memory
and no other command changes. Out of order, or started before, nothing changes.
The end of a started execution that computes and has no tile command placed: memory holds what its work, with the substituted constants
and the Philox inputs of the list, computes over memory as the pins overlay it (memory and die buffer without bad symbols); the
execution is noted as done. One whose tile commands have all ended is noted as done. -/
def Obligations.StageRule : Prop :=
  (∀ (s : State) (c i e : Nat) (m : Cmd) (l : StepList) (x : Execution) (g : Stage), (s.ctx c).cmd? i = some m → m.list? = some l →
    l.execution e = some x → l.stageAt e = some g →
    (l.orderMet m.steps e = false ∨ NatSet.mem e m.steps.started = true ∨ s.ready c = false →
      exec (.stageExecutionStart c i e) s = .next s) ∧
    (s.ready c = true → (s.ctx c).inOrder i m = true → NatSet.mem e m.steps.started = false → l.orderMet m.steps e = true →
      (s.isPhase g.work = false ∨ s.phaseTurn c m.uid e = true) →
      (x.phase = 0 ∨ m.steps.pinned = true ∨ (l.pins = [] ∧ l.prefixDone m.steps = true)) → s.waitMet g x = some true →
      ∃ t, exec (.stageExecutionStart c i e) s = .next t ∧ t = { s with ctxs := t.ctxs, arb := t.arb } ∧ OtherCommandsKept s t c m.uid ∧
        ∀ y ∈ (t.ctx c).cmds, y.uid = m.uid → y.phase = .started ∧ NatSet.mem e y.steps.started = true)) ∧
  (∀ (s : State) (c i e : Nat) (m : Cmd) (l : StepList) (x : Execution) (g : Stage),
    (s.ctx c).cmd? i = some m → m.list? = some l → l.execution e = some x → l.stageAt e = some g → s.ready c = true →
    NatSet.mem e m.steps.started = true → NatSet.mem e m.steps.done = false → g.sigAddr = 0 →
    ((l.workOf g x).row c i).isSome = true →
    let die := (s.ctx c).homeDie
    let view := if m.steps.pinned then l.overlay die (s.dieBuf.getD die {}) s.mem else s.mem
    (∀ mem sat, s.mem.latent = [] → (s.dieBuf.getD die {}).latent = [] →
      (∀ t, m.steps.tilesOf e = some t → t.1.length = t.2 ∧ t.2 ≠ 0) →
      runWork (s.workEnv m (l.philox g x)) (s.trapArmed c) (l.workOf g x) view = .done mem sat →
      ∃ t, exec (.stageExecutionDone c i e) s = .next t ∧
        (∀ a, t.mem.byte a = (if m.steps.pinned then l.restore die s.mem mem else mem).byte a) ∧ OtherCommandsKept s t c m.uid ∧
        t.cores = s.cores ∧ t.dieBuf = s.dieBuf ∧ (∀ y ∈ (t.ctx c).cmds, y.uid = m.uid → NatSet.mem e y.steps.done = true)) ∧
    (m.steps.tilesOf e = some ([], 0) → ∃ t, exec (.stageExecutionDone c i e) s = .next t ∧ t = { s with ctxs := t.ctxs } ∧
      OtherCommandsKept s t c m.uid ∧ ∀ y ∈ (t.ctx c).cmds, y.uid = m.uid → NatSet.mem e y.steps.done = true))

/-- A pinned range copied into a die buffer: each of its bytes reads there as in device memory, and no other byte changes. Once
the prefix is done PIN_COPY_DONE copies the pinned ranges (a list's only one reads in each die that it names as in device memory),
lets step 0 start and sets T_0; device memory stays.
A step is complete once each of its executions is done, in step order: the count of steps goes on, the step slipway advances by one, and
with no step slipway nothing but the command changes; the command completes with its last step when every execution is done and nothing
is awaited. STEPLIST does what the start and the end of each execution in the flattened order do, with the copy of the pins after
the prefix and the completion of each step after its executions; a list of one prefix stage that computes, without pins or slipways,
completes in it. -/
def Obligations.PinsAndSteps : Prop :=
  (∀ (dst src : Mem) (a b n : Nat), Memory.wf dst = true → Memory.wf src = true →
    (∀ i < n, (dst.graft src 64 a b n).byte (a + i) = src.byte (b + i)) ∧ SameOutside dst (dst.graft src 64 a b n) [(a, n)]) ∧
  (∀ (s : State) (c i : Nat) (m : Cmd) (l : StepList), (s.ctx c).cmd? i = some m → m.list? = some l → s.ready c = true →
    (s.ctx c).inOrder i m = true → m.steps.pinned = false → l.prefixDone m.steps = true → s.mem.latent = [] → s.Canonical →
    ∃ t, exec (.pinCopyDone c i) s = .next t ∧ t.mem = s.mem ∧ OtherCommandsKept s t c m.uid ∧ t.cores = s.cores ∧
      (∀ p d, l.pins = [p] → d < 4 → d < s.dieBuf.length → bit1 p.dies d = true → ∀ j < p.bytes,
        (t.dieBuf.getD d {}).byte (p.dbOff * 64 + j) = s.mem.byte (p.src + j)) ∧
      ∀ y ∈ (t.ctx c).cmds, y.uid = m.uid → y.phase = .started ∧ y.steps.pinned = true ∧ y.steps.start = s.now) ∧
  (∀ (s : State) (c i st : Nat) (m : Cmd) (l : StepList), (s.ctx c).cmd? i = some m → (s.ctx c).byUid m.uid = some m →
    m.list? = some l → s.ready c = true →
    (m.steps.stepsDone ≠ st ∨ l.steps ≤ st ∨ l.stepDone m.steps st = false → exec (.stepComplete c i st) s = .next s) ∧
    (m.steps.stepsDone = st → st < l.steps → l.stepDone m.steps st = true →
      (l.stepSlip = 0 → ∃ t, exec (.stepComplete c i st) s = .next t ∧ t = { s with ctxs := t.ctxs } ∧ OtherCommandsKept s t c m.uid ∧
        (∀ y ∈ (t.ctx c).cmds, y.uid = m.uid → y.steps.stepsDone = st + 1) ∧
        (st + 1 = l.steps → l.total ≤ m.steps.done.length → s.awaits c m.uid = false → t.Finished c m.uid s.now)) ∧
      (∀ a, l.stepSlip ≠ 0 → s.place l.stepSlip = .here a → s.Canonical → s.mem.latent = [] → s.mem.poisoned 64 a 4 = false →
        ∃ t, exec (.stepComplete c i st) s = .next t ∧ t.slip a = s.slip a + 1 ∧ SameOutside s.mem t.mem [(a, 4)] ∧
          OtherCommandsKept s t c m.uid ∧ ∀ y ∈ (t.ctx c).cmds, y.uid = m.uid → y.steps.stepsDone = st + 1)) ∧
    ((s.ctx c).inOrder i m = true →
      (∃ t, exec (.steplist c i) s = .next t ∧ runRows (l.rows c i) s = .next t) ∧
      (∀ j x g mem sat, l.stagesOf 0 = [j] → l.stagesOf 1 = [] → l.stagesOf 2 = [] → l.steps = 1 → l.pins = [] → l.stepSlip = 0 →
        m.steps = {} → l.execution 0 = some x → l.stageAt 0 = some g → g.waitAddr = 0 → g.sigAddr = 0 →
        ((l.workOf g x).row c i).isSome = true → s.awaits c m.uid = false → s.mem.latent = [] →
        runWork (s.workEnv m (l.philox g x)) (s.trapArmed c) (l.workOf g x) s.mem = .done mem sat →
        ∃ t, exec (.steplist c i) s = .next t ∧ t.Finished c m.uid s.now ∧ (∀ a, t.mem.byte a = mem.byte a) ∧
          OtherCommandsKept s t c m.uid ∧ t.cores = s.cores)))

/-- At T_0 + (st + 1) × STEP_BUDGET a step that is not complete writes a deadline-miss record: the miss is counted, DSEQ
advances, the command's record will carry DLMISS; a complete one writes none. The same holds of the list at its DEADLINE. No core
changes, and no byte of memory outside the record's place in the deadline-miss area (over memory that holds no bad symbols). -/
def Obligations.DeadlineRule : Prop :=
  ∀ (s : State) (c i : Nat) (m : Cmd) (l : StepList) (b : CtxBlock), (s.ctx c).cmd? i = some m → m.openList? = some l → s.up = true →
    (s.ctx c).alive = true → (s.ctx c).blk = some b → s.Canonical → s.mem.latent = [] →
    let area := if b.dlmBase = 0 then [] else [(b.dlmBase + 32 * ((s.ctx c).dseq % 2 ^ b.logDlm), 32)]
    (∀ st, l.stepBudget ≠ 0 → m.steps.pinned = true → st < l.steps → NatSet.mem st m.steps.checkedSteps = false →
      m.steps.start.toNat + (st + 1) * l.stepBudget ≤ s.now.toNat → ∃ t, exec (.stepBudgetCheck c i st) s = .next t ∧ t.cores = s.cores ∧
        SameOutside s.mem t.mem area ∧ OtherCommandsKept s t c m.uid ∧
        (st < m.steps.stepsDone → (t.ctx c).dseq = (s.ctx c).dseq ∧ ∀ y ∈ (t.ctx c).cmds, y.uid = m.uid → ∃ z ∈ (s.ctx c).cmds, z.uid = m.uid ∧ y.dlmiss = z.dlmiss) ∧
        (m.steps.stepsDone ≤ st → (t.ctx c).dseq = (s.ctx c).dseq + 1 ∧ ∀ y ∈ (t.ctx c).cmds, y.uid = m.uid → y.dlmiss = true)) ∧
    (l.deadline ≠ 0 → m.steps.deadlineChecked = false →
      (s.now.toNat < l.deadline → exec (.deadlineCheck c i) s = .next s) ∧
      (l.deadline ≤ s.now.toNat → ∃ t, exec (.deadlineCheck c i) s = .next t ∧ t.cores = s.cores ∧ SameOutside s.mem t.mem area ∧
        OtherCommandsKept s t c m.uid ∧ (t.ctx c).dseq = (s.ctx c).dseq + 1 ∧ ∀ y ∈ (t.ctx c).cmds, y.uid = m.uid → y.dlmiss = true))

/-! ### Video and image engines -/

/-- SESSION_OPEN of a free number with a good block, fewer than 512 being open, opens the session on the descriptor's ring and
completes; of a number that is open it is rejected with 0x0292. SESSION_CLOSE of a session of its ring closes it, leaves its
state memory undefined and no other byte changed; of any other it is rejected with 0x0292.
DECODE, ENCODE, JPEG_DEC, JPEG_ENC and SCALE, in their turn, become ready for an engine of their kind when their checks
against the session pass, and are rejected with the code of the lowest failure otherwise; nothing else changes.
A free engine takes the next unit of its kind of the context that wins it: the unit's descriptor starts, the engine holds it
from now, and the kind's pointer moves past the winner; an engine that is not free takes none.
The end of a unit whose data is not poisoned (over memory that holds no bad symbols): its writes and its frame record are in memory, its
engine is idle from now, its descriptor's writes are home; poisoned data tears its context down instead. -/
def Obligations.SessionsAndUnits : Prop :=
  (∀ (s : State) (c i : Nat) (m : Cmd) (b : CodecBody) (q : SessionBlock) (sc : Option ScaleBlock),
    (s.codecTurn c i 1 = some (m, b) → m.job = some (.work (.codec b sc (some q))) →
      (s.session? b.session = none → s.blockBad q = false → s.sessions.length < 512 → ∃ t, exec (.sessionOpen c i) s = .next t ∧
        t = { s with ctxs := t.ctxs, sessions := s.sessions ++ [{ num := b.session, ctx := c, ring := m.ring, blk := q }] } ∧
        t.Finished c m.uid s.now ∧ OtherCommandsKept s t c m.uid) ∧
      (s.session? b.session ≠ none → ∃ t, exec (.sessionOpen c i) s = .next t ∧ t = { s with ctxs := t.ctxs } ∧
        OtherCommandsKept s t c m.uid ∧ ∀ y ∈ (t.ctx c).cmds, y.uid = m.uid → y.phase = .rejected 0x0292 0 0)) ∧
    (s.codecTurn c i 2 = some (m, b) →
      (∀ z, s.ownSession c m.ring b.session = some z → s.Canonical → ∃ t, exec (.sessionClose c i) s = .next t ∧
        t.sessions = s.sessions.filter (fun y => y.num != z.num) ∧ t.Finished c m.uid s.now ∧ OtherCommandsKept s t c m.uid ∧
        SameOutside s.mem t.mem ((s.sessions.filter fun y => y.num == z.num).map fun y => (y.blk.state, y.blk.stateBytes)) ∧
        t = { s with ctxs := t.ctxs, sessions := t.sessions, mem := t.mem, free := t.free }) ∧
      (s.ownSession c m.ring b.session = none → ∃ t, exec (.sessionClose c i) s = .next t ∧ t = { s with ctxs := t.ctxs } ∧
        OtherCommandsKept s t c m.uid ∧ ∀ y ∈ (t.ctx c).cmds, y.uid = m.uid → y.phase = .rejected 0x0292 0 0))) ∧
  (∀ (s : State) (c i : Nat) (m : Cmd) (b : CodecBody) (op : Nat) (cmd : Instr),
    (op, cmd) ∈ [(3, Instr.decode c i), (4, .encode c i), (5, .jpegDec c i), (6, .jpegEnc c i), (7, .scale c i)] →
    s.codecTurn c i op = some (m, b) → ∃ t, exec cmd s = .next t ∧ t = { s with ctxs := t.ctxs } ∧ OtherCommandsKept s t c m.uid ∧
      (lowest (s.unitFails c m b) = none → ∀ y ∈ (t.ctx c).cmds, y.uid = m.uid → y.phase = .checked ∧ y.unplaced = [0]) ∧
      (∀ f, lowest (s.unitFails c m b) = some f → ∀ y ∈ (t.ctx c).cmds, y.uid = m.uid → y.phase = .rejected f.1 f.2.1 f.2.2)) ∧
  (∀ (s : State) (e c : Nat) (m : Cmd),
    (s.engineFree e = false → exec (.codecUnitStart e) s = .next s) ∧
    (s.engineFree e = true → s.nextUnit c (engineOp e) = some m → e < s.engines.length →
      s.winner (kindRes (engineOp e - 3)) true ((List.range 64).filter fun d => (s.nextUnit d (engineOp e)).isSome) = some c →
      ∃ t, exec (.codecUnitStart e) s = .next t ∧ t = { s with ctxs := t.ctxs, engines := t.engines, arb := t.arb } ∧
        t.engines = s.engines.set e { (s.engines.getD e {}) with unit := some (c, m.uid), started := s.now } ∧
        t.arb = Cells.set 0 (kindRes (engineOp e - 3)) ((c + 1) % 64) s.arb ∧ OtherCommandsKept s t c m.uid ∧
        ∀ y ∈ (t.ctx c).cmds, y.uid = m.uid → y.phase = .started ∧ y.unplaced = [])) ∧
  (∀ (s : State) (e c uid : Nat) (m : Cmd) (b : CodecBody) (sc : Option ScaleBlock) (q : Option SessionBlock), s.up = true →
    (s.engines.getD e {}).unit = some (c, uid) → (s.ctx c).byUid uid = some m → m.job = some (.work (.codec b sc q)) →
    s.mem.latent = [] → e < s.engines.length →
    s.Canonical →
    let ses := if b.named then s.ownSession c m.ring b.session else none
    let o := s.runUnit b sc ses
    ((s.unitReads b sc ses).any (fun r => s.mem.poisoned 64 r.1 r.2) = false → ∃ t, exec (.codecUnitDone e) s = .next t ∧
      t.Finished c uid s.now ∧ (t.engines.getD e {}).unit = none ∧ (t.engines.getD e {}).idleFrom = s.now ∧
      (∀ k, k ≠ e → t.engines.getD k {} = s.engines.getD k {}) ∧ OtherCommandsKept s t c uid ∧
      t.mem.read b.rec_ 64 = leBytes 64 (frameBits s.now m.seq b.session o) ∧ SameOutside o.mem t.mem [(b.rec_, 64)] ∧
      t.cores = s.cores) ∧
    ((s.unitReads b sc ses).any (fun r => s.mem.poisoned 64 r.1 r.2) = true → (s.ctx c).alive = true →
      ∃ t, exec (.codecUnitDone e) s = .next t ∧ (t.ctx c).torn = true ∧ (t.ctx c).teardown = some (0x310, 4, some uid)))

/-! ### Inside a core -/

/-- The next fill of a core makes its slot FULL, or FILLING with a prologue run queued, over the bytes that it copies, once no slot,
result area or kept buffer is in its place and its T3 slot is there; the running tile command then gives way to the waiting one if it
has issued everything and this was its last fill; a fill out of turn changes nothing. (Device memory without bad symbols.) The next segment of a core goes into its bank from a readable slot once the bank has no group in flight: owner, tag, entries
and fields are the segment's, the other bank keeps all but its residence; poison among its weights tears the context down. (Core memory
without bad symbols.) -/
def Obligations.SlotsAndBanksFill : Prop :=
  ∀ (s : State) (k : Nat), k < s.cores.length →
    let y := s.core k
    (∀ j, s.fillNext k = none → exec (.ferryFillDone k j) s = .next s) ∧
    (∀ who n t w f, s.fillNext k = some (who, n, t, w, f) →
      let place := y.nextSlot t w f.operand
      let free := y.busy (s.heldBufs k who) place.1 place.2 = false
      (∀ j, j ≠ n ∨ ¬ free ∨ s.t3Fill t w.job f = none → exec (.ferryFillDone k j) s = .next s) ∧
      (∀ s', free → s.t3Fill t w.job f = some s' → s.mem.latent = [] → ∃ u z, exec (.ferryFillDone k n) s = .next u ∧
        u.core k = (if who = 1 then z.turnOver w else z) ∧
        z.mem = ((s'.fillSlot k t w f place.1).core k).mem ∧
        z.slots = y.slots ++ [{ who := who, operand := f.operand, fill := n, off := place.1, size := place.2
                                st := if f.pro.isSome then .filling else .full }] ∧
        z.veng.queue = y.veng.queue ++ (if f.pro.isSome then [{ who := who, role := 1, pass := n }] else []) ∧
        (z.nextFill, z.aheadFill) = (if who = 1 then (n + 1, y.aheadFill) else (y.nextFill, n + 1)) ∧
        z.run = y.run ∧ z.prev = y.prev ∧ z.pos = y.pos ∧
        z.banks = y.banks ∧ z.acc = y.acc ∧ OtherCoresKept s u k ∧ u.mem = s.mem ∧ u.ctxs = s'.ctxs)) ∧
    (s.nextLoad k = none → exec (.weightLoadDone k) s = .next s) ∧
    (∀ x, s.nextLoad k = some x →
      let refs := (List.range x.p.cols).flatMap fun l => (List.range (x.p.entries x.seg)).flatMap fun e => x.p.entryRefs x.seg e l
      (y.loadReady x = false ∨ y.bankBusy x.bank = true → exec (.weightLoadDone k) s = .next s) ∧
      (y.loadReady x = true → y.bankBusy x.bank = false → y.mem.latent = [] → y.badRefs x.w x.who refs = true →
        exec (.weightLoadDone k) s = .next (s.faultCtx x.t.ctx 0x310 (some x.t.uid))) ∧
      (y.loadReady x = true → y.bankBusy x.bank = false → y.mem.latent = [] → y.badRefs x.w x.who refs = false →
        ∃ u, exec (.weightLoadDone k) s = .next u ∧
          (u.core k).banks.getD x.bank {} =
            { owner := some x.t.ctx, key := x.p.key, tag := some (x.t.tag x.pass), resident := true, seg := x.seg, n := x.p.entries x.seg
              elems := (y.segmentFields x).1, scales := (y.segmentFields x).2 } ∧
          { (u.core k).banks.getD (1 - x.bank) {} with resident := false } = { y.banks.getD (1 - x.bank) {} with resident := false } ∧
          (u.core k).mem = y.mem ∧ (u.core k).acc = y.acc ∧ OtherCoresKept s u k ∧ u.mem = s.mem ∧ u.ctxs = s.ctxs))

/-- One core cycle of a matrix unit. A group that is due must be in its accumulator first. With no tile command that may act, or with
something in the way of the next group, only the ramp and the ages of the groups in flight move, the latter once a pass that can begin has
begun. In a slot that carries work the next group of the pass goes into the pipe and the issue position advances; a row past
the pass's last is an empty slot, and a factor that waits goes first. A parity error tears the context down, poison among
the group's operands too. (Core memory without bad symbols.) -/
def Obligations.MatrixIssueRule : Prop :=
  ∀ (s : State) (k : Nat) (par : Bool), k < s.cores.length → k < 256 → s.up = true →
    let cycle := fun (r : Ramp) => rampCycle r (s.rampLen (k / 64)) (s.holdLimit (k / 64)) (s.topPhase (k / 64))
    let due := ∃ i rest, (s.core k).pipe = i :: rest ∧ 8 ≤ i.age
    (due → exec (.matrixIssue k par) s = .next s) ∧
    (¬ due → s.onCore k 1 = none →
      (cycle (s.core k).ramp false = none → exec (.matrixIssue k par) s = .next s) ∧
      (∀ r v, cycle (s.core k).ramp false = some (r, v) → ∃ u, exec (.matrixIssue k par) s = .next u ∧
        u.core k = { (s.core k).aged with ramp := r } ∧ OtherCoresKept s u k ∧ u.mem = s.mem ∧ u.ctxs = s.ctxs)) ∧
    (∀ y t w, ¬ due → s.onCore k 1 = some (y, t, w) →
      let z := y.prepared t w (s.heldBufs k 1)
      let stall := z.stall t w (s.heldBufs k 1)
      (cycle z.ramp stall.isNone = none → exec (.matrixIssue k par) s = .next s) ∧
      (∀ r v, cycle z.ramp stall.isNone = some (r, v) → v ≠ .work → ∃ u, exec (.matrixIssue k par) s = .next u ∧
        u.core k = { z.aged with ramp := r } ∧ OtherCoresKept s u k ∧ u.mem = s.mem ∧ u.ctxs = s.ctxs) ∧
      (∀ r a f rest, cycle z.ramp stall.isNone = some (r, .work) → z.scales = (a, f) :: rest → ∃ u i, exec (.matrixIssue k par) s = .next u ∧
        (u.core k).pipe = z.aged.pipe ++ [i] ∧ i.row = a ∧ i.factor = some f ∧ i.age = 0 ∧ (u.core k).scales = rest ∧
        (u.core k).pos = z.pos ∧ (u.core k).acc = z.acc ∧ OtherCoresKept s u k ∧ u.mem = s.mem) ∧
      (∀ r p, cycle z.ramp stall.isNone = some (r, .work) → z.scales = [] → w.mat z.pos.pass = some p →
        let refs := (List.range p.mode.g).map fun j => p.act z.pos.row (p.k0 + (32 * z.pos.seg + z.pos.entry) * p.mode.g + j)
        (z.pos.row < p.rows.length → (s.core k).mem.latent = [] →
          (z.badRefs w 1 refs = false → ∃ u, exec (.matrixIssue k false) s = .next u ∧ (u.core k).ramp = r ∧ (u.core k).acc = z.acc ∧
            ((z.pos.advance p).2 = false → (u.core k).pos = (z.pos.advance p).1 ∧
              (u.core k).pipe = z.aged.pipe ++ [z.groupAt w p z.pos.row (s.injects k p.mode) false]) ∧
            (u.core k).pipe.length = z.pipe.length + 1 ∧ OtherCoresKept s u k ∧ u.mem = s.mem) ∧
          (z.badRefs w 1 refs = true → ∃ u, exec (.matrixIssue k false) s = .next u ∧ (u.ctx t.ctx).torn = true) ∧
          ∃ u, exec (.matrixIssue k true) s = .next u ∧ (u.ctx t.ctx).torn = true) ∧
        (p.rows.length ≤ z.pos.row → ∃ u, exec (.matrixIssue k par) s = .next u ∧ (u.core k).pipe.length = z.pipe.length ∧
          (u.core k).ramp = r ∧ (u.core k).acc = z.acc ∧
          ((z.pos.advance p).2 = false → (u.core k).pos = (z.pos.advance p).1 ∧ (u.core k).pipe = z.aged.pipe) ∧
          OtherCoresKept s u k ∧ u.mem = s.mem ∧ u.ctxs = s.ctxs)))

/-- The oldest group of a pipe, issued 8 core cycles before, updates accumulator row i.row of all 1,024 lanes and no other
accumulator, and leaves the pipe; a younger one waits, and one that starts a row waits until the row before it is copied; with an
integer accumulator saturated its command's record will carry SAT. A row that is final is copied, lane by lane in 4 bytes each, to its
place in the result area of core memory, and no other byte of it changes; after the last row of its pass the run of the pass is
queued. A parity error tears the context down. (No NaN trapped, core memory without bad symbols.) -/
def Obligations.AccumulatorsAndRows : Prop :=
  ∀ (s : State) (k : Nat), k < s.cores.length → s.up = true →
    let y := s.core k
    (∀ i rest t, y.pipe = i :: rest → y.tile i.who = some t → (s.ctx t.ctx).alive = true →
      let early := i.age < 8 ∨ (i.first = true ∧ ∃ f ∈ y.final, f.row = i.row)
      (early → ∀ par, exec (.accumulatorUpdate k par) s = .next s) ∧
      (¬ early →
        (i.row < 64 → Cells.wf 0 y.acc = true → s.trapArmed t.ctx = false → ∃ u, exec (.accumulatorUpdate k false) s = .next u ∧
          (∀ l < 1024, Cells.get 0 (l * 64 + i.row) (u.core k).acc =
            (match i.factor with | some f => laneScale y i f l | none => laneUpdate y i l).acc) ∧
          (∀ j, j % 64 ≠ i.row → Cells.get 0 j (u.core k).acc = Cells.get 0 j y.acc) ∧ (u.core k).pipe = rest ∧
          (u.core k).mem = y.mem ∧ (∀ m, (s.ctx t.ctx).byUid t.uid = some m → (y.lanesOf i).any (fun o => o.sat) = true →
            ∀ z ∈ (u.ctx t.ctx).cmds, z.uid = t.uid → z.sat = true) ∧ OtherCoresKept s u k ∧ u.mem = s.mem) ∧
        ∃ u, exec (.accumulatorUpdate k true) s = .next u ∧ (u.ctx t.ctx).torn = true)) ∧
    (∀ f rest t w, y.final = f :: rest → s.workOf k f.who = some (t, w) → (s.ctx t.ctx).alive = true →
      let a := w.areaOff + 262144 * f.area + 4096 * f.line
      (Memory.wf y.mem = true → y.mem.latent = [] → ∃ u, exec (.resultRowCopy k false) s = .next u ∧
        (∀ l < 1024, (u.core k).mem.read (a + 4 * l) 4 = leBytes 4 (Cells.get 0 (l * 64 + f.row) y.acc).toNat) ∧
        SameOutside y.mem (u.core k).mem [(a, 4096)] ∧ (u.core k).final = rest ∧
        (u.core k).acc = (y.restart ((s.workOf k 1).bind fun v => v.2.mat y.pos.pass) f.row).acc ∧
        (∀ p, w.mat f.pass = some p → (u.core k).veng.queue = y.veng.queue ++
          (if f.line + 1 < p.rows.length then [] else [{ who := f.who, role := 2, pass := f.pass, area := f.area }])) ∧
        OtherCoresKept s u k ∧ u.mem = s.mem ∧ u.ctxs = s.ctxs) ∧
      ∃ u, exec (.resultRowCopy k true) s = .next u ∧ (u.ctx t.ctx).torn = true)

/-- The hold of an idle matrix unit ends after its limit, at the phase of the ramp down below the top density. A phase of a ramp ends
after a third of the ramp's length: upwards the density rises phase by phase to full, or to the cap of the die and stays there, above the
cap it falls phase by phase, and a unit at full density or at the density of an older cap moves to the new cap's in the same way;
downwards it falls to a stop. -/
def Obligations.RampRule : Prop :=
  ∀ (s : State) (k : Nat),
    let y := s.core k
    let to_ : Ramp → Host.Outcome State Fault Refusal := fun r => .next (s.setCore k { y with ramp := r })
    let len := s.rampLen (k / 64)
    let n := len / 3
    let top := s.topPhase (k / 64)
    let atTop : Ramp := if 4 ≤ top then .full else .capped top 0
    (∀ c, y.ramp = .hold c →
      (c < s.holdLimit (k / 64) ∨ s.issuable k = true → exec (.holdExpiry k) s = .next s) ∧
      (s.holdLimit (k / 64) ≤ c → s.issuable k = false →
        exec (.holdExpiry k) s = to_ (if len = 0 ∨ top ≤ 1 then .stopped else .down (top - 1) 0))) ∧
    (∀ p c, (y.ramp = .up p c ∧ n ≤ c) ∨ (y.ramp = .capped p c ∧ p ≠ top) →
      (len = 0 ∨ (p ≤ top + 1 ∧ top ≤ p + 1) → exec (.rampPhaseEnd k) s = to_ atTop) ∧
      (len ≠ 0 → p + 1 < top → exec (.rampPhaseEnd k) s = to_ (.up (p + 1) 0)) ∧
      (len ≠ 0 → top + 1 < p → exec (.rampPhaseEnd k) s = to_ (.up (p - 1) 0))) ∧
    (∀ p c, (y.ramp = .up p c ∨ y.ramp = .down p c) → c < n → exec (.rampPhaseEnd k) s = .next s) ∧
    (∀ p c, y.ramp = .down p c → n ≤ c → exec (.rampPhaseEnd k) s = to_ (if p ≤ 1 then .stopped else .down (p - 1) 0)) ∧
    (∀ c, y.ramp = .capped top c → exec (.rampPhaseEnd k) s = .next s) ∧
    (y.ramp = .full → exec (.rampPhaseEnd k) s = if 4 ≤ top then .next s else if len = 0 ∨ top = 3 then to_ (.capped top 0) else to_ (.up 3 0))

/-- The next run of a core takes the free vector engine, with fresh statistic slots, once its fill, its output slot and what it would
overwrite allow it: a prologue before any other; the last part of a split over its result area with the running sum added; a part before
the last sends its sums instead, and the engine is free again. One instruction of the current run of a posy changes the core as that
instruction over its chunk does, and the position goes on; under a cap a cycle that may not issue moves the cycle count alone, and so
does a wait for a stream buffer that is not full; a parity error, poison among what it loads, and an address that device memory does
not have tear the context down. (No NaN trapped, no bad symbols in memory.) -/
def Obligations.VectorEngineRule : Prop :=
  ∀ (s : State) (k : Nat), k < s.cores.length →
    let next := s.nextRun k
    ((s.core k).veng.cur.isSome = true ∨ next = none → exec (.posyRunStart k) s = .next s) ∧
    (∀ r x, (s.core k).veng.cur = none → next = some r → s.running k r = some x →
      let mine := fun (p : SplitSpec) => (List.range p.rows).map fun r => x.areaBytes r 0 ((x.h.span 0).2 - (x.h.span 0).1)
      let clean := fun (p : SplitSpec) => s.mem.latent = [] ∧ x.y.mem.latent = [] ∧ (∀ b ∈ mine p, x.y.mem.poisoned 32 b.1 b.2 = false)
      (s.mayStart x = false → exec (.posyRunStart k) s = .next s) ∧
      (s.mayStart x = true → x.h.split = none → 0 < x.h.rows → exec (.posyRunStart k) s = .next (s.setCore k x.begin) ∧
        (r.role = 1 ∨ (x.w.mat r.pass).isSome = true → x.begin.veng.cur = some r ∧ x.begin.veng.queue = x.y.veng.queue.erase r ∧
          x.begin.veng.s = x.h.prog.slots ∧ x.begin.mem = x.y.mem ∧ x.begin.acc = x.y.acc)) ∧
      (∀ p, s.mayStart x = true → x.h.split = some p → (x.w.mat r.pass).isSome = true → clean p →
        (p.first = true ∨ ∀ b ∈ x.sumBytes s p, s.mem.poisoned 64 b.1 b.2 = false) → s.trapArmed x.t.ctx = false →
        (p.last = true → ∃ u, exec (.posyRunStart k) s = .next u ∧ (u.core k).veng.cur = some r ∧
          (u.core k).mem = (if p.first then x.y.mem else (x.foldSum s p).1) ∧ OtherCoresKept s u k ∧ u.mem = s.mem ∧ u.ctxs = s.ctxs) ∧
        (p.first = true → p.last = false → ∃ u ws, exec (.posyRunStart k) s = .next u ∧ (u.core k).veng.cur = none ∧
          u.writes = s.writes ++ ws ∧ (∀ q ∈ ws, q.ctx = x.t.ctx ∧ q.uid = x.t.uid ∧ q.poison = false) ∧
          (let sums := (List.range p.rows).flatMap fun r => p.put s.mem r (x.partRow r)
           sums ≠ [] → ws.map (fun q => (q.addr, q.data)) = sums) ∧
          OtherCoresKept s u k ∧ u.mem = s.mem ∧ u.ctxs = s.ctxs))) ∧
    (∀ x, (s.core k).veng.cur.bind (s.running k) = some x →
      let turn := { x.y with veng := { x.y.veng with cycle := (x.y.veng.cycle + 1) % 4 } }
      let issues := isSlot (s.topPhase (k / 64)) x.y.veng.cycle = true
      let waits := x.y.waitsForStream x.w x.r x.h
      let absent := x.deviceBytes.any fun b => b.2 != 0 && !inDevice b.1 b.2
      let poison := (x.coreBytes.any fun b => x.y.mem.poisoned 32 b.1 b.2) || x.deviceBytes.any fun b => s.mem.poisoned 64 b.1 b.2
      (¬ issues → ∀ par, exec (.posyInstruction k par) s = .next (s.setCore k turn)) ∧
      (issues → waits = true → ∀ par, ∃ u, exec (.posyInstruction k par) s = .next u ∧ u.core k = turn ∧ OtherCoresKept s u k ∧
        u.mem = s.mem ∧ u.ctxs = s.ctxs) ∧
      (issues → waits = false → ∃ u, exec (.posyInstruction k true) s = .next u ∧ (u.ctx x.t.ctx).torn = true) ∧
      (issues → waits = false → absent = true → ∃ u, exec (.posyInstruction k false) s = .next u ∧ (u.ctx x.t.ctx).torn = true ∧
        (u.ctx x.t.ctx).teardown = some (0x316, 3, some x.t.uid)) ∧
      (issues → waits = false → absent = false → s.mem.latent = [] → x.y.mem.latent = [] → poison = true →
        ∃ u, exec (.posyInstruction k false) s = .next u ∧ (u.ctx x.t.ctx).torn = true) ∧
      (∀ p, issues → waits = false → absent = false → s.mem.latent = [] → x.y.mem.latent = [] → poison = false →
        x.h.prog = .posy p → x.advance.2.2.1 = false → s.trapArmed x.t.ctx = false →
        let y := match (x.h.readsStream x.r).bind (x.y.bufferOf x.w x.r x.h) with | some (q, _) => turn.markFill q.who q.fill .inUse | none => turn
        ∃ u, exec (.posyInstruction k false) s = .next u ∧ u.core k = x.moved (({ x with y := y } : Running).posyStep s p).1 ∧
          (u.core k).veng.cur = some x.advance.1 ∧ OtherCoresKept s u k ∧ u.mem = s.mem ∧ u.ctxs = s.ctxs))

/-- In bounded mode a wait of a consumer for a slot that is not FULL, longer than SLACK, is late: the first one of a tile command
writes a deadline-miss record, the later ones rewrite its count and its longest wait; the command's record will set DLMISS. A
wait within SLACK, or outside bounded mode, changes nothing. No core but its own changes, and no byte outside the area. (Memory
without bad symbols.) -/
def Obligations.LateDataRule : Prop :=
  ∀ (s : State) (k wait : Nat) (y : Core) (t : TileCmd) (w : TileWork) (b : CtxBlock), s.onCore k 1 = some (y, t, w) →
    k < s.cores.length → (s.ctx t.ctx).blk = some b → s.Canonical → s.mem.latent = [] →
    let x := s.ctx t.ctx
    let area := if b.dlmBase = 0 then [] else [(b.dlmBase, 32 * 2 ^ b.logDlm)]
    (b.bounded = false ∨ s.cfg.bound.toNat % 2 = 0 ∨ wait ≤ w.slack ∨ s.waitsForData k = false → exec (.lateDataMiss k wait) s = .next s) ∧
    (b.bounded = true → s.cfg.bound.toNat % 2 = 1 → w.slack < wait → s.waitsForData k = true →
      ∃ u, exec (.lateDataMiss k wait) s = .next u ∧ (u.core k).lateWaits = y.lateWaits + 1 ∧ OtherCoresKept s u k ∧
        SameOutside s.mem u.mem area ∧
        (y.dlm = none → (u.core k).dlm = some (x.dseq, s.now, wait * 4 / 7) ∧ (u.ctx t.ctx).dseq = x.dseq + 1 ∧
          ∀ m ∈ (u.ctx t.ctx).cmds, m.uid = t.uid → m.dlmiss = true) ∧
        (∀ d t0 longest, y.dlm = some (d, t0, longest) → (u.core k).dlm = some (d, t0, max longest (wait * 4 / 7)) ∧ u.ctxs = s.ctxs))

/-! ### Numbers -/

/-- Narrowing the value that a code of an 8-, 6- or 4-bit element format stands for gives the code back, for every code but NaNs
and zeros (a subnormal code reads as a zero); a NaN operand makes an FP32 sum, product and fused product a NaN; a code of FP32 is
a NaN exactly when its exponent is all ones and its fraction is not zero. -/
def Obligations.NumbersRoundTrip : Prop :=
  (∀ f ∈ [Elem.e4m3, .e5m2, .e2m3, .e3m2, .e2m1], ∀ c < 2 ^ f.width, (decodeElem f c).isNaN = false →
    (decodeElem f c).isZero = false → encodeElem f (decodeElem f c) = c) ∧
  (∀ a b c : Word, isNaN32 a = true → isNaN32 (fadd a b) = true ∧ isNaN32 (fadd b a) = true ∧ isNaN32 (fmul a b) = true ∧
    isNaN32 (fmul b a) = true ∧ isNaN32 (fma a b c) = true ∧ isNaN32 (fma b c a) = true) ∧
  (∀ a : Word, isNaN32 a = decide (a.toNat / 2 ^ 23 % 256 = 255 ∧ a.toNat % 2 ^ 23 ≠ 0))

/-! ### Memory -/

/-- 11 R292. A write of a memory in units of u bytes stores its bytes and changes no other byte. It clears the poison of every unit that it
covers whole and leaves every other poisoned unit poisoned; one with poisoned data poisons every unit that it touches. -/
def Obligations.WritesAndPoison : Prop :=
  ∀ (m : Mem) (u a : Nat) (bs : List Byte), 0 < u → Memory.wf m = true →
    let t := m.write u a bs false
    t.read a bs.length = bs ∧ SameOutside m t [(a, bs.length)] ∧
    (∀ x, a ≤ x * u → (x + 1) * u ≤ a + bs.length → NatSet.mem x t.poison = false) ∧
    (∀ x, NatSet.mem x m.poison = true → ¬ (a ≤ x * u ∧ (x + 1) * u ≤ a + bs.length) → NatSet.mem x t.poison = true) ∧
    ∀ x ∈ unitsOf u a bs.length, NatSet.mem x (m.write u a bs true).poison = true

/-- MEMORY_READ of an address that its memory has: a unit without bad symbols changes no byte and no error count; with one or two
it is corrected and counted; a device-memory or die-buffer line with three or four is uncorrectable: the unit is poisoned,
counted and logged, its bytes stay, and a context that uses it is torn down. A poisoned unit stays so, tears down a context that uses
it, and is counted again when more than two of its symbols are bad. With more bad symbols the row completes as well. Beside the memory,
the counts of its die and the performance counters only the messages that go with an error change. An address that the
memory does not have stops the step. -/
def Obligations.MemoryReadRule : Prop :=
  ∀ (s : State) (m : MemTarget) (a n : Nat) (user : Option Nat), s.up = true →
    (memHas m a = false → exec (.memoryRead m a n user) s = .fault .absentAddress) ∧
    (memHas m a = true →
      let x := a / memUnit m
      let bad := Cells.get 0 x (s.memOf m).latent + n
      let d := s.countDie m (x * memUnit m)
      (NatSet.mem x (s.memOf m).poison = true → ∃ t, exec (.memoryRead m a n user) s = .next t ∧
        (∀ c, user = some c → (s.ctx c).alive = true → (t.ctx c).torn = true) ∧
        (bad ≤ 2 → t.dies = s.dies ∧ (user = none → ∃ k, t = { s with counters := k })) ∧
        (2 < bad → d < s.dies.length → (t.die d).uncorr = min ((s.die d).uncorr + 1) 0xFFFF ∧ (t.die d).corr = (s.die d).corr)) ∧
      (NatSet.mem x (s.memOf m).poison = false →
        (bad = 0 → ∃ t k, exec (.memoryRead m a n user) s = .next t ∧ t = { s with counters := k }) ∧
        (bad = 1 ∨ bad = 2 → d < s.dies.length → ∃ t, exec (.memoryRead m a n user) s = .next t ∧
          (t.memOf m).cells = (s.memOf m).cells ∧ (t.memOf m).poison = (s.memOf m).poison ∧
          (t.die d).corr = min ((s.die d).corr + 1) 0xFFFF ∧ (t.die d).uncorr = (s.die d).uncorr ∧ t.ctxs = s.ctxs) ∧
        (bad = 3 ∨ bad = 4 → memUnit m = 64 → d < s.dies.length → (∀ b, m = .dieBuf b → b < s.dieBuf.length) →
          ∃ t, exec (.memoryRead m a n user) s = .next t ∧
            (t.die d).uncorr = min ((s.die d).uncorr + 1) 0xFFFF ∧ (t.die d).corr = (s.die d).corr ∧
            (user = none → (t.memOf m).cells = (s.memOf m).cells ∧ NatSet.mem x (t.memOf m).poison = true ∧ t.ctxs = s.ctxs) ∧
            (∀ c, user = some c → (s.ctx c).alive = true → (t.ctx c).torn = true)) ∧
        (4 < bad ∨ (2 < bad ∧ memUnit m = 32) → ∃ t, exec (.memoryRead m a n user) s = .next t)))

/-- The oldest write sent reaches its home: each of its bytes reads back, no other byte of device memory changes, and the
write has left the queue; the output slot that it was the last to drain is FREE; the last of a tile command counts it home, and the last
tile command of a command completes that; with none sent nothing changes. (Over memory without bad symbols.)
SCRUB_READ moves the die's scrub position on by one line and changes no byte: with up to two bad symbols the line is
corrected, with three or four it is poisoned and the die's uncorrectable count rises; an uncorrectable line of the reserved area is
counted once. REFRESH counts one refresh of a channel, two
above 85 °C, and changes nothing else; in A3 and A4 it changes nothing. -/
def Obligations.HomeWriteScrubRefresh : Prop :=
  (∀ s : State, (s.writes = [] → exec .memoryWriteHome s = .next s) ∧
    (∀ q r, s.writes = q :: r → s.up = true → s.Canonical → s.mem.latent = [] → ∃ t, exec .memoryWriteHome s = .next t ∧ t.writes = r ∧
      t.mem.read q.addr q.data.length = q.data ∧ SameOutside s.mem t.mem [(q.addr, q.data.length)] ∧
      (∀ c, c ≠ q.ctx → t.ctx c = s.ctx c) ∧ (q.last = false → t.ctxs = s.ctxs) ∧ (q.out = none → q.last = false → t.cores = s.cores) ∧
      (∀ off, q.out = some off → ∀ z ∈ (t.core q.core).slots, z.off = off → ∀ o, z.operand ≠ .out o) ∧
      (∀ m, q.last = true → q.exec = none → (s.ctx q.ctx).byUid q.uid = some m → m.tilesDone = 1 → m.unplaced = [] →
        t.Finished q.ctx q.uid s.now) ∧
      (∀ m e un n, q.last = true → q.exec = some e → (s.ctx q.ctx).byUid q.uid = some m → m.steps.tilesOf e = some (un, n) →
        ∀ z ∈ (t.ctx q.ctx).cmds, z.uid = q.uid → z.steps.tilesOf e = some (un, n - 1)))) ∧
  (∀ (s : State) (d n : Nat), s.up = true →
    (d < 4 → d < s.dies.length → s.power.cur ≤ 2 → s.cfg.scrub.getD d 0 ≠ 0 →
      let pos := (s.die d).scrubPos
      (scrubAddr (s.cfg.memMap.toNat % 4) d pos = none → ∃ t, exec (.scrubRead d n) s = .next t ∧
        (t.die d).scrubPos = (pos + 1) % 1610612736 ∧ t.mem = s.mem ∧ t.ctxs = s.ctxs ∧
        (NatSet.mem pos (s.die d).scrubBad = true → (t.die d).uncorr = (s.die d).uncorr) ∧
        (NatSet.mem pos (s.die d).scrubBad = false → n = 3 ∨ n = 4 →
          (t.die d).uncorr = min ((s.die d).uncorr + 1) 0xFFFF ∧ NatSet.mem pos (t.die d).scrubBad = true)) ∧
      ∀ a, scrubAddr (s.cfg.memMap.toNat % 4) d pos = some a → NatSet.mem (a / 64) s.mem.poison = false →
      let bad := Cells.get 0 (a / 64) s.mem.latent + n
      bad ≤ 4 → ∃ t, exec (.scrubRead d n) s = .next t ∧ (t.die d).scrubPos = (pos + 1) % 1610612736 ∧
        t.mem.cells = s.mem.cells ∧ t.ctxs = s.ctxs ∧
        (bad = 0 → (t.die d).corr = (s.die d).corr ∧ (t.die d).uncorr = (s.die d).uncorr ∧ t.mem = s.mem) ∧
        (bad = 1 ∨ bad = 2 → (t.die d).corr = min ((s.die d).corr + 1) 0xFFFF ∧ t.mem.poison = s.mem.poison) ∧
        (3 ≤ bad → (t.die d).uncorr = min ((s.die d).uncorr + 1) 0xFFFF ∧ NatSet.mem (a / 64) t.mem.poison = true)) ∧
    (s.cfg.scrub.getD d 0 = 0 → exec (.scrubRead d n) s = .next s) ∧
    (∀ stack ch, stack < 24 → ch < 32 → s.power.cur ≤ 2 → ∃ k, exec (.refresh stack ch) s = .next { s with counters := k } ∧
      let i := 4720 + 6 * (stack * 32 + ch) + 4
      Cells.get 0 i s.counters + 2 < 2 ^ 64 → Cells.wf 0 s.counters = true →
        Cells.get 0 i k = Cells.get 0 i s.counters + (if s.power.doubleRefresh.getD (stack / 6) false = true then 2 else 1)) ∧
    (∀ stack ch, 2 < s.power.cur → exec (.refresh stack ch) s = .next s))

/-! ### Power and time -/

/-- A sample of the rails keeps the average of the last 100 samples and moves the power cap by one step at most: up by one above
the limit, down by one after 1 ms at 95 percent of it or less. A temperature trip asserts THERMTRIP_N and stops the device; other
readings set each die's cap by the first matching row of Table 16.5 and the refresh rate of its stacks.
An answer of a regulator moves the target of its rail by at most 10 mV; a fault, or no answer, raises the caps until 10 ms after
the faults are gone. AVS_FAULT_CLEAR ends the hold then, and not before. -/
def Obligations.PowerThermalAvs : Prop :=
  (∀ s : State, s.up = true → s.power.cur < 4 →
    (∀ rails, rails.length = 6 → ∃ t, exec (.powerSample rails) s = .next t ∧ t.power.rails = rails ∧
      t.power.samples = (packagePower rails :: s.power.samples).take 100 ∧ t.power.samples.length ≤ 100 ∧
      t.power.avg = min (t.power.samples.foldl (· + ·) 0 / t.power.samples.length) 0xFFFF ∧
      (s.cfg.pwrLimit.toNat * 8 < t.power.avg → s.power.lastPowerMove = none → t.power.powerCap = min (s.power.powerCap + 1) 3) ∧
      (∀ f, t.power.avg * 20 ≤ s.cfg.pwrLimit.toNat * 8 * 19 → s.power.lowFrom = some f → 1000000 ≤ s.now.toNat - f.toNat →
        t.power.powerCap = s.power.powerCap - 1) ∧
      t.ctxs = s.ctxs ∧ t.cores = s.cores ∧ t.mem = s.mem) ∧
    (∀ junc stack hub, junc.length = 4 → stack.length = 4 →
      (tripReading junc stack hub = true → ∃ t, exec (.thermalUpdate junc stack hub) s = .next t ∧ t.boot.thermtripN = false ∧
        t.boot.life = .stopped ∧ t.tx = s.tx ++ [.thermtrip] ∧ t.shadow = none ∧ t.ctxs = s.ctxs) ∧
      (tripReading junc stack hub = false → ∃ t, exec (.thermalUpdate junc stack hub) s = .next t ∧
        (∀ d < 4, t.power.thermalCap.getD d 0 =
          (thermalStep (junc.getD d 0) (stack.getD d 0) (s.power.thermalCap.getD d 0) (s.power.coolFrom.getD d none) s.now).1 ∧
          t.power.doubleRefresh.getD d false = decide (680 < stack.getD d 0) ∧
          t.power.temps.getD d (0, 0) = (junc.getD d 0, stack.getD d 0)) ∧
        (t.power.hot = true ↔ 824 ≤ hub ∨ (800 < hub ∧ s.power.hot = true)) ∧ t.boot = s.boot ∧ t.ctxs = s.ctxs ∧ t.cores = s.cores))) ∧
  (∀ s : State, s.up = true →
    (∀ i reached, i < 5 → s.power.cur < 4 → s.power.targets.length = 5 → 6500 ≤ s.power.targets.getD i 8000 →
      s.power.targets.getD i 8000 ≤ 8500 → (i = 4 → 7000 ≤ s.power.targets.getD i 8000) →
      let t := s.avsRail i (.ok reached)
      t.power.targets.getD i 8000 ≤ s.power.targets.getD i 8000 + 100 ∧ s.power.targets.getD i 8000 ≤ t.power.targets.getD i 8000 + 100 ∧
        (reached = false → t.power.targets.getD i 8000 ≤ s.power.targets.getD i 8000) ∧
        (∀ j, j ≠ i → t.power.targets.getD j 8000 = s.power.targets.getD j 8000) ∧
        (railRange i).1 ≤ t.power.targets.getD i 8000 ∧ t.power.targets.getD i 8000 ≤ (railRange i).2) ∧
    (∀ ans, s.power.cur < 4 → ∃ t, exec (.avsUpdate ans) s = .next t ∧ t.ctxs = s.ctxs ∧ t.cores = s.cores ∧ t.mem = s.mem ∧
      ((∃ i < 6, ans[i]? = some .silent) → t.power.avsHeld = true ∧ t.power.avsClearAt = none)) ∧
    (∀ w, s.power.avsClearAt = some w → s.power.avsHeld = true →
      (s.now.toNat < w.toNat → exec .avsFaultClear s = .next s) ∧
      (w.toNat ≤ s.now.toNat → ∃ t, exec .avsFaultClear s = .next t ∧ t.power.avsHeld = false ∧ t.power.avsClearAt = none ∧
        t.ctxs = s.ctxs ∧ t.cores = s.cores ∧ t.mem = s.mem)))

/-- PTM: a failed dialogue clears the lock; one of a device that follows the host, more than 1,000 ticks behind it, steps the
timebase forward by the offset and never back; a smaller offset is slewed; the lock holds within 1,000 ticks. On a board the
other devices follow the master in the same way, and are synchronous within 8 or 16 ticks. -/
def Obligations.TimebaseFollows : Prop :=
  ∀ s : State, s.up = true →
    (bit1 s.link.pcieStatus.toNat 11 = true → s.power.cur < 4 →
      (∃ t, exec (.ptmDialogue none) s = .next t ∧ t.power.ptmLock = false ∧ t.now = s.now) ∧
      (∀ d, s.followsHost = true → s.tbValid = true → ∃ t, exec (.ptmDialogue (some d)) s = .next t ∧
        (1000 < d → t.now = s.now + BitVec.ofNat 64 d.toNat) ∧ (d ≤ 1000 → t.now = s.now ∧ t.power.slew = d) ∧
        t.power.ptmOffset = clampInt (-32768) 32767 d ∧ t.power.ptmLock = decide (d.natAbs ≤ 1000) ∧ t.ctxs = s.ctxs ∧ t.mem = s.mem) ∧
      (∀ d, s.followsHost = false → s.tbValid = true → ∃ t, exec (.ptmDialogue (some d)) s = .next t ∧ t.now = s.now ∧
        t.power.slew = s.power.slew)) ∧
    (∀ d, s.followsHost = false → s.boardStatus = 1 →
      let limit := if bits s.cfg.board.toNat 11 8 ≤ 7 then 8 else 16
      (1000 < d → exec (.timeExchange d) s = .next { s with synced := false, now := s.now + BitVec.ofNat 64 d.toNat }) ∧
      (d < -1000 → exec (.timeExchange d) s = .next { s with synced := false, power := { s.power with slew := d } }) ∧
      (-1000 ≤ d → d ≤ 1000 → exec (.timeExchange d) s = .next { s with
        synced := s.synced || decide (d.natAbs ≤ limit), power := { s.power with slew := d } })) ∧
    (∀ d, s.followsHost = true → exec (.timeExchange d) s = .next s)

/-- A device that is idle long enough enters its target state: the deepest one that the latency tolerance and the conditions of
Table 16.3 allow; one that is not idle restarts the time of idleness, and a state that is no longer allowed is left. Power gating
in A2 and deeper empties the weight banks, A3 and deeper lose core memory (deduced from what Table 16.2 retains, entry 99); A4 stops the
timebase. The end of an exit leads to A0, from A4 only once the timebase
is set; from A3 and A4 the table banks are restored, and where an image of EX2 holds a poisoned line that table's bank 0 holds
the standard table and is active, the other bank 1 keeps its contents unless the bad image is its own, and no other table changes. -/
def Obligations.IdleAndExit : Prop :=
  (∀ (tb : Tables) (x y : List Byte), tb.ex2 = [x, y] →
    (tb.bad = [0] → tb.restored = { tb with ex2 := [stdEx2, y], active := tb.active.set 0 0, bad := [] }) ∧
    (tb.bad = [1] → tb.restored = { tb with ex2 := [stdEx2, []], active := tb.active.set 0 0, bad := [] }) ∧
    (tb.bad = [] → tb.restored = tb)) ∧
  ∀ s : State, s.up = true →
    (s.power.exiting = false →
      let u : State := { s with power := { s.power with target := s.targetState } }
      (s.targetState < s.power.cur → exec .idleEntry s = .next u.wake) ∧
      (s.power.cur ≤ s.targetState → s.idle = false →
        exec .idleEntry s = .next { u with power := { u.power with idleFrom := s.now } }) ∧
      (s.power.cur ≤ s.targetState → s.idle = true →
        s.power.cur = s.targetState ∨ s.now.toNat - s.power.idleFrom.toNat < idleTime s.targetState →
        exec .idleEntry s = .next u) ∧
      (s.power.cur < s.targetState → s.idle = true → idleTime s.targetState ≤ s.now.toNat - s.power.idleFrom.toNat →
        ∃ t, exec .idleEntry s = .next t ∧ t.power.cur = s.targetState ∧ t.ctxs = s.ctxs ∧ t.mem = s.mem ∧
          (2 ≤ s.targetState → s.power.cur < 2 → ∀ y ∈ t.cores, y.banks = [{}, {}]) ∧
          (∀ k < s.cores.length, (s.targetState < 3 ∨ 3 ≤ s.power.cur → (t.core k).mem = (s.core k).mem) ∧
            (3 ≤ s.targetState → s.power.cur < 3 → (t.core k).mem.cells = [] ∧ (t.core k).mem.fill.isSome = true)) ∧
          (s.targetState < 2 → t.cores = s.cores) ∧ (s.targetState = 4 → t.tbValid = false ∧ t.synced = false))) ∧
    (s.power.exiting = true → s.tbValid = true → ∃ t, exec .stateExitDone s = .next t ∧ t.power.cur = 0 ∧ t.power.exiting = false ∧
      t.power.idleFrom = s.now ∧ t.ctxs = s.ctxs ∧ t.cores = s.cores ∧ t.mem = s.mem ∧ t.awake = true ∧
      t.tables = if 3 ≤ s.power.cur then s.tables.restored else s.tables) ∧
    (s.power.exiting = false ∨ s.tbValid = false → exec .stateExitDone s = .next s)

/-! ### Rolig -/

/-- A training attempt of a port that is not up ends with 8 or 4 lanes and its peer's identity, or fails, and the third failure in
a row takes the port down; a down port is tried again; another peer than before on a board that is up is a topology error. A flit that cannot be
corrected is replayed, the eighth failed replay in a row and a missing acknowledgement take the port down. Only ports, routes, the board's status and counters change. -/
def Obligations.PortRule : Prop :=
  ∀ (s : State) (p : Nat), s.up = true → p < 12 → s.ports.length = 12 →
    (s.boarded = true → (s.port p).state ≠ 2 →
      (∀ lanes peer q, lanes = 8 ∨ lanes = 4 → ∃ t, exec (.portTrain p lanes peer q) s = .next t ∧ (t.port p).state = 2 ∧
        (t.port p).width = lanes / 4 ∧ (t.port p).peer = peer.board % 16 ∧ (t.port p).peerPort = q % 16 ∧ (t.port p).links = peer.links ∧
        (t.port p).settings = peer.settings % 1024 ∧ (t.port p).fails = 0 ∧
        t.boardStatus = (if s.boardStatus = 1 ∧ ((s.port p).peer ≠ peer.board ∨ (s.port p).peerPort ≠ q) then 3 else s.boardStatus) ∧
        t.tx = s.tx ++ [.portHello p s.boot.boardId (bits s.cfg.board.toNat 15 6)] ∧ (∀ j, j ≠ p → t.port j = s.port j) ∧ t.ctxs = s.ctxs ∧ t.mem = s.mem) ∧
      (∀ lanes peer q, lanes ≠ 8 → lanes ≠ 4 → ∃ t, exec (.portTrain p lanes peer q) s = .next t ∧
        ((s.port p).fails + 1 < 3 → (t.port p).state = 1 ∧ (t.port p).fails = (s.port p).fails + 1) ∧
        (3 ≤ (s.port p).fails + 1 → (t.port p).state = 3 ∧ (t.port p).downs = min ((s.port p).downs + 1) 255) ∧
        (∀ j, j ≠ p → t.port j = s.port j) ∧ t.ctxs = s.ctxs ∧ t.mem = s.mem)) ∧
    (s.boarded = true → (s.port p).state = 3 →
      exec (.portRetry p) s = .next { s with ports := s.ports.set p { s.port p with state := 1, fails := 0 } }) ∧
    ((s.port p).state = 2 →
      (∀ e, e ≤ 15 → ∃ k, exec (.flitReceive p e true) s = .next { s with
        counters := k, ports := s.ports.set p { s.port p with replays := 0 } }) ∧
      (∀ e ok, ok = false ∨ 15 < e →
        ((s.port p).replays < 8 → ∃ k, exec (.flitReceive p e ok) s = .next { s with
          counters := k, ports := s.ports.set p { s.port p with replays := (s.port p).replays + 1 }, tx := s.tx ++ [.replay p] }) ∧
        (8 ≤ (s.port p).replays → ∃ t, exec (.flitReceive p e ok) s = .next t ∧ (t.port p).state = 3 ∧ t.tx = s.tx)) ∧
      ∃ t, exec (.ackTimeout p) s = .next t ∧ (t.port p).state = 3 ∧ (t.port p).width = 0 ∧
        (∀ j, j ≠ p → t.port j = s.port j) ∧ t.ctxs = s.ctxs ∧ t.mem = s.mem)

/-- BOARD_CONFIGURE, once settings name a board, sets it up when the links satisfy Table 15.1, and reports a duplicate identity (this
device's or one port of one identity behind two ports, or other settings) or a topology error otherwise; a route is valid only on a board
that is up, while a port of each group on it is up. A request of another device is carried
out when its bit is set and every byte lies in the inbound window, and is refused and counted otherwise; an add to a poisoned
line is answered with poison and changes nothing but counters. (Over memory without bad symbols.) -/
def Obligations.BoardAndInbound : Prop :=
  (∀ s : State, s.boarded = false ∨ s.boardStatus ≠ 0 → exec .boardConfigure s = .next s) ∧
  (∀ s : State, s.up = true → s.boarded = true → s.boardStatus = 0 → ∃ t, exec .boardConfigure s = .next t ∧
    (let up := fun (p : Nat) => p < 12 ∧ (s.port p).state = 2
     let bad := ∃ p, up p ∧ ((s.port p).peer = s.boot.boardId ∨ (s.port p).settings ≠ bits s.cfg.board.toNat 15 6 ∨
       ∃ q, up q ∧ p ≠ q ∧ (s.port q).peer = (s.port p).peer ∧ (s.port q).peerPort = (s.port p).peerPort)
     (bad → t.boardStatus = 2) ∧ (¬ bad → t.boardStatus = if s.linksOk then 1 else 3)) ∧
    t = { s with boardStatus := t.boardStatus, routes := t.routes } ∧ t.routes.length = 16 ∧
    (∀ d < 16, (t.routes.getD d {}).valid = true → t.boardStatus = 1 ∧
      (∃ p < 12, bit1 (t.routes.getD d {}).ports p = true ∧ (s.port p).state = 2) ∧
      ((t.routes.getD d {}).via = d ∨ s.farUp (t.routes.getD d {}).via d = true))) ∧
  (∀ (s : State) (src a : Nat), s.up = true → s.Canonical → s.mem.latent = [] →
    (∀ n, s.wake.inboundOk src a n = true → ∃ k, exec (.roligInboundRequest src (.read a n)) s = .next { s.wake with
      counters := k, tx := s.tx ++ [.roligAck src (s.mem.read a n) (s.mem.poisoned 64 a n)] }) ∧
    (∀ bs pz, s.wake.inboundOk src a bs.length = true → ∃ t, exec (.roligInboundRequest src (.write a bs pz)) s = .next t ∧
      t.mem.read a bs.length = bs ∧ SameOutside s.mem t.mem [(a, bs.length)] ∧ t.ctxs = s.ctxs ∧
      t.tx = s.tx ++ [.roligAck src [] false]) ∧
    (∀ inc, s.wake.inboundOk src a 4 = true →
      (s.mem.poisoned 64 a 4 = false → ∃ t, exec (.roligInboundRequest src (.add a inc)) s = .next t ∧
        t.slip a = s.slip a + inc ∧ SameOutside s.mem t.mem [(a, 4)] ∧ t.ctxs = s.ctxs) ∧
      (s.mem.poisoned 64 a 4 = true →
        ∃ k, exec (.roligInboundRequest src (.add a inc)) s = .next { s.wake with counters := k, tx := s.tx ++ [.roligAck src [] true] })) ∧
    (∀ n, s.wake.inboundOk src a n = false → exec (.roligInboundRequest src (.read a n)) s = .next { s.wake with
      inRefused := min (s.inRefused + 1) 0xFFFF, tx := s.tx ++ [.roligRefuse src] }))

/-! ### Answers from outside -/

/-- The data of the oldest read of host memory goes to its place in device memory and no other byte changes; the last answer of a
command ends it. A failed read, or none within 50 ms, tears the context down. The oldest Rolig request ends in the same way: a
read's data is stored, an acknowledgement of a write or an add ends its command, an add that met poison, a refusal or 100 µs without an
answer tear the context down; an answer to the management ring ends its descriptor. (Over memory without bad symbols.) -/
def Obligations.AnswersOfRequests : Prop :=
  ∀ s : State, s.Canonical → s.mem.latent = [] →
    let asked := fun (q o : Outstanding) => o.ctx = q.ctx ∧ o.uid = q.uid ∧ o.exec = q.exec
    (∀ q r, s.reads = q :: r → s.hostUp = true →
      (∀ bs ep, q.n ≤ bs.length → q.slip = none → ∃ t, exec (.hostReadCompletion (.ok bs ep)) s = .next t ∧ t.reads = r ∧
        t.mem.read q.dst q.n = bs.take q.n ∧ SameOutside s.mem t.mem [(q.dst, q.n)] ∧ t.cores = s.cores ∧
        (∀ c, c ≠ q.ctx → t.ctx c = s.ctx c) ∧
        (q.last = true → (s.ctx q.ctx).alive = true → (∀ o ∈ r ++ s.remote, ¬ asked q o) → t.Finished q.ctx q.uid s.now)) ∧
      ((s.ctx q.ctx).alive = true → ∃ t, exec (.hostReadCompletion .failed) s = .next t ∧ (t.ctx q.ctx).torn = true) ∧
      (50000000 ≤ s.now.toNat - q.issued.toNat → (s.ctx q.ctx).alive = true →
        ∃ t, exec .hostReadTimeout s = .next t ∧ (t.ctx q.ctx).torn = true) ∧
      (s.now.toNat - q.issued.toNat < 50000000 → exec .hostReadTimeout s = .next s)) ∧
    (∀ q r, s.remote = q :: r → s.up = true → (s.ctx q.ctx).alive = true → q.ctx ≠ mgmtCtx →
      (∀ bs pz, q.kind = .data → q.n ≤ bs.length → q.slip = none → ∃ t, exec (.remoteAck bs pz false) s = .next t ∧ t.remote = r ∧
        t.mem.read q.dst q.n = bs.take q.n ∧ SameOutside s.mem t.mem [(q.dst, q.n)] ∧ ∀ c, c ≠ q.ctx → t.ctx c = s.ctx c) ∧
      (∀ bs pz, q.kind = .written ∨ (q.kind = .added ∧ pz = false) → q.slip = none → ∃ t, exec (.remoteAck bs pz false) s = .next t ∧ t.remote = r ∧ t.mem = s.mem ∧
        (q.last = true → (∀ o ∈ s.reads ++ r, ¬ asked q o) → t.Finished q.ctx q.uid s.now)) ∧
      (∀ bs, q.kind = .added → ∃ t, exec (.remoteAck bs true false) s = .next t ∧ (t.ctx q.ctx).torn = true) ∧
      (∀ bs pz, ∃ t, exec (.remoteAck bs pz true) s = .next t ∧ (t.ctx q.ctx).torn = true) ∧
      (100000 ≤ s.now.toNat - q.issued.toNat → ∃ t, exec .remoteTimeout s = .next t ∧ (t.ctx q.ctx).torn = true) ∧
      (s.now.toNat - q.issued.toNat < 100000 → exec .remoteTimeout s = .next s)) ∧
    (∀ q r, s.remote = q :: r → s.up = true → q.ctx = mgmtCtx → ∀ bs pz refused, ∃ t, exec (.remoteAck bs pz refused) s = .next t ∧
      t.remote = r ∧ t.mgmt.running = none ∧ t.mem = s.mem)

/-! ### Attestation, link encryption, sideband, test port -/

/-- A request whose response is signed gets ResponseNotReady and starts the signature, or Busy while one is being computed; the
finished signature waits for RESPOND_IF_READY, which announces a large response (a KEY_EXCHANGE opens its session) that
CHUNK_GET hands out piece by piece; unsigned measurements are answered at once. The codes are the standard's (entry 22). -/
def Obligations.AttestationRule : Prop :=
  ∀ (s : State) (tr : Transport), s.spdmUp tr = true →
    (s.spdm.signing = none →
      let busy := fun (k : Nat) => (s.send (.spdm tr 0x7F [0x42, 19, BitVec.ofNat 8 k, 0, 2]))
      (exec (.challenge tr) s = .next { busy 0x83 with spdm := { s.spdm with signing := some (tr, 0x83), ready := none } }) ∧
      (exec (.keyExchange tr) s = .next { busy 0xE4 with spdm := { s.spdm with signing := some (tr, 0xE4), ready := none } }) ∧
      (∀ i, exec (.getMeasurements tr i true) s = .next { busy 0xE0 with spdm := { s.spdm with signing := some (tr, 0xE0), ready := none } })) ∧
    (s.spdm.signing ≠ none → exec (.challenge tr) s = .next (s.send (.spdm tr 0x7F [0x03])) ∧
      exec (.keyExchange tr) s = .next (s.send (.spdm tr 0x7F [0x03]))) ∧
    (exec (.getMeasurements tr 0 false) s = .next (s.send (.spdm tr 0x60 [7]))) ∧
    (∀ i, 1 ≤ i → i ≤ 7 → exec (.getMeasurements tr i false) s = .next (s.send (.spdm tr 0x60 (s.measurement i)))) ∧
    (∀ q, s.spdm.signing = some q → exec .slhDsaSignDone s = .next { s with spdm := { s.spdm with signing := none, ready := some q } }) ∧
    (∀ k, s.spdm.ready = some (tr, k) → exec (.respondIfReady tr) s = .next { s.send (.spdm tr 0x7F [0x0F, BitVec.ofNat 8 k]) with
      spdm := { s.spdm with ready := none, chunk := some (tr, k, 0), session := if k = 0xE4 then some tr else s.spdm.session } }) ∧
    (∀ k pos, s.spdm.chunk = some (tr, k, pos) → exec (.chunkGet tr) s = .next { s.send
      (.spdm tr 0x06 (((opaqueData s.boot.slhKey k).drop (pos * 1024)).take 1024)) with
        spdm := { s.spdm with chunk := if (pos + 1) * 1024 < 16240 then some (tr, k, pos + 1) else none } })

/-- IDE_KM in a session over DOE makes a stream Secure; when the last stream that covers the host leaves Secure while the settings
require encryption, every context with a read of host memory outstanding is torn down. A translation invalidation completes once no
read is outstanding. The sideband is silent in A4, reports PLDM sensors by their registers, and passes SPDM on only where the
settings allow it; the test port selects a register, an EXTEST only while PERST_N is asserted. -/
def Obligations.LinkSidebandTestPort : Prop :=
  (∀ s : State, s.up = true →
    (∀ n cov, s.spdm.session = some .doe → n < 5 → exec (.ideKm n cov) s = .next { s with
      link := { s.link with ide := s.link.ide.filter (fun x => x.1 != n) ++ [(n, cov)] } }) ∧
    (∀ n cov, s.spdm.session ≠ some .doe ∨ 5 ≤ n → exec (.ideKm n cov) s = .next s) ∧
    (∀ n, (s.link.ide.any fun x => x.1 == n) = true →
      let u : State := { s with link := { s.link with ide := s.link.ide.filter fun x => x.1 != n } }
      (s.boot.ideRequired = false ∨ u.ideSecure = true → exec (.ideLeaveSecure n) s = .next u) ∧
      (s.boot.ideRequired = true → u.ideSecure = false → ∃ t, exec (.ideLeaveSecure n) s = .next t ∧ t.link = u.link ∧
        ∀ q ∈ s.reads, (s.ctx q.ctx).alive = true → (t.ctx q.ctx).torn = true)) ∧
    (s.reads = [] → exec .atsInvalidation s = .next ((s.received 0).send .invalDone)) ∧
    (s.reads ≠ [] → exec .atsInvalidation s = .next s) ∧
    (∀ r, s.power.cur = 4 → exec (.sidebandRequest r) s = .next { s with tx := s.tx ++ [.sideband none] }) ∧
    (s.power.cur ≠ 4 →
      (∀ i < 5, exec (.sidebandRequest (.pldmSensor i)) s = .next { s with
        tx := s.tx ++ [.sideband (some (leBytes 4 (s.reg (0x40020 + 4 * i)).toNat))] }) ∧
      (∀ c, s.boot.spdmSideband = false → exec (.sidebandRequest (.spdm c)) s = .next { s with tx := s.tx ++ [.sideband none] }))) ∧
  ∀ s : State,
    (s.boot.perstN = true → ∀ x ∈ [JtagInstr.extest, .extestPulse, .extestTrain, .bypass],
      exec (.jtagInstruction x) s = .next { s with tx := s.tx ++ [.tdo 0], jtag := 0 }) ∧
    (exec (.jtagInstruction .idcode) s = .next { s with tx := s.tx ++ [.tdo 1], jtag := 1 }) ∧
    (exec (.jtagInstruction .sample) s = .next { s with tx := s.tx ++ [.tdo 2], jtag := 2 }) ∧
    (s.boot.perstN = false → exec (.jtagInstruction .extest) s = .next { s with tx := s.tx ++ [.tdo 3], jtag := 3 } ∧
      exec (.jtagInstruction .extestPulse) s = .next { s with tx := s.tx ++ [.tdo 4], jtag := 4 } ∧
      exec (.jtagInstruction .extestTrain) s = .next { s with tx := s.tx ++ [.tdo 5], jtag := 5 })
end

