-- ==== Sys2Proof/Laws/Cells.lean ====
section
/-! SUPPORT. Laws of the sparse arrays: reading after writing, what a write leaves alone, canonical form; and of rising sets. -/

namespace Sys2Proof.Machine

section Cells
variable {α : Type} [DecidableEq α]

theorem Cells.wfFrom_mono (d : α) : ∀ (l : List (Nat × α)) {a b : Nat}, a ≤ b → Cells.wfFrom d b l = true → Cells.wfFrom d a l = true
  | [], _, _, _, _ => rfl
  | (j, v) :: r, a, b, h, w => by
    simp only [Cells.wfFrom, Bool.and_eq_true, decide_eq_true_eq] at w ⊢
    exact ⟨⟨by omega, w.1.2⟩, w.2⟩

/-- Below the lower bound of a canonical list every key reads as the default. -/
theorem Cells.get_below (d : α) : ∀ (l : List (Nat × α)) {a k : Nat}, Cells.wfFrom d a l = true → k < a → Cells.get d k l = d
  | [], _, _, _, _ => rfl
  | (j, v) :: r, a, k, w, h => by
    simp only [Cells.wfFrom, Bool.and_eq_true, decide_eq_true_eq] at w
    have hj : j ≠ k := by omega
    simp only [Cells.get, hj, if_false]
    exact Cells.get_below d r w.2 (by omega)

theorem Cells.wfFrom_set (d : α) (k : Nat) (v : α) :
    ∀ (l : List (Nat × α)) {a : Nat}, Cells.wfFrom d a l = true → a ≤ k → Cells.wfFrom d a (Cells.set d k v l) = true
  | [], a, _, h => by
    by_cases hv : v = d <;> simp [Cells.set, Cells.wfFrom, hv, h]
  | (j, w) :: r, a, hw, h => by
    simp only [Cells.wfFrom, Bool.and_eq_true, decide_eq_true_eq] at hw
    obtain ⟨⟨h1, h2⟩, h3⟩ := hw
    unfold Cells.set
    split
    · rename_i hj
      simp only [Cells.wfFrom, Bool.and_eq_true, decide_eq_true_eq]
      exact ⟨⟨h1, h2⟩, Cells.wfFrom_set d k v r h3 (by omega)⟩
    · split
      · rename_i hj; subst hj
        split
        · exact Cells.wfFrom_mono d r (by omega) h3
        · rename_i hv; simp [Cells.wfFrom, h, hv, h3]
      · split
        · simp only [Cells.wfFrom, Bool.and_eq_true, decide_eq_true_eq]; exact ⟨⟨h1, h2⟩, h3⟩
        · rename_i h4 h5 hv
          simp only [Cells.wfFrom, Bool.and_eq_true, decide_eq_true_eq]
          exact ⟨⟨h, by simp [hv]⟩, ⟨by omega, h2⟩, h3⟩

/-- A write keeps the canonical form. -/
@[simp] theorem Cells.wf_set (d : α) (k : Nat) (v : α) (l : List (Nat × α)) (h : Cells.wf d l = true) :
    Cells.wf d (Cells.set d k v l) = true := Cells.wfFrom_set d k v l h (Nat.zero_le k)

@[simp] theorem Cells.wf_nil (d : α) : Cells.wf d ([] : List (Nat × α)) = true := rfl

/-- A write of another key leaves what a key reads as. -/
theorem Cells.get_set_ne (d : α) {k j : Nat} (v : α) (h : j ≠ k) :
    ∀ l : List (Nat × α), Cells.get d j (Cells.set d k v l) = Cells.get d j l
  | [] => by
    by_cases hv : v = d <;> simp [Cells.set, Cells.get, hv, Ne.symm h]
  | (i, w) :: r => by
    unfold Cells.set
    split
    · simp only [Cells.get]; rw [Cells.get_set_ne d v h r]
    · split
      · rename_i hi; subst hi
        split <;> simp [Cells.get, Ne.symm h]
      · split <;> simp [Cells.get, Ne.symm h]

theorem Cells.get_set_self_from (d : α) (k : Nat) (v : α) :
    ∀ (l : List (Nat × α)) {a : Nat}, Cells.wfFrom d a l = true → Cells.get d k (Cells.set d k v l) = v
  | [], _, _ => by by_cases hv : v = d <;> simp [Cells.set, Cells.get, hv]
  | (i, w) :: r, a, hw => by
    simp only [Cells.wfFrom, Bool.and_eq_true, decide_eq_true_eq] at hw
    unfold Cells.set
    split
    · rename_i hi
      have : i ≠ k := by omega
      simp only [Cells.get, this, if_false]
      exact Cells.get_set_self_from d k v r hw.2
    · split
      · rename_i hi; subst hi
        split
        · rename_i hv; rw [hv]; exact Cells.get_below d r hw.2 (by omega)
        · simp [Cells.get]
      · rename_i h1 h2
        split
        · rename_i hv
          simp only [Cells.get, h2, if_false]; rw [hv]; exact Cells.get_below d r hw.2 (by omega)
        · simp [Cells.get]

/-- A read after a write of the same key gives what was written. -/
theorem Cells.get_set_self (d : α) (k : Nat) (v : α) (l : List (Nat × α)) (h : Cells.wf d l = true) :
    Cells.get d k (Cells.set d k v l) = v := Cells.get_set_self_from d k v l h

/-- Both laws of a write at once. -/
theorem Cells.get_set (d : α) (k j : Nat) (v : α) (l : List (Nat × α)) (h : Cells.wf d l = true) :
    Cells.get d j (Cells.set d k v l) = if j = k then v else Cells.get d j l := by
  split
  · rename_i hj; subst hj; exact Cells.get_set_self d j v l h
  · rename_i hj; exact Cells.get_set_ne d v hj l

/-- A run of writes keeps the canonical form. -/
@[simp] theorem Cells.wf_setRun (d : α) : ∀ (vs : List α) (k : Nat) (l : List (Nat × α)), Cells.wf d l = true →
    Cells.wf d (Cells.setRun d k vs l) = true
  | [], _, _, h => h
  | v :: vs, k, l, h => Cells.wf_setRun d vs (k + 1) _ (Cells.wf_set d k v l h)

/-- Outside a run of writes every key reads as before. -/
theorem Cells.get_setRun_outside (d : α) : ∀ (vs : List α) (k j : Nat) (l : List (Nat × α)), j < k ∨ k + vs.length ≤ j →
    Cells.get d j (Cells.setRun d k vs l) = Cells.get d j l
  | [], _, _, _, _ => rfl
  | v :: vs, k, j, l, h => by
    simp only [List.length_cons] at h
    unfold Cells.setRun
    rw [Cells.get_setRun_outside d vs (k + 1) j _ (by omega), Cells.get_set_ne d v (by omega)]

/-- Inside a run of writes every key reads as written. -/
theorem Cells.get_setRun_inside (d : α) : ∀ (vs : List α) (k i : Nat) (l : List (Nat × α)), Cells.wf d l = true → (h : i < vs.length) →
    Cells.get d (k + i) (Cells.setRun d k vs l) = vs[i]
  | [], _, _, _, _, h => absurd h (Nat.not_lt_zero _)
  | v :: vs, k, i, l, hw, h => by
    unfold Cells.setRun
    cases i with
    | zero =>
      rw [Cells.get_setRun_outside d vs (k + 1) (k + 0) _ (by omega), Nat.add_zero, Cells.get_set_self d k v l hw]; rfl
    | succ n =>
      have e : k + (n + 1) = (k + 1) + n := by omega
      rw [e, Cells.get_setRun_inside d vs (k + 1) n _ (Cells.wf_set d k v l hw) (by simpa using h)]; rfl

end Cells

/-! ### Rising sets -/

@[simp] theorem NatSet.mem_add (k j : Nat) : ∀ l, NatSet.mem j (NatSet.add k l) = (decide (j = k) || NatSet.mem j l)
  | [] => by
    simp only [NatSet.add, NatSet.mem, List.any_cons, List.any_nil, Bool.or_false]
    by_cases h : j = k
    · subst h; simp
    · simp [h, Ne.symm h]
  | i :: r => by
    have ih := NatSet.mem_add k j r
    unfold NatSet.add
    split
    · simp only [NatSet.mem, List.any_cons] at ih ⊢
      rw [ih]
      cases (i == j) <;> cases decide (j = k) <;> simp
    · split
      · rename_i h; subst h
        by_cases h : j = i
        · subst h; simp [NatSet.mem]
        · simp [NatSet.mem, h]
      · by_cases h : j = k
        · subst h; simp [NatSet.mem]
        · simp [NatSet.mem, h, Ne.symm h]

@[simp] theorem NatSet.mem_del (k j : Nat) (l : List Nat) : NatSet.mem j (NatSet.del k l) = (!decide (j = k) && NatSet.mem j l) := by
  induction l with
  | nil => simp [NatSet.mem, NatSet.del]
  | cons i r ih =>
    simp only [NatSet.mem, NatSet.del, List.filter_cons] at ih ⊢
    by_cases h : i = k
    · subst h
      simp only [bne_self_eq_false, Bool.false_eq_true, if_false, List.any_cons, ih]
      by_cases hj : j = i
      · subst hj; simp
      · simp [hj, Ne.symm hj]
    · have : (i != k) = true := by simp [h]
      simp only [this, if_true, List.any_cons, ih]
      by_cases hj : j = k
      · subst hj; simp [h]
      · simp [hj]

/-! ### Bytes of a number -/

@[simp] theorem leBytes_length (n v : Nat) : (leBytes n v).length = n := by simp [leBytes]

theorem leNat_append (a b : List Byte) : leNat (a ++ b) = leNat a + 256 ^ a.length * leNat b := by
  induction a with
  | nil => simp [leNat]
  | cons x r ih => simp only [List.cons_append, leNat, ih, List.length_cons, Nat.pow_succ]; ring

/-- The bytes of a number give back its remainder modulo 256^n. -/
theorem leNat_leBytes (n v : Nat) : leNat (leBytes n v) = v % 256 ^ n := by
  induction n with
  | zero => simp [leBytes, leNat, Nat.mod_one]
  | succ n ih =>
    have e : leBytes (n + 1) v = leBytes n v ++ [BitVec.ofNat 8 (v / 256 ^ n)] := by simp [leBytes, List.range_succ]
    rw [e, leNat_append, ih, leBytes_length]
    simp only [leNat, BitVec.toNat_ofNat, Nat.mul_zero, Nat.add_zero]
    have h := @Nat.mod_pow_succ v 256 n
    rw [h]

end Sys2Proof.Machine
end

