-- ==== Sys2Proof/Laws/Memory.lean ====
section
/-! SUPPORT. Laws of the protected memories: what a write stores and what it leaves alone, and that every operation keeps the
canonical form. -/

namespace Sys2Proof.Machine

@[simp] theorem Mem.markUnit_cells (u a n : Nat) (pz : Bool) (m : Mem) (x : Nat) : (Mem.markUnit u a n pz m x).cells = m.cells := by
  unfold Mem.markUnit
  dsimp only
  split
  · rfl
  · split <;> rfl

theorem Mem.markUnits_cells (u a n : Nat) (pz : Bool) : ∀ (l : List Nat) (m : Mem), (l.foldl (Mem.markUnit u a n pz) m).cells = m.cells
  | [], _ => rfl
  | x :: r, m => by rw [List.foldl_cons, Mem.markUnits_cells u a n pz r, Mem.markUnit_cells]

@[simp] theorem Mem.markUnit_fill (u a n : Nat) (pz : Bool) (m : Mem) (x : Nat) : (Mem.markUnit u a n pz m x).fill = m.fill := by
  unfold Mem.markUnit
  dsimp only
  split
  · rfl
  · split <;> rfl

theorem Mem.markUnits_fill (u a n : Nat) (pz : Bool) : ∀ (l : List Nat) (m : Mem), (l.foldl (Mem.markUnit u a n pz) m).fill = m.fill
  | [], _ => rfl
  | x :: r, m => by rw [List.foldl_cons, Mem.markUnits_fill u a n pz r, Mem.markUnit_fill]

/-- A byte that is listed against what stood there reads as itself. -/
@[simp] theorem Mem.against_against (m : Mem) (a : Nat) (b : Byte) : m.against a (m.against a b) = b := by
  unfold Mem.against
  split
  · rfl
  · rw [BitVec.xor_assoc, BitVec.xor_self, BitVec.xor_zero]

@[simp] theorem Mem.coded_length (m : Mem) : ∀ (bs : List Byte) (a : Nat), (m.coded a bs).length = bs.length
  | [], _ => rfl
  | _ :: r, a => by simp [Mem.coded, Mem.coded_length m r]

theorem Mem.coded_getElem (m : Mem) : ∀ (bs : List Byte) (a i : Nat) (h : i < bs.length),
    (m.coded a bs)[i]'(by simpa using h) = m.against (a + i) bs[i]
  | [], _, _, h => absurd h (Nat.not_lt_zero _)
  | b :: r, a, 0, _ => rfl
  | b :: r, a, i + 1, h => by
    have e : a + (i + 1) = a + 1 + i := by omega
    rw [e]; exact Mem.coded_getElem m r (a + 1) i (by simpa using h)

/-- The listed bytes after a write. -/
@[simp] theorem Mem.write_cells (m : Mem) (u a : Nat) (bs : List Byte) (pz : Bool) :
    (m.write u a bs pz).cells = Cells.setRun unlisted a (m.coded a bs) m.cells := by
  simp [Mem.write, Mem.markUnits_cells]

@[simp] theorem Mem.write_fill (m : Mem) (u a : Nat) (bs : List Byte) (pz : Bool) : (m.write u a bs pz).fill = m.fill := by
  simp [Mem.write, Mem.markUnits_fill]

@[simp] theorem Mem.write_against (m : Mem) (u a : Nat) (bs : List Byte) (pz : Bool) (x : Nat) (b : Byte) :
    (m.write u a bs pz).against x b = m.against x b := by
  simp [Mem.against]

/-- A write keeps the canonical form. -/
@[simp] theorem Mem.write_wf (m : Mem) (u a : Nat) (bs : List Byte) (pz : Bool) (h : Memory.wf m = true) :
    Memory.wf (m.write u a bs pz) = true := by
  simp only [Memory.wf, Mem.write_cells] at *; exact Cells.wf_setRun unlisted _ a m.cells h

/-- A write leaves every byte outside its range. -/
theorem Mem.byte_write_outside (m : Mem) (u a x : Nat) (bs : List Byte) (pz : Bool) (h : x < a ∨ a + bs.length ≤ x) :
    (m.write u a bs pz).byte x = m.byte x := by
  simp only [Mem.byte, Mem.write_cells, Mem.write_against]
  rw [Cells.get_setRun_outside unlisted _ a x m.cells (by simpa using h)]

/-- A byte inside its range reads as written. -/
theorem Mem.byte_write_inside (m : Mem) (u a i : Nat) (bs : List Byte) (pz : Bool) (w : Memory.wf m = true) (h : i < bs.length) :
    (m.write u a bs pz).byte (a + i) = bs[i] := by
  simp only [Mem.byte, Mem.write_cells, Mem.write_against]
  rw [Cells.get_setRun_inside unlisted _ a i m.cells w (by simpa using h), Mem.coded_getElem m bs a i h, Mem.against_against]

/-- A read of the range of a write gives what was written. -/
theorem Mem.read_write (m : Mem) (u a : Nat) (bs : List Byte) (pz : Bool) (w : Memory.wf m = true) :
    (m.write u a bs pz).read a bs.length = bs := by
  apply List.ext_getElem
  · simp [Mem.read]
  · intro i h1 h2
    simp only [Mem.read, List.getElem_map, List.getElem_range]
    exact Mem.byte_write_inside m u a i bs pz w h2

theorem Mem.sameOutside_write (m : Mem) (u a : Nat) (bs : List Byte) (pz : Bool) : SameOutside m (m.write u a bs pz) [(a, bs.length)] := by
  intro x h
  apply Mem.byte_write_outside
  simp only [inRegions, List.any_cons, List.any_nil, Bool.or_false, Bool.and_eq_false_iff, decide_eq_false_iff_not] at h
  omega

theorem SameOutside.refl (m : Mem) (rs : List (Nat × Nat)) : SameOutside m m rs := fun _ _ => rfl

theorem SameOutside.trans {a b c : Mem} {rs qs : List (Nat × Nat)} (h : SameOutside a b rs) (k : SameOutside b c qs) :
    SameOutside a c (rs ++ qs) := by
  intro x hx
  simp only [inRegions, List.any_append, Bool.or_eq_false_iff] at hx
  rw [k x hx.2, h x hx.1]

theorem SameOutside.mono {a b : Mem} {rs qs : List (Nat × Nat)} (h : SameOutside a b rs) (k : ∀ r ∈ rs, r ∈ qs) : SameOutside a b qs := by
  intro x hx
  apply h
  simp only [inRegions, List.any_eq_false] at hx ⊢
  exact fun r hr => hx r (k r hr)

/-- Undefined contents keep the canonical form. -/
@[simp] theorem Mem.havoc_wf (m : Mem) (u a n d : Nat) (h : Memory.wf m = true) : Memory.wf (m.havoc u a n d) = true := Mem.write_wf _ _ _ _ _ h

/-- They stay within their range. -/
theorem Mem.sameOutside_havoc (m : Mem) (u a n d : Nat) : SameOutside m (m.havoc u a n d) [(a, n)] := by
  have h := Mem.sameOutside_write m u a ((List.range n).map fun i => Config.freeByte d (a + i)) false
  simpa [Mem.havoc] using h

theorem Cells.wf_foldl_set {α β : Type} [DecidableEq α] (d : α) (f : β → Nat) (g : β → α) : ∀ (l : List β) (acc : List (Nat × α)),
    Cells.wf d acc = true → Cells.wf d (l.foldl (fun a e => Cells.set d (f e) (g e) a) acc) = true
  | [], _, h => h
  | e :: r, acc, h => Cells.wf_foldl_set d f g r _ (Cells.wf_set d (f e) (g e) acc h)

/-- A memory that lost its contents is in canonical form. -/
@[simp] theorem Mem.lost_wf (d : Nat) : Memory.wf (Mem.lost d) = true := rfl

/-! ### Copies of ranges -/

section Cells
variable {α : Type} [DecidableEq α]

theorem Cells.wfFrom_filter (d : α) (p : Nat × α → Bool) : ∀ (l : List (Nat × α)) {a : Nat}, Cells.wfFrom d a l = true →
    Cells.wfFrom d a (l.filter p) = true
  | [], _, _ => rfl
  | (j, v) :: r, a, h => by
    simp only [Cells.wfFrom, Bool.and_eq_true, decide_eq_true_eq] at h
    rw [List.filter_cons]
    split
    · simp only [Cells.wfFrom, Bool.and_eq_true, decide_eq_true_eq]; exact ⟨h.1, Cells.wfFrom_filter d p r h.2⟩
    · exact Cells.wfFrom_filter d p r (Cells.wfFrom_mono d r (by omega) h.2)

theorem Cells.wfFrom_append (d : α) : ∀ (l r : List (Nat × α)) {a b : Nat}, Cells.wfFrom d a l = true → a ≤ b → (∀ e ∈ l, e.1 < b) →
    Cells.wfFrom d b r = true → Cells.wfFrom d a (l ++ r) = true
  | [], r, a, b, _, h, _, w => Cells.wfFrom_mono d r h w
  | (j, v) :: l, r, a, b, hl, _, hb, w => by
    simp only [Cells.wfFrom, Bool.and_eq_true, decide_eq_true_eq] at hl
    simp only [List.cons_append, Cells.wfFrom, Bool.and_eq_true, decide_eq_true_eq]
    have hj : j < b := hb (j, v) (by simp)
    exact ⟨hl.1, Cells.wfFrom_append d l r hl.2 (by omega) (fun e he => hb e (by simp [he])) w⟩

theorem Cells.wfFrom_raise (d : α) : ∀ (l : List (Nat × α)) {a b : Nat}, Cells.wfFrom d a l = true → (∀ e ∈ l, b ≤ e.1) →
    Cells.wfFrom d b l = true
  | [], _, _, _, _ => rfl
  | (j, v) :: r, a, b, h, hb => by
    simp only [Cells.wfFrom, Bool.and_eq_true, decide_eq_true_eq] at h ⊢
    exact ⟨⟨hb (j, v) (by simp), h.1.2⟩, h.2⟩

theorem Cells.wfFrom_shift (d : α) (p q : Nat) : ∀ (l : List (Nat × α)) {a : Nat}, Cells.wfFrom d a l = true → p ≤ a →
    Cells.wfFrom d (a - p + q) (l.map fun e => (e.1 - p + q, e.2)) = true
  | [], _, _, _ => rfl
  | (j, v) :: r, a, h, hp => by
    simp only [Cells.wfFrom, Bool.and_eq_true, decide_eq_true_eq] at h
    simp only [List.map_cons, Cells.wfFrom, Bool.and_eq_true, decide_eq_true_eq]
    refine ⟨⟨by omega, h.1.2⟩, ?_⟩
    have e : j - p + q + 1 = (j + 1) - p + q := by omega
    rw [e]; exact Cells.wfFrom_shift d p q r h.2 (by omega)

end Cells

theorem splice_wf (dst src : List (Nat × Byte)) (a b n : Nat) (hd : Cells.wf unlisted dst = true) (hs : Cells.wf unlisted src = true) :
    Cells.wf unlisted (splice 1 a b n dst src) = true := by
  simp only [Cells.wf, splice, Nat.div_one] at *
  have hmid := Cells.wfFrom_raise unlisted (b := b) _ (Cells.wfFrom_filter unlisted (fun e => decide (b ≤ e.1) && decide (e.1 < b + n)) _ hs)
    (by intro e he; simp only [List.mem_filter, Bool.and_eq_true, decide_eq_true_eq] at he; exact he.2.1)
  have hsh := Cells.wfFrom_shift unlisted b a _ hmid (Nat.le_refl b)
  rw [Nat.sub_self, Nat.zero_add] at hsh
  have htail := Cells.wfFrom_raise unlisted (b := a + n) _ (Cells.wfFrom_filter unlisted (fun e => decide (a + n ≤ e.1)) _ hd)
    (by intro e he; simp only [List.mem_filter, decide_eq_true_eq] at he; exact he.2)
  rw [List.append_assoc]
  refine Cells.wfFrom_append unlisted _ _ (Cells.wfFrom_filter unlisted _ _ hd) (Nat.zero_le a)
    (by intro e he; simp only [List.mem_filter, decide_eq_true_eq] at he; exact he.2) ?_
  refine Cells.wfFrom_append unlisted _ _ hsh (Nat.le_add_right a n) ?_ htail
  intro e he
  simp only [List.mem_map, List.mem_filter, Bool.and_eq_true, decide_eq_true_eq] at he
  obtain ⟨f, ⟨_, h1, h2⟩, rfl⟩ := he
  dsimp only; omega

/-- A copied range keeps the canonical form. -/
@[simp] theorem Mem.graft_wf (dst src : Mem) (u a b n : Nat) (hd : Memory.wf dst = true) (hs : Memory.wf src = true) :
    Memory.wf (dst.graft src u a b n) = true := by
  simp only [Memory.wf, Mem.graft] at *
  split
  · exact splice_wf _ _ a b n hd hs
  · exact Cells.wf_setRun unlisted _ a _ hd

end Sys2Proof.Machine
end

