-- ==== Sys2Proof/Laws/State.lean ====
section
/-! SUPPORT. What each elementary update of the state leaves in each field. -/

namespace Sys2Proof.Machine

@[simp] theorem State.setCtx_pending (s : State) (c : Nat) (x : Ctx) : (s.setCtx c x).pending = s.pending := rfl
@[simp] theorem State.setCtx_now (s : State) (c : Nat) (x : Ctx) : (s.setCtx c x).now = s.now := rfl
@[simp] theorem State.setCtx_tbValid (s : State) (c : Nat) (x : Ctx) : (s.setCtx c x).tbValid = s.tbValid := rfl
@[simp] theorem State.setCtx_free (s : State) (c : Nat) (x : Ctx) : (s.setCtx c x).free = s.free := rfl
@[simp] theorem State.setCtx_tx (s : State) (c : Nat) (x : Ctx) : (s.setCtx c x).tx = s.tx := rfl
@[simp] theorem State.setCtx_txFrom (s : State) (c : Nat) (x : Ctx) : (s.setCtx c x).txFrom = s.txFrom := rfl
@[simp] theorem State.setCtx_cbLo (s : State) (c : Nat) (x : Ctx) : (s.setCtx c x).cbLo = s.cbLo := rfl
@[simp] theorem State.setCtx_cbHi (s : State) (c : Nat) (x : Ctx) : (s.setCtx c x).cbHi = s.cbHi := rfl
@[simp] theorem State.setCtx_opBusy (s : State) (c : Nat) (x : Ctx) : (s.setCtx c x).opBusy = s.opBusy := rfl
@[simp] theorem State.setCtx_opCtx (s : State) (c : Nat) (x : Ctx) : (s.setCtx c x).opCtx = s.opCtx := rfl
@[simp] theorem State.setCtx_opResult (s : State) (c : Nat) (x : Ctx) : (s.setCtx c x).opResult = s.opResult := rfl
@[simp] theorem State.setCtx_opHeld (s : State) (c : Nat) (x : Ctx) : (s.setCtx c x).opHeld = s.opHeld := rfl
@[simp] theorem State.setCtx_opCb (s : State) (c : Nat) (x : Ctx) : (s.setCtx c x).opCb = s.opCb := rfl
@[simp] theorem State.setCtx_mgmtLo (s : State) (c : Nat) (x : Ctx) : (s.setCtx c x).mgmtLo = s.mgmtLo := rfl
@[simp] theorem State.setCtx_mgmtHi (s : State) (c : Nat) (x : Ctx) : (s.setCtx c x).mgmtHi = s.mgmtHi := rfl
@[simp] theorem State.setCtx_mgmtCtrl (s : State) (c : Nat) (x : Ctx) : (s.setCtx c x).mgmtCtrl = s.mgmtCtrl := rfl
@[simp] theorem State.setCtx_hostToken (s : State) (c : Nat) (x : Ctx) : (s.setCtx c x).hostToken = s.hostToken := rfl
@[simp] theorem State.setCtx_msix (s : State) (c : Nat) (x : Ctx) : (s.setCtx c x).msix = s.msix := rfl
@[simp] theorem State.setCtx_pba (s : State) (c : Nat) (x : Ctx) : (s.setCtx c x).pba = s.pba := rfl
@[simp] theorem State.setCtx_applyTime (s : State) (c : Nat) (x : Ctx) : (s.setCtx c x).applyTime = s.applyTime := rfl
@[simp] theorem State.setCtx_hiApply (s : State) (c : Nat) (x : Ctx) : (s.setCtx c x).hiApply = s.hiApply := rfl
@[simp] theorem State.setCtx_hiTel (s : State) (c : Nat) (x : Ctx) : (s.setCtx c x).hiTel = s.hiTel := rfl
@[simp] theorem State.setCtx_cfgClean (s : State) (c : Nat) (x : Ctx) : (s.setCtx c x).cfgClean = s.cfgClean := rfl
@[simp] theorem State.setCtx_cfgConflicts (s : State) (c : Nat) (x : Ctx) : (s.setCtx c x).cfgConflicts = s.cfgConflicts := rfl
@[simp] theorem State.setCtx_inBase (s : State) (c : Nat) (x : Ctx) : (s.setCtx c x).inBase = s.inBase := rfl
@[simp] theorem State.setCtx_inLimit (s : State) (c : Nat) (x : Ctx) : (s.setCtx c x).inLimit = s.inLimit := rfl
@[simp] theorem State.setCtx_inPeers (s : State) (c : Nat) (x : Ctx) : (s.setCtx c x).inPeers = s.inPeers := rfl
@[simp] theorem State.setCtx_inRefused (s : State) (c : Nat) (x : Ctx) : (s.setCtx c x).inRefused = s.inRefused := rfl
@[simp] theorem State.setCtx_boardStatus (s : State) (c : Nat) (x : Ctx) : (s.setCtx c x).boardStatus = s.boardStatus := rfl
@[simp] theorem State.setCtx_synced (s : State) (c : Nat) (x : Ctx) : (s.setCtx c x).synced = s.synced := rfl
@[simp] theorem State.setCtx_staged (s : State) (c : Nat) (x : Ctx) : (s.setCtx c x).staged = s.staged := rfl
@[simp] theorem State.setCtx_cfg (s : State) (c : Nat) (x : Ctx) : (s.setCtx c x).cfg = s.cfg := rfl
@[simp] theorem State.setCtx_shadow (s : State) (c : Nat) (x : Ctx) : (s.setCtx c x).shadow = s.shadow := rfl
@[simp] theorem State.setCtx_snap (s : State) (c : Nat) (x : Ctx) : (s.setCtx c x).snap = s.snap := rfl
@[simp] theorem State.setCtx_mem (s : State) (c : Nat) (x : Ctx) : (s.setCtx c x).mem = s.mem := rfl
@[simp] theorem State.setCtx_dieBuf (s : State) (c : Nat) (x : Ctx) : (s.setCtx c x).dieBuf = s.dieBuf := rfl
@[simp] theorem State.setCtx_hubMem (s : State) (c : Nat) (x : Ctx) : (s.setCtx c x).hubMem = s.hubMem := rfl
@[simp] theorem State.setCtx_cores (s : State) (c : Nat) (x : Ctx) : (s.setCtx c x).cores = s.cores := rfl
@[simp] theorem State.setCtx_tables (s : State) (c : Nat) (x : Ctx) : (s.setCtx c x).tables = s.tables := rfl
@[simp] theorem State.setCtx_ctxs (s : State) (c : Nat) (x : Ctx) : (s.setCtx c x).ctxs = s.ctxs.set c x := rfl
@[simp] theorem State.setCtx_mgmt (s : State) (c : Nat) (x : Ctx) : (s.setCtx c x).mgmt = s.mgmt := rfl
@[simp] theorem State.setCtx_arb (s : State) (c : Nat) (x : Ctx) : (s.setCtx c x).arb = s.arb := rfl
@[simp] theorem State.setCtx_sessions (s : State) (c : Nat) (x : Ctx) : (s.setCtx c x).sessions = s.sessions := rfl
@[simp] theorem State.setCtx_engines (s : State) (c : Nat) (x : Ctx) : (s.setCtx c x).engines = s.engines := rfl
@[simp] theorem State.setCtx_power (s : State) (c : Nat) (x : Ctx) : (s.setCtx c x).power = s.power := rfl
@[simp] theorem State.setCtx_dies (s : State) (c : Nat) (x : Ctx) : (s.setCtx c x).dies = s.dies := rfl
@[simp] theorem State.setCtx_ports (s : State) (c : Nat) (x : Ctx) : (s.setCtx c x).ports = s.ports := rfl
@[simp] theorem State.setCtx_routes (s : State) (c : Nat) (x : Ctx) : (s.setCtx c x).routes = s.routes := rfl
@[simp] theorem State.setCtx_reads (s : State) (c : Nat) (x : Ctx) : (s.setCtx c x).reads = s.reads := rfl
@[simp] theorem State.setCtx_remote (s : State) (c : Nat) (x : Ctx) : (s.setCtx c x).remote = s.remote := rfl
@[simp] theorem State.setCtx_writes (s : State) (c : Nat) (x : Ctx) : (s.setCtx c x).writes = s.writes := rfl
@[simp] theorem State.setCtx_link (s : State) (c : Nat) (x : Ctx) : (s.setCtx c x).link = s.link := rfl
@[simp] theorem State.setCtx_spdm (s : State) (c : Nat) (x : Ctx) : (s.setCtx c x).spdm = s.spdm := rfl
@[simp] theorem State.setCtx_boot (s : State) (c : Nat) (x : Ctx) : (s.setCtx c x).boot = s.boot := rfl
@[simp] theorem State.setCtx_dbg (s : State) (c : Nat) (x : Ctx) : (s.setCtx c x).dbg = s.dbg := rfl
@[simp] theorem State.setCtx_jtag (s : State) (c : Nat) (x : Ctx) : (s.setCtx c x).jtag = s.jtag := rfl
@[simp] theorem State.setCtx_counters (s : State) (c : Nat) (x : Ctx) : (s.setCtx c x).counters = s.counters := rfl

@[simp] theorem State.setCore_pending (s : State) (k : Nat) (x : Core) : (s.setCore k x).pending = s.pending := rfl
@[simp] theorem State.setCore_now (s : State) (k : Nat) (x : Core) : (s.setCore k x).now = s.now := rfl
@[simp] theorem State.setCore_tbValid (s : State) (k : Nat) (x : Core) : (s.setCore k x).tbValid = s.tbValid := rfl
@[simp] theorem State.setCore_free (s : State) (k : Nat) (x : Core) : (s.setCore k x).free = s.free := rfl
@[simp] theorem State.setCore_tx (s : State) (k : Nat) (x : Core) : (s.setCore k x).tx = s.tx := rfl
@[simp] theorem State.setCore_txFrom (s : State) (k : Nat) (x : Core) : (s.setCore k x).txFrom = s.txFrom := rfl
@[simp] theorem State.setCore_cbLo (s : State) (k : Nat) (x : Core) : (s.setCore k x).cbLo = s.cbLo := rfl
@[simp] theorem State.setCore_cbHi (s : State) (k : Nat) (x : Core) : (s.setCore k x).cbHi = s.cbHi := rfl
@[simp] theorem State.setCore_opBusy (s : State) (k : Nat) (x : Core) : (s.setCore k x).opBusy = s.opBusy := rfl
@[simp] theorem State.setCore_opCtx (s : State) (k : Nat) (x : Core) : (s.setCore k x).opCtx = s.opCtx := rfl
@[simp] theorem State.setCore_opResult (s : State) (k : Nat) (x : Core) : (s.setCore k x).opResult = s.opResult := rfl
@[simp] theorem State.setCore_opHeld (s : State) (k : Nat) (x : Core) : (s.setCore k x).opHeld = s.opHeld := rfl
@[simp] theorem State.setCore_opCb (s : State) (k : Nat) (x : Core) : (s.setCore k x).opCb = s.opCb := rfl
@[simp] theorem State.setCore_mgmtLo (s : State) (k : Nat) (x : Core) : (s.setCore k x).mgmtLo = s.mgmtLo := rfl
@[simp] theorem State.setCore_mgmtHi (s : State) (k : Nat) (x : Core) : (s.setCore k x).mgmtHi = s.mgmtHi := rfl
@[simp] theorem State.setCore_mgmtCtrl (s : State) (k : Nat) (x : Core) : (s.setCore k x).mgmtCtrl = s.mgmtCtrl := rfl
@[simp] theorem State.setCore_hostToken (s : State) (k : Nat) (x : Core) : (s.setCore k x).hostToken = s.hostToken := rfl
@[simp] theorem State.setCore_msix (s : State) (k : Nat) (x : Core) : (s.setCore k x).msix = s.msix := rfl
@[simp] theorem State.setCore_pba (s : State) (k : Nat) (x : Core) : (s.setCore k x).pba = s.pba := rfl
@[simp] theorem State.setCore_applyTime (s : State) (k : Nat) (x : Core) : (s.setCore k x).applyTime = s.applyTime := rfl
@[simp] theorem State.setCore_hiApply (s : State) (k : Nat) (x : Core) : (s.setCore k x).hiApply = s.hiApply := rfl
@[simp] theorem State.setCore_hiTel (s : State) (k : Nat) (x : Core) : (s.setCore k x).hiTel = s.hiTel := rfl
@[simp] theorem State.setCore_cfgClean (s : State) (k : Nat) (x : Core) : (s.setCore k x).cfgClean = s.cfgClean := rfl
@[simp] theorem State.setCore_cfgConflicts (s : State) (k : Nat) (x : Core) : (s.setCore k x).cfgConflicts = s.cfgConflicts := rfl
@[simp] theorem State.setCore_inBase (s : State) (k : Nat) (x : Core) : (s.setCore k x).inBase = s.inBase := rfl
@[simp] theorem State.setCore_inLimit (s : State) (k : Nat) (x : Core) : (s.setCore k x).inLimit = s.inLimit := rfl
@[simp] theorem State.setCore_inPeers (s : State) (k : Nat) (x : Core) : (s.setCore k x).inPeers = s.inPeers := rfl
@[simp] theorem State.setCore_inRefused (s : State) (k : Nat) (x : Core) : (s.setCore k x).inRefused = s.inRefused := rfl
@[simp] theorem State.setCore_boardStatus (s : State) (k : Nat) (x : Core) : (s.setCore k x).boardStatus = s.boardStatus := rfl
@[simp] theorem State.setCore_synced (s : State) (k : Nat) (x : Core) : (s.setCore k x).synced = s.synced := rfl
@[simp] theorem State.setCore_staged (s : State) (k : Nat) (x : Core) : (s.setCore k x).staged = s.staged := rfl
@[simp] theorem State.setCore_cfg (s : State) (k : Nat) (x : Core) : (s.setCore k x).cfg = s.cfg := rfl
@[simp] theorem State.setCore_shadow (s : State) (k : Nat) (x : Core) : (s.setCore k x).shadow = s.shadow := rfl
@[simp] theorem State.setCore_snap (s : State) (k : Nat) (x : Core) : (s.setCore k x).snap = s.snap := rfl
@[simp] theorem State.setCore_mem (s : State) (k : Nat) (x : Core) : (s.setCore k x).mem = s.mem := rfl
@[simp] theorem State.setCore_dieBuf (s : State) (k : Nat) (x : Core) : (s.setCore k x).dieBuf = s.dieBuf := rfl
@[simp] theorem State.setCore_hubMem (s : State) (k : Nat) (x : Core) : (s.setCore k x).hubMem = s.hubMem := rfl
@[simp] theorem State.setCore_cores (s : State) (k : Nat) (x : Core) : (s.setCore k x).cores = s.cores.set k x := rfl
@[simp] theorem State.setCore_tables (s : State) (k : Nat) (x : Core) : (s.setCore k x).tables = s.tables := rfl
@[simp] theorem State.setCore_ctxs (s : State) (k : Nat) (x : Core) : (s.setCore k x).ctxs = s.ctxs := rfl
@[simp] theorem State.setCore_mgmt (s : State) (k : Nat) (x : Core) : (s.setCore k x).mgmt = s.mgmt := rfl
@[simp] theorem State.setCore_arb (s : State) (k : Nat) (x : Core) : (s.setCore k x).arb = s.arb := rfl
@[simp] theorem State.setCore_sessions (s : State) (k : Nat) (x : Core) : (s.setCore k x).sessions = s.sessions := rfl
@[simp] theorem State.setCore_engines (s : State) (k : Nat) (x : Core) : (s.setCore k x).engines = s.engines := rfl
@[simp] theorem State.setCore_power (s : State) (k : Nat) (x : Core) : (s.setCore k x).power = s.power := rfl
@[simp] theorem State.setCore_dies (s : State) (k : Nat) (x : Core) : (s.setCore k x).dies = s.dies := rfl
@[simp] theorem State.setCore_ports (s : State) (k : Nat) (x : Core) : (s.setCore k x).ports = s.ports := rfl
@[simp] theorem State.setCore_routes (s : State) (k : Nat) (x : Core) : (s.setCore k x).routes = s.routes := rfl
@[simp] theorem State.setCore_reads (s : State) (k : Nat) (x : Core) : (s.setCore k x).reads = s.reads := rfl
@[simp] theorem State.setCore_remote (s : State) (k : Nat) (x : Core) : (s.setCore k x).remote = s.remote := rfl
@[simp] theorem State.setCore_writes (s : State) (k : Nat) (x : Core) : (s.setCore k x).writes = s.writes := rfl
@[simp] theorem State.setCore_link (s : State) (k : Nat) (x : Core) : (s.setCore k x).link = s.link := rfl
@[simp] theorem State.setCore_spdm (s : State) (k : Nat) (x : Core) : (s.setCore k x).spdm = s.spdm := rfl
@[simp] theorem State.setCore_boot (s : State) (k : Nat) (x : Core) : (s.setCore k x).boot = s.boot := rfl
@[simp] theorem State.setCore_dbg (s : State) (k : Nat) (x : Core) : (s.setCore k x).dbg = s.dbg := rfl
@[simp] theorem State.setCore_jtag (s : State) (k : Nat) (x : Core) : (s.setCore k x).jtag = s.jtag := rfl
@[simp] theorem State.setCore_counters (s : State) (k : Nat) (x : Core) : (s.setCore k x).counters = s.counters := rfl

@[simp] theorem State.setDie_pending (s : State) (d : Nat) (x : Die) : (s.setDie d x).pending = s.pending := rfl
@[simp] theorem State.setDie_now (s : State) (d : Nat) (x : Die) : (s.setDie d x).now = s.now := rfl
@[simp] theorem State.setDie_tbValid (s : State) (d : Nat) (x : Die) : (s.setDie d x).tbValid = s.tbValid := rfl
@[simp] theorem State.setDie_free (s : State) (d : Nat) (x : Die) : (s.setDie d x).free = s.free := rfl
@[simp] theorem State.setDie_tx (s : State) (d : Nat) (x : Die) : (s.setDie d x).tx = s.tx := rfl
@[simp] theorem State.setDie_txFrom (s : State) (d : Nat) (x : Die) : (s.setDie d x).txFrom = s.txFrom := rfl
@[simp] theorem State.setDie_cbLo (s : State) (d : Nat) (x : Die) : (s.setDie d x).cbLo = s.cbLo := rfl
@[simp] theorem State.setDie_cbHi (s : State) (d : Nat) (x : Die) : (s.setDie d x).cbHi = s.cbHi := rfl
@[simp] theorem State.setDie_opBusy (s : State) (d : Nat) (x : Die) : (s.setDie d x).opBusy = s.opBusy := rfl
@[simp] theorem State.setDie_opCtx (s : State) (d : Nat) (x : Die) : (s.setDie d x).opCtx = s.opCtx := rfl
@[simp] theorem State.setDie_opResult (s : State) (d : Nat) (x : Die) : (s.setDie d x).opResult = s.opResult := rfl
@[simp] theorem State.setDie_opHeld (s : State) (d : Nat) (x : Die) : (s.setDie d x).opHeld = s.opHeld := rfl
@[simp] theorem State.setDie_opCb (s : State) (d : Nat) (x : Die) : (s.setDie d x).opCb = s.opCb := rfl
@[simp] theorem State.setDie_mgmtLo (s : State) (d : Nat) (x : Die) : (s.setDie d x).mgmtLo = s.mgmtLo := rfl
@[simp] theorem State.setDie_mgmtHi (s : State) (d : Nat) (x : Die) : (s.setDie d x).mgmtHi = s.mgmtHi := rfl
@[simp] theorem State.setDie_mgmtCtrl (s : State) (d : Nat) (x : Die) : (s.setDie d x).mgmtCtrl = s.mgmtCtrl := rfl
@[simp] theorem State.setDie_hostToken (s : State) (d : Nat) (x : Die) : (s.setDie d x).hostToken = s.hostToken := rfl
@[simp] theorem State.setDie_msix (s : State) (d : Nat) (x : Die) : (s.setDie d x).msix = s.msix := rfl
@[simp] theorem State.setDie_pba (s : State) (d : Nat) (x : Die) : (s.setDie d x).pba = s.pba := rfl
@[simp] theorem State.setDie_applyTime (s : State) (d : Nat) (x : Die) : (s.setDie d x).applyTime = s.applyTime := rfl
@[simp] theorem State.setDie_hiApply (s : State) (d : Nat) (x : Die) : (s.setDie d x).hiApply = s.hiApply := rfl
@[simp] theorem State.setDie_hiTel (s : State) (d : Nat) (x : Die) : (s.setDie d x).hiTel = s.hiTel := rfl
@[simp] theorem State.setDie_cfgClean (s : State) (d : Nat) (x : Die) : (s.setDie d x).cfgClean = s.cfgClean := rfl
@[simp] theorem State.setDie_cfgConflicts (s : State) (d : Nat) (x : Die) : (s.setDie d x).cfgConflicts = s.cfgConflicts := rfl
@[simp] theorem State.setDie_inBase (s : State) (d : Nat) (x : Die) : (s.setDie d x).inBase = s.inBase := rfl
@[simp] theorem State.setDie_inLimit (s : State) (d : Nat) (x : Die) : (s.setDie d x).inLimit = s.inLimit := rfl
@[simp] theorem State.setDie_inPeers (s : State) (d : Nat) (x : Die) : (s.setDie d x).inPeers = s.inPeers := rfl
@[simp] theorem State.setDie_inRefused (s : State) (d : Nat) (x : Die) : (s.setDie d x).inRefused = s.inRefused := rfl
@[simp] theorem State.setDie_boardStatus (s : State) (d : Nat) (x : Die) : (s.setDie d x).boardStatus = s.boardStatus := rfl
@[simp] theorem State.setDie_synced (s : State) (d : Nat) (x : Die) : (s.setDie d x).synced = s.synced := rfl
@[simp] theorem State.setDie_staged (s : State) (d : Nat) (x : Die) : (s.setDie d x).staged = s.staged := rfl
@[simp] theorem State.setDie_cfg (s : State) (d : Nat) (x : Die) : (s.setDie d x).cfg = s.cfg := rfl
@[simp] theorem State.setDie_shadow (s : State) (d : Nat) (x : Die) : (s.setDie d x).shadow = s.shadow := rfl
@[simp] theorem State.setDie_snap (s : State) (d : Nat) (x : Die) : (s.setDie d x).snap = s.snap := rfl
@[simp] theorem State.setDie_mem (s : State) (d : Nat) (x : Die) : (s.setDie d x).mem = s.mem := rfl
@[simp] theorem State.setDie_dieBuf (s : State) (d : Nat) (x : Die) : (s.setDie d x).dieBuf = s.dieBuf := rfl
@[simp] theorem State.setDie_hubMem (s : State) (d : Nat) (x : Die) : (s.setDie d x).hubMem = s.hubMem := rfl
@[simp] theorem State.setDie_cores (s : State) (d : Nat) (x : Die) : (s.setDie d x).cores = s.cores := rfl
@[simp] theorem State.setDie_tables (s : State) (d : Nat) (x : Die) : (s.setDie d x).tables = s.tables := rfl
@[simp] theorem State.setDie_ctxs (s : State) (d : Nat) (x : Die) : (s.setDie d x).ctxs = s.ctxs := rfl
@[simp] theorem State.setDie_mgmt (s : State) (d : Nat) (x : Die) : (s.setDie d x).mgmt = s.mgmt := rfl
@[simp] theorem State.setDie_arb (s : State) (d : Nat) (x : Die) : (s.setDie d x).arb = s.arb := rfl
@[simp] theorem State.setDie_sessions (s : State) (d : Nat) (x : Die) : (s.setDie d x).sessions = s.sessions := rfl
@[simp] theorem State.setDie_engines (s : State) (d : Nat) (x : Die) : (s.setDie d x).engines = s.engines := rfl
@[simp] theorem State.setDie_power (s : State) (d : Nat) (x : Die) : (s.setDie d x).power = s.power := rfl
@[simp] theorem State.setDie_dies (s : State) (d : Nat) (x : Die) : (s.setDie d x).dies = s.dies.set d x := rfl
@[simp] theorem State.setDie_ports (s : State) (d : Nat) (x : Die) : (s.setDie d x).ports = s.ports := rfl
@[simp] theorem State.setDie_routes (s : State) (d : Nat) (x : Die) : (s.setDie d x).routes = s.routes := rfl
@[simp] theorem State.setDie_reads (s : State) (d : Nat) (x : Die) : (s.setDie d x).reads = s.reads := rfl
@[simp] theorem State.setDie_remote (s : State) (d : Nat) (x : Die) : (s.setDie d x).remote = s.remote := rfl
@[simp] theorem State.setDie_writes (s : State) (d : Nat) (x : Die) : (s.setDie d x).writes = s.writes := rfl
@[simp] theorem State.setDie_link (s : State) (d : Nat) (x : Die) : (s.setDie d x).link = s.link := rfl
@[simp] theorem State.setDie_spdm (s : State) (d : Nat) (x : Die) : (s.setDie d x).spdm = s.spdm := rfl
@[simp] theorem State.setDie_boot (s : State) (d : Nat) (x : Die) : (s.setDie d x).boot = s.boot := rfl
@[simp] theorem State.setDie_dbg (s : State) (d : Nat) (x : Die) : (s.setDie d x).dbg = s.dbg := rfl
@[simp] theorem State.setDie_jtag (s : State) (d : Nat) (x : Die) : (s.setDie d x).jtag = s.jtag := rfl
@[simp] theorem State.setDie_counters (s : State) (d : Nat) (x : Die) : (s.setDie d x).counters = s.counters := rfl

@[simp] theorem State.send_pending (s : State) (p : Tx) : (s.send p).pending = s.pending := rfl
@[simp] theorem State.send_now (s : State) (p : Tx) : (s.send p).now = s.now := rfl
@[simp] theorem State.send_tbValid (s : State) (p : Tx) : (s.send p).tbValid = s.tbValid := rfl
@[simp] theorem State.send_free (s : State) (p : Tx) : (s.send p).free = s.free := rfl
@[simp] theorem State.send_tx (s : State) (p : Tx) : (s.send p).tx = s.tx ++ [p] := rfl
@[simp] theorem State.send_txFrom (s : State) (p : Tx) : (s.send p).txFrom = s.txFrom := rfl
@[simp] theorem State.send_cbLo (s : State) (p : Tx) : (s.send p).cbLo = s.cbLo := rfl
@[simp] theorem State.send_cbHi (s : State) (p : Tx) : (s.send p).cbHi = s.cbHi := rfl
@[simp] theorem State.send_opBusy (s : State) (p : Tx) : (s.send p).opBusy = s.opBusy := rfl
@[simp] theorem State.send_opCtx (s : State) (p : Tx) : (s.send p).opCtx = s.opCtx := rfl
@[simp] theorem State.send_opResult (s : State) (p : Tx) : (s.send p).opResult = s.opResult := rfl
@[simp] theorem State.send_opHeld (s : State) (p : Tx) : (s.send p).opHeld = s.opHeld := rfl
@[simp] theorem State.send_opCb (s : State) (p : Tx) : (s.send p).opCb = s.opCb := rfl
@[simp] theorem State.send_mgmtLo (s : State) (p : Tx) : (s.send p).mgmtLo = s.mgmtLo := rfl
@[simp] theorem State.send_mgmtHi (s : State) (p : Tx) : (s.send p).mgmtHi = s.mgmtHi := rfl
@[simp] theorem State.send_mgmtCtrl (s : State) (p : Tx) : (s.send p).mgmtCtrl = s.mgmtCtrl := rfl
@[simp] theorem State.send_hostToken (s : State) (p : Tx) : (s.send p).hostToken = s.hostToken := rfl
@[simp] theorem State.send_msix (s : State) (p : Tx) : (s.send p).msix = s.msix := rfl
@[simp] theorem State.send_pba (s : State) (p : Tx) : (s.send p).pba = s.pba := rfl
@[simp] theorem State.send_applyTime (s : State) (p : Tx) : (s.send p).applyTime = s.applyTime := rfl
@[simp] theorem State.send_hiApply (s : State) (p : Tx) : (s.send p).hiApply = s.hiApply := rfl
@[simp] theorem State.send_hiTel (s : State) (p : Tx) : (s.send p).hiTel = s.hiTel := rfl
@[simp] theorem State.send_cfgClean (s : State) (p : Tx) : (s.send p).cfgClean = s.cfgClean := rfl
@[simp] theorem State.send_cfgConflicts (s : State) (p : Tx) : (s.send p).cfgConflicts = s.cfgConflicts := rfl
@[simp] theorem State.send_inBase (s : State) (p : Tx) : (s.send p).inBase = s.inBase := rfl
@[simp] theorem State.send_inLimit (s : State) (p : Tx) : (s.send p).inLimit = s.inLimit := rfl
@[simp] theorem State.send_inPeers (s : State) (p : Tx) : (s.send p).inPeers = s.inPeers := rfl
@[simp] theorem State.send_inRefused (s : State) (p : Tx) : (s.send p).inRefused = s.inRefused := rfl
@[simp] theorem State.send_boardStatus (s : State) (p : Tx) : (s.send p).boardStatus = s.boardStatus := rfl
@[simp] theorem State.send_synced (s : State) (p : Tx) : (s.send p).synced = s.synced := rfl
@[simp] theorem State.send_staged (s : State) (p : Tx) : (s.send p).staged = s.staged := rfl
@[simp] theorem State.send_cfg (s : State) (p : Tx) : (s.send p).cfg = s.cfg := rfl
@[simp] theorem State.send_shadow (s : State) (p : Tx) : (s.send p).shadow = s.shadow := rfl
@[simp] theorem State.send_snap (s : State) (p : Tx) : (s.send p).snap = s.snap := rfl
@[simp] theorem State.send_mem (s : State) (p : Tx) : (s.send p).mem = s.mem := rfl
@[simp] theorem State.send_dieBuf (s : State) (p : Tx) : (s.send p).dieBuf = s.dieBuf := rfl
@[simp] theorem State.send_hubMem (s : State) (p : Tx) : (s.send p).hubMem = s.hubMem := rfl
@[simp] theorem State.send_cores (s : State) (p : Tx) : (s.send p).cores = s.cores := rfl
@[simp] theorem State.send_tables (s : State) (p : Tx) : (s.send p).tables = s.tables := rfl
@[simp] theorem State.send_ctxs (s : State) (p : Tx) : (s.send p).ctxs = s.ctxs := rfl
@[simp] theorem State.send_mgmt (s : State) (p : Tx) : (s.send p).mgmt = s.mgmt := rfl
@[simp] theorem State.send_arb (s : State) (p : Tx) : (s.send p).arb = s.arb := rfl
@[simp] theorem State.send_sessions (s : State) (p : Tx) : (s.send p).sessions = s.sessions := rfl
@[simp] theorem State.send_engines (s : State) (p : Tx) : (s.send p).engines = s.engines := rfl
@[simp] theorem State.send_power (s : State) (p : Tx) : (s.send p).power = s.power := rfl
@[simp] theorem State.send_dies (s : State) (p : Tx) : (s.send p).dies = s.dies := rfl
@[simp] theorem State.send_ports (s : State) (p : Tx) : (s.send p).ports = s.ports := rfl
@[simp] theorem State.send_routes (s : State) (p : Tx) : (s.send p).routes = s.routes := rfl
@[simp] theorem State.send_reads (s : State) (p : Tx) : (s.send p).reads = s.reads := rfl
@[simp] theorem State.send_remote (s : State) (p : Tx) : (s.send p).remote = s.remote := rfl
@[simp] theorem State.send_writes (s : State) (p : Tx) : (s.send p).writes = s.writes := rfl
@[simp] theorem State.send_link (s : State) (p : Tx) : (s.send p).link = s.link := rfl
@[simp] theorem State.send_spdm (s : State) (p : Tx) : (s.send p).spdm = s.spdm := rfl
@[simp] theorem State.send_boot (s : State) (p : Tx) : (s.send p).boot = s.boot := rfl
@[simp] theorem State.send_dbg (s : State) (p : Tx) : (s.send p).dbg = s.dbg := rfl
@[simp] theorem State.send_jtag (s : State) (p : Tx) : (s.send p).jtag = s.jtag := rfl
@[simp] theorem State.send_counters (s : State) (p : Tx) : (s.send p).counters = s.counters := rfl

@[simp] theorem State.drawn_pending (s : State) : (s.drawn).pending = s.pending := rfl
@[simp] theorem State.drawn_now (s : State) : (s.drawn).now = s.now := rfl
@[simp] theorem State.drawn_tbValid (s : State) : (s.drawn).tbValid = s.tbValid := rfl
@[simp] theorem State.drawn_free (s : State) : (s.drawn).free = s.free + 1 := rfl
@[simp] theorem State.drawn_tx (s : State) : (s.drawn).tx = s.tx := rfl
@[simp] theorem State.drawn_txFrom (s : State) : (s.drawn).txFrom = s.txFrom := rfl
@[simp] theorem State.drawn_cbLo (s : State) : (s.drawn).cbLo = s.cbLo := rfl
@[simp] theorem State.drawn_cbHi (s : State) : (s.drawn).cbHi = s.cbHi := rfl
@[simp] theorem State.drawn_opBusy (s : State) : (s.drawn).opBusy = s.opBusy := rfl
@[simp] theorem State.drawn_opCtx (s : State) : (s.drawn).opCtx = s.opCtx := rfl
@[simp] theorem State.drawn_opResult (s : State) : (s.drawn).opResult = s.opResult := rfl
@[simp] theorem State.drawn_opHeld (s : State) : (s.drawn).opHeld = s.opHeld := rfl
@[simp] theorem State.drawn_opCb (s : State) : (s.drawn).opCb = s.opCb := rfl
@[simp] theorem State.drawn_mgmtLo (s : State) : (s.drawn).mgmtLo = s.mgmtLo := rfl
@[simp] theorem State.drawn_mgmtHi (s : State) : (s.drawn).mgmtHi = s.mgmtHi := rfl
@[simp] theorem State.drawn_mgmtCtrl (s : State) : (s.drawn).mgmtCtrl = s.mgmtCtrl := rfl
@[simp] theorem State.drawn_hostToken (s : State) : (s.drawn).hostToken = s.hostToken := rfl
@[simp] theorem State.drawn_msix (s : State) : (s.drawn).msix = s.msix := rfl
@[simp] theorem State.drawn_pba (s : State) : (s.drawn).pba = s.pba := rfl
@[simp] theorem State.drawn_applyTime (s : State) : (s.drawn).applyTime = s.applyTime := rfl
@[simp] theorem State.drawn_hiApply (s : State) : (s.drawn).hiApply = s.hiApply := rfl
@[simp] theorem State.drawn_hiTel (s : State) : (s.drawn).hiTel = s.hiTel := rfl
@[simp] theorem State.drawn_cfgClean (s : State) : (s.drawn).cfgClean = s.cfgClean := rfl
@[simp] theorem State.drawn_cfgConflicts (s : State) : (s.drawn).cfgConflicts = s.cfgConflicts := rfl
@[simp] theorem State.drawn_inBase (s : State) : (s.drawn).inBase = s.inBase := rfl
@[simp] theorem State.drawn_inLimit (s : State) : (s.drawn).inLimit = s.inLimit := rfl
@[simp] theorem State.drawn_inPeers (s : State) : (s.drawn).inPeers = s.inPeers := rfl
@[simp] theorem State.drawn_inRefused (s : State) : (s.drawn).inRefused = s.inRefused := rfl
@[simp] theorem State.drawn_boardStatus (s : State) : (s.drawn).boardStatus = s.boardStatus := rfl
@[simp] theorem State.drawn_synced (s : State) : (s.drawn).synced = s.synced := rfl
@[simp] theorem State.drawn_staged (s : State) : (s.drawn).staged = s.staged := rfl
@[simp] theorem State.drawn_cfg (s : State) : (s.drawn).cfg = s.cfg := rfl
@[simp] theorem State.drawn_shadow (s : State) : (s.drawn).shadow = s.shadow := rfl
@[simp] theorem State.drawn_snap (s : State) : (s.drawn).snap = s.snap := rfl
@[simp] theorem State.drawn_mem (s : State) : (s.drawn).mem = s.mem := rfl
@[simp] theorem State.drawn_dieBuf (s : State) : (s.drawn).dieBuf = s.dieBuf := rfl
@[simp] theorem State.drawn_hubMem (s : State) : (s.drawn).hubMem = s.hubMem := rfl
@[simp] theorem State.drawn_cores (s : State) : (s.drawn).cores = s.cores := rfl
@[simp] theorem State.drawn_tables (s : State) : (s.drawn).tables = s.tables := rfl
@[simp] theorem State.drawn_ctxs (s : State) : (s.drawn).ctxs = s.ctxs := rfl
@[simp] theorem State.drawn_mgmt (s : State) : (s.drawn).mgmt = s.mgmt := rfl
@[simp] theorem State.drawn_arb (s : State) : (s.drawn).arb = s.arb := rfl
@[simp] theorem State.drawn_sessions (s : State) : (s.drawn).sessions = s.sessions := rfl
@[simp] theorem State.drawn_engines (s : State) : (s.drawn).engines = s.engines := rfl
@[simp] theorem State.drawn_power (s : State) : (s.drawn).power = s.power := rfl
@[simp] theorem State.drawn_dies (s : State) : (s.drawn).dies = s.dies := rfl
@[simp] theorem State.drawn_ports (s : State) : (s.drawn).ports = s.ports := rfl
@[simp] theorem State.drawn_routes (s : State) : (s.drawn).routes = s.routes := rfl
@[simp] theorem State.drawn_reads (s : State) : (s.drawn).reads = s.reads := rfl
@[simp] theorem State.drawn_remote (s : State) : (s.drawn).remote = s.remote := rfl
@[simp] theorem State.drawn_writes (s : State) : (s.drawn).writes = s.writes := rfl
@[simp] theorem State.drawn_link (s : State) : (s.drawn).link = s.link := rfl
@[simp] theorem State.drawn_spdm (s : State) : (s.drawn).spdm = s.spdm := rfl
@[simp] theorem State.drawn_boot (s : State) : (s.drawn).boot = s.boot := rfl
@[simp] theorem State.drawn_dbg (s : State) : (s.drawn).dbg = s.dbg := rfl
@[simp] theorem State.drawn_jtag (s : State) : (s.drawn).jtag = s.jtag := rfl
@[simp] theorem State.drawn_counters (s : State) : (s.drawn).counters = s.counters := rfl

@[simp] theorem State.count_pending (s : State) (i n : Nat) : (s.count i n).pending = s.pending := rfl
@[simp] theorem State.count_now (s : State) (i n : Nat) : (s.count i n).now = s.now := rfl
@[simp] theorem State.count_tbValid (s : State) (i n : Nat) : (s.count i n).tbValid = s.tbValid := rfl
@[simp] theorem State.count_free (s : State) (i n : Nat) : (s.count i n).free = s.free := rfl
@[simp] theorem State.count_tx (s : State) (i n : Nat) : (s.count i n).tx = s.tx := rfl
@[simp] theorem State.count_txFrom (s : State) (i n : Nat) : (s.count i n).txFrom = s.txFrom := rfl
@[simp] theorem State.count_cbLo (s : State) (i n : Nat) : (s.count i n).cbLo = s.cbLo := rfl
@[simp] theorem State.count_cbHi (s : State) (i n : Nat) : (s.count i n).cbHi = s.cbHi := rfl
@[simp] theorem State.count_opBusy (s : State) (i n : Nat) : (s.count i n).opBusy = s.opBusy := rfl
@[simp] theorem State.count_opCtx (s : State) (i n : Nat) : (s.count i n).opCtx = s.opCtx := rfl
@[simp] theorem State.count_opResult (s : State) (i n : Nat) : (s.count i n).opResult = s.opResult := rfl
@[simp] theorem State.count_opHeld (s : State) (i n : Nat) : (s.count i n).opHeld = s.opHeld := rfl
@[simp] theorem State.count_opCb (s : State) (i n : Nat) : (s.count i n).opCb = s.opCb := rfl
@[simp] theorem State.count_mgmtLo (s : State) (i n : Nat) : (s.count i n).mgmtLo = s.mgmtLo := rfl
@[simp] theorem State.count_mgmtHi (s : State) (i n : Nat) : (s.count i n).mgmtHi = s.mgmtHi := rfl
@[simp] theorem State.count_mgmtCtrl (s : State) (i n : Nat) : (s.count i n).mgmtCtrl = s.mgmtCtrl := rfl
@[simp] theorem State.count_hostToken (s : State) (i n : Nat) : (s.count i n).hostToken = s.hostToken := rfl
@[simp] theorem State.count_msix (s : State) (i n : Nat) : (s.count i n).msix = s.msix := rfl
@[simp] theorem State.count_pba (s : State) (i n : Nat) : (s.count i n).pba = s.pba := rfl
@[simp] theorem State.count_applyTime (s : State) (i n : Nat) : (s.count i n).applyTime = s.applyTime := rfl
@[simp] theorem State.count_hiApply (s : State) (i n : Nat) : (s.count i n).hiApply = s.hiApply := rfl
@[simp] theorem State.count_hiTel (s : State) (i n : Nat) : (s.count i n).hiTel = s.hiTel := rfl
@[simp] theorem State.count_cfgClean (s : State) (i n : Nat) : (s.count i n).cfgClean = s.cfgClean := rfl
@[simp] theorem State.count_cfgConflicts (s : State) (i n : Nat) : (s.count i n).cfgConflicts = s.cfgConflicts := rfl
@[simp] theorem State.count_inBase (s : State) (i n : Nat) : (s.count i n).inBase = s.inBase := rfl
@[simp] theorem State.count_inLimit (s : State) (i n : Nat) : (s.count i n).inLimit = s.inLimit := rfl
@[simp] theorem State.count_inPeers (s : State) (i n : Nat) : (s.count i n).inPeers = s.inPeers := rfl
@[simp] theorem State.count_inRefused (s : State) (i n : Nat) : (s.count i n).inRefused = s.inRefused := rfl
@[simp] theorem State.count_boardStatus (s : State) (i n : Nat) : (s.count i n).boardStatus = s.boardStatus := rfl
@[simp] theorem State.count_synced (s : State) (i n : Nat) : (s.count i n).synced = s.synced := rfl
@[simp] theorem State.count_staged (s : State) (i n : Nat) : (s.count i n).staged = s.staged := rfl
@[simp] theorem State.count_cfg (s : State) (i n : Nat) : (s.count i n).cfg = s.cfg := rfl
@[simp] theorem State.count_shadow (s : State) (i n : Nat) : (s.count i n).shadow = s.shadow := rfl
@[simp] theorem State.count_snap (s : State) (i n : Nat) : (s.count i n).snap = s.snap := rfl
@[simp] theorem State.count_mem (s : State) (i n : Nat) : (s.count i n).mem = s.mem := rfl
@[simp] theorem State.count_dieBuf (s : State) (i n : Nat) : (s.count i n).dieBuf = s.dieBuf := rfl
@[simp] theorem State.count_hubMem (s : State) (i n : Nat) : (s.count i n).hubMem = s.hubMem := rfl
@[simp] theorem State.count_cores (s : State) (i n : Nat) : (s.count i n).cores = s.cores := rfl
@[simp] theorem State.count_tables (s : State) (i n : Nat) : (s.count i n).tables = s.tables := rfl
@[simp] theorem State.count_ctxs (s : State) (i n : Nat) : (s.count i n).ctxs = s.ctxs := rfl
@[simp] theorem State.count_mgmt (s : State) (i n : Nat) : (s.count i n).mgmt = s.mgmt := rfl
@[simp] theorem State.count_arb (s : State) (i n : Nat) : (s.count i n).arb = s.arb := rfl
@[simp] theorem State.count_sessions (s : State) (i n : Nat) : (s.count i n).sessions = s.sessions := rfl
@[simp] theorem State.count_engines (s : State) (i n : Nat) : (s.count i n).engines = s.engines := rfl
@[simp] theorem State.count_power (s : State) (i n : Nat) : (s.count i n).power = s.power := rfl
@[simp] theorem State.count_dies (s : State) (i n : Nat) : (s.count i n).dies = s.dies := rfl
@[simp] theorem State.count_ports (s : State) (i n : Nat) : (s.count i n).ports = s.ports := rfl
@[simp] theorem State.count_routes (s : State) (i n : Nat) : (s.count i n).routes = s.routes := rfl
@[simp] theorem State.count_reads (s : State) (i n : Nat) : (s.count i n).reads = s.reads := rfl
@[simp] theorem State.count_remote (s : State) (i n : Nat) : (s.count i n).remote = s.remote := rfl
@[simp] theorem State.count_writes (s : State) (i n : Nat) : (s.count i n).writes = s.writes := rfl
@[simp] theorem State.count_link (s : State) (i n : Nat) : (s.count i n).link = s.link := rfl
@[simp] theorem State.count_spdm (s : State) (i n : Nat) : (s.count i n).spdm = s.spdm := rfl
@[simp] theorem State.count_boot (s : State) (i n : Nat) : (s.count i n).boot = s.boot := rfl
@[simp] theorem State.count_dbg (s : State) (i n : Nat) : (s.count i n).dbg = s.dbg := rfl
@[simp] theorem State.count_jtag (s : State) (i n : Nat) : (s.count i n).jtag = s.jtag := rfl
@[simp] theorem State.count_counters (s : State) (i n : Nat) : (s.count i n).counters = Cells.set 0 i ((Cells.get 0 i s.counters + n) % 2 ^ 64) s.counters := rfl

@[simp] theorem State.finish_pending (s : State) (c uid : Nat) : (s.finish c uid).pending = s.pending := rfl
@[simp] theorem State.finish_now (s : State) (c uid : Nat) : (s.finish c uid).now = s.now := rfl
@[simp] theorem State.finish_tbValid (s : State) (c uid : Nat) : (s.finish c uid).tbValid = s.tbValid := rfl
@[simp] theorem State.finish_free (s : State) (c uid : Nat) : (s.finish c uid).free = s.free := rfl
@[simp] theorem State.finish_tx (s : State) (c uid : Nat) : (s.finish c uid).tx = s.tx := rfl
@[simp] theorem State.finish_txFrom (s : State) (c uid : Nat) : (s.finish c uid).txFrom = s.txFrom := rfl
@[simp] theorem State.finish_cbLo (s : State) (c uid : Nat) : (s.finish c uid).cbLo = s.cbLo := rfl
@[simp] theorem State.finish_cbHi (s : State) (c uid : Nat) : (s.finish c uid).cbHi = s.cbHi := rfl
@[simp] theorem State.finish_opBusy (s : State) (c uid : Nat) : (s.finish c uid).opBusy = s.opBusy := rfl
@[simp] theorem State.finish_opCtx (s : State) (c uid : Nat) : (s.finish c uid).opCtx = s.opCtx := rfl
@[simp] theorem State.finish_opResult (s : State) (c uid : Nat) : (s.finish c uid).opResult = s.opResult := rfl
@[simp] theorem State.finish_opHeld (s : State) (c uid : Nat) : (s.finish c uid).opHeld = s.opHeld := rfl
@[simp] theorem State.finish_opCb (s : State) (c uid : Nat) : (s.finish c uid).opCb = s.opCb := rfl
@[simp] theorem State.finish_mgmtLo (s : State) (c uid : Nat) : (s.finish c uid).mgmtLo = s.mgmtLo := rfl
@[simp] theorem State.finish_mgmtHi (s : State) (c uid : Nat) : (s.finish c uid).mgmtHi = s.mgmtHi := rfl
@[simp] theorem State.finish_mgmtCtrl (s : State) (c uid : Nat) : (s.finish c uid).mgmtCtrl = s.mgmtCtrl := rfl
@[simp] theorem State.finish_hostToken (s : State) (c uid : Nat) : (s.finish c uid).hostToken = s.hostToken := rfl
@[simp] theorem State.finish_msix (s : State) (c uid : Nat) : (s.finish c uid).msix = s.msix := rfl
@[simp] theorem State.finish_pba (s : State) (c uid : Nat) : (s.finish c uid).pba = s.pba := rfl
@[simp] theorem State.finish_applyTime (s : State) (c uid : Nat) : (s.finish c uid).applyTime = s.applyTime := rfl
@[simp] theorem State.finish_hiApply (s : State) (c uid : Nat) : (s.finish c uid).hiApply = s.hiApply := rfl
@[simp] theorem State.finish_hiTel (s : State) (c uid : Nat) : (s.finish c uid).hiTel = s.hiTel := rfl
@[simp] theorem State.finish_cfgClean (s : State) (c uid : Nat) : (s.finish c uid).cfgClean = s.cfgClean := rfl
@[simp] theorem State.finish_cfgConflicts (s : State) (c uid : Nat) : (s.finish c uid).cfgConflicts = s.cfgConflicts := rfl
@[simp] theorem State.finish_inBase (s : State) (c uid : Nat) : (s.finish c uid).inBase = s.inBase := rfl
@[simp] theorem State.finish_inLimit (s : State) (c uid : Nat) : (s.finish c uid).inLimit = s.inLimit := rfl
@[simp] theorem State.finish_inPeers (s : State) (c uid : Nat) : (s.finish c uid).inPeers = s.inPeers := rfl
@[simp] theorem State.finish_inRefused (s : State) (c uid : Nat) : (s.finish c uid).inRefused = s.inRefused := rfl
@[simp] theorem State.finish_boardStatus (s : State) (c uid : Nat) : (s.finish c uid).boardStatus = s.boardStatus := rfl
@[simp] theorem State.finish_synced (s : State) (c uid : Nat) : (s.finish c uid).synced = s.synced := rfl
@[simp] theorem State.finish_staged (s : State) (c uid : Nat) : (s.finish c uid).staged = s.staged := rfl
@[simp] theorem State.finish_cfg (s : State) (c uid : Nat) : (s.finish c uid).cfg = s.cfg := rfl
@[simp] theorem State.finish_shadow (s : State) (c uid : Nat) : (s.finish c uid).shadow = s.shadow := rfl
@[simp] theorem State.finish_snap (s : State) (c uid : Nat) : (s.finish c uid).snap = s.snap := rfl
@[simp] theorem State.finish_mem (s : State) (c uid : Nat) : (s.finish c uid).mem = s.mem := rfl
@[simp] theorem State.finish_dieBuf (s : State) (c uid : Nat) : (s.finish c uid).dieBuf = s.dieBuf := rfl
@[simp] theorem State.finish_hubMem (s : State) (c uid : Nat) : (s.finish c uid).hubMem = s.hubMem := rfl
@[simp] theorem State.finish_cores (s : State) (c uid : Nat) : (s.finish c uid).cores = s.cores := rfl
@[simp] theorem State.finish_tables (s : State) (c uid : Nat) : (s.finish c uid).tables = s.tables := rfl
@[simp] theorem State.finish_mgmt (s : State) (c uid : Nat) : (s.finish c uid).mgmt = s.mgmt := rfl
@[simp] theorem State.finish_arb (s : State) (c uid : Nat) : (s.finish c uid).arb = s.arb := rfl
@[simp] theorem State.finish_sessions (s : State) (c uid : Nat) : (s.finish c uid).sessions = s.sessions := rfl
@[simp] theorem State.finish_engines (s : State) (c uid : Nat) : (s.finish c uid).engines = s.engines := rfl
@[simp] theorem State.finish_power (s : State) (c uid : Nat) : (s.finish c uid).power = s.power := rfl
@[simp] theorem State.finish_dies (s : State) (c uid : Nat) : (s.finish c uid).dies = s.dies := rfl
@[simp] theorem State.finish_ports (s : State) (c uid : Nat) : (s.finish c uid).ports = s.ports := rfl
@[simp] theorem State.finish_routes (s : State) (c uid : Nat) : (s.finish c uid).routes = s.routes := rfl
@[simp] theorem State.finish_reads (s : State) (c uid : Nat) : (s.finish c uid).reads = s.reads := rfl
@[simp] theorem State.finish_remote (s : State) (c uid : Nat) : (s.finish c uid).remote = s.remote := rfl
@[simp] theorem State.finish_writes (s : State) (c uid : Nat) : (s.finish c uid).writes = s.writes := rfl
@[simp] theorem State.finish_link (s : State) (c uid : Nat) : (s.finish c uid).link = s.link := rfl
@[simp] theorem State.finish_spdm (s : State) (c uid : Nat) : (s.finish c uid).spdm = s.spdm := rfl
@[simp] theorem State.finish_boot (s : State) (c uid : Nat) : (s.finish c uid).boot = s.boot := rfl
@[simp] theorem State.finish_dbg (s : State) (c uid : Nat) : (s.finish c uid).dbg = s.dbg := rfl
@[simp] theorem State.finish_jtag (s : State) (c uid : Nat) : (s.finish c uid).jtag = s.jtag := rfl
@[simp] theorem State.finish_counters (s : State) (c uid : Nat) : (s.finish c uid).counters = s.counters := rfl

@[simp] theorem State.setPhase_pending (s : State) (c uid : Nat) (p : Phase) : (s.setPhase c uid p).pending = s.pending := rfl
@[simp] theorem State.setPhase_now (s : State) (c uid : Nat) (p : Phase) : (s.setPhase c uid p).now = s.now := rfl
@[simp] theorem State.setPhase_tbValid (s : State) (c uid : Nat) (p : Phase) : (s.setPhase c uid p).tbValid = s.tbValid := rfl
@[simp] theorem State.setPhase_free (s : State) (c uid : Nat) (p : Phase) : (s.setPhase c uid p).free = s.free := rfl
@[simp] theorem State.setPhase_tx (s : State) (c uid : Nat) (p : Phase) : (s.setPhase c uid p).tx = s.tx := rfl
@[simp] theorem State.setPhase_txFrom (s : State) (c uid : Nat) (p : Phase) : (s.setPhase c uid p).txFrom = s.txFrom := rfl
@[simp] theorem State.setPhase_cbLo (s : State) (c uid : Nat) (p : Phase) : (s.setPhase c uid p).cbLo = s.cbLo := rfl
@[simp] theorem State.setPhase_cbHi (s : State) (c uid : Nat) (p : Phase) : (s.setPhase c uid p).cbHi = s.cbHi := rfl
@[simp] theorem State.setPhase_opBusy (s : State) (c uid : Nat) (p : Phase) : (s.setPhase c uid p).opBusy = s.opBusy := rfl
@[simp] theorem State.setPhase_opCtx (s : State) (c uid : Nat) (p : Phase) : (s.setPhase c uid p).opCtx = s.opCtx := rfl
@[simp] theorem State.setPhase_opResult (s : State) (c uid : Nat) (p : Phase) : (s.setPhase c uid p).opResult = s.opResult := rfl
@[simp] theorem State.setPhase_opHeld (s : State) (c uid : Nat) (p : Phase) : (s.setPhase c uid p).opHeld = s.opHeld := rfl
@[simp] theorem State.setPhase_opCb (s : State) (c uid : Nat) (p : Phase) : (s.setPhase c uid p).opCb = s.opCb := rfl
@[simp] theorem State.setPhase_mgmtLo (s : State) (c uid : Nat) (p : Phase) : (s.setPhase c uid p).mgmtLo = s.mgmtLo := rfl
@[simp] theorem State.setPhase_mgmtHi (s : State) (c uid : Nat) (p : Phase) : (s.setPhase c uid p).mgmtHi = s.mgmtHi := rfl
@[simp] theorem State.setPhase_mgmtCtrl (s : State) (c uid : Nat) (p : Phase) : (s.setPhase c uid p).mgmtCtrl = s.mgmtCtrl := rfl
@[simp] theorem State.setPhase_hostToken (s : State) (c uid : Nat) (p : Phase) : (s.setPhase c uid p).hostToken = s.hostToken := rfl
@[simp] theorem State.setPhase_msix (s : State) (c uid : Nat) (p : Phase) : (s.setPhase c uid p).msix = s.msix := rfl
@[simp] theorem State.setPhase_pba (s : State) (c uid : Nat) (p : Phase) : (s.setPhase c uid p).pba = s.pba := rfl
@[simp] theorem State.setPhase_applyTime (s : State) (c uid : Nat) (p : Phase) : (s.setPhase c uid p).applyTime = s.applyTime := rfl
@[simp] theorem State.setPhase_hiApply (s : State) (c uid : Nat) (p : Phase) : (s.setPhase c uid p).hiApply = s.hiApply := rfl
@[simp] theorem State.setPhase_hiTel (s : State) (c uid : Nat) (p : Phase) : (s.setPhase c uid p).hiTel = s.hiTel := rfl
@[simp] theorem State.setPhase_cfgClean (s : State) (c uid : Nat) (p : Phase) : (s.setPhase c uid p).cfgClean = s.cfgClean := rfl
@[simp] theorem State.setPhase_cfgConflicts (s : State) (c uid : Nat) (p : Phase) : (s.setPhase c uid p).cfgConflicts = s.cfgConflicts := rfl
@[simp] theorem State.setPhase_inBase (s : State) (c uid : Nat) (p : Phase) : (s.setPhase c uid p).inBase = s.inBase := rfl
@[simp] theorem State.setPhase_inLimit (s : State) (c uid : Nat) (p : Phase) : (s.setPhase c uid p).inLimit = s.inLimit := rfl
@[simp] theorem State.setPhase_inPeers (s : State) (c uid : Nat) (p : Phase) : (s.setPhase c uid p).inPeers = s.inPeers := rfl
@[simp] theorem State.setPhase_inRefused (s : State) (c uid : Nat) (p : Phase) : (s.setPhase c uid p).inRefused = s.inRefused := rfl
@[simp] theorem State.setPhase_boardStatus (s : State) (c uid : Nat) (p : Phase) : (s.setPhase c uid p).boardStatus = s.boardStatus := rfl
@[simp] theorem State.setPhase_synced (s : State) (c uid : Nat) (p : Phase) : (s.setPhase c uid p).synced = s.synced := rfl
@[simp] theorem State.setPhase_staged (s : State) (c uid : Nat) (p : Phase) : (s.setPhase c uid p).staged = s.staged := rfl
@[simp] theorem State.setPhase_cfg (s : State) (c uid : Nat) (p : Phase) : (s.setPhase c uid p).cfg = s.cfg := rfl
@[simp] theorem State.setPhase_shadow (s : State) (c uid : Nat) (p : Phase) : (s.setPhase c uid p).shadow = s.shadow := rfl
@[simp] theorem State.setPhase_snap (s : State) (c uid : Nat) (p : Phase) : (s.setPhase c uid p).snap = s.snap := rfl
@[simp] theorem State.setPhase_mem (s : State) (c uid : Nat) (p : Phase) : (s.setPhase c uid p).mem = s.mem := rfl
@[simp] theorem State.setPhase_dieBuf (s : State) (c uid : Nat) (p : Phase) : (s.setPhase c uid p).dieBuf = s.dieBuf := rfl
@[simp] theorem State.setPhase_hubMem (s : State) (c uid : Nat) (p : Phase) : (s.setPhase c uid p).hubMem = s.hubMem := rfl
@[simp] theorem State.setPhase_cores (s : State) (c uid : Nat) (p : Phase) : (s.setPhase c uid p).cores = s.cores := rfl
@[simp] theorem State.setPhase_tables (s : State) (c uid : Nat) (p : Phase) : (s.setPhase c uid p).tables = s.tables := rfl
@[simp] theorem State.setPhase_mgmt (s : State) (c uid : Nat) (p : Phase) : (s.setPhase c uid p).mgmt = s.mgmt := rfl
@[simp] theorem State.setPhase_arb (s : State) (c uid : Nat) (p : Phase) : (s.setPhase c uid p).arb = s.arb := rfl
@[simp] theorem State.setPhase_sessions (s : State) (c uid : Nat) (p : Phase) : (s.setPhase c uid p).sessions = s.sessions := rfl
@[simp] theorem State.setPhase_engines (s : State) (c uid : Nat) (p : Phase) : (s.setPhase c uid p).engines = s.engines := rfl
@[simp] theorem State.setPhase_power (s : State) (c uid : Nat) (p : Phase) : (s.setPhase c uid p).power = s.power := rfl
@[simp] theorem State.setPhase_dies (s : State) (c uid : Nat) (p : Phase) : (s.setPhase c uid p).dies = s.dies := rfl
@[simp] theorem State.setPhase_ports (s : State) (c uid : Nat) (p : Phase) : (s.setPhase c uid p).ports = s.ports := rfl
@[simp] theorem State.setPhase_routes (s : State) (c uid : Nat) (p : Phase) : (s.setPhase c uid p).routes = s.routes := rfl
@[simp] theorem State.setPhase_reads (s : State) (c uid : Nat) (p : Phase) : (s.setPhase c uid p).reads = s.reads := rfl
@[simp] theorem State.setPhase_remote (s : State) (c uid : Nat) (p : Phase) : (s.setPhase c uid p).remote = s.remote := rfl
@[simp] theorem State.setPhase_writes (s : State) (c uid : Nat) (p : Phase) : (s.setPhase c uid p).writes = s.writes := rfl
@[simp] theorem State.setPhase_link (s : State) (c uid : Nat) (p : Phase) : (s.setPhase c uid p).link = s.link := rfl
@[simp] theorem State.setPhase_spdm (s : State) (c uid : Nat) (p : Phase) : (s.setPhase c uid p).spdm = s.spdm := rfl
@[simp] theorem State.setPhase_boot (s : State) (c uid : Nat) (p : Phase) : (s.setPhase c uid p).boot = s.boot := rfl
@[simp] theorem State.setPhase_dbg (s : State) (c uid : Nat) (p : Phase) : (s.setPhase c uid p).dbg = s.dbg := rfl
@[simp] theorem State.setPhase_jtag (s : State) (c uid : Nat) (p : Phase) : (s.setPhase c uid p).jtag = s.jtag := rfl
@[simp] theorem State.setPhase_counters (s : State) (c uid : Nat) (p : Phase) : (s.setPhase c uid p).counters = s.counters := rfl

@[simp] theorem State.putCmd_pending (s : State) (c : Nat) (m : Cmd) : (s.putCmd c m).pending = s.pending := rfl
@[simp] theorem State.putCmd_now (s : State) (c : Nat) (m : Cmd) : (s.putCmd c m).now = s.now := rfl
@[simp] theorem State.putCmd_tbValid (s : State) (c : Nat) (m : Cmd) : (s.putCmd c m).tbValid = s.tbValid := rfl
@[simp] theorem State.putCmd_free (s : State) (c : Nat) (m : Cmd) : (s.putCmd c m).free = s.free := rfl
@[simp] theorem State.putCmd_tx (s : State) (c : Nat) (m : Cmd) : (s.putCmd c m).tx = s.tx := rfl
@[simp] theorem State.putCmd_txFrom (s : State) (c : Nat) (m : Cmd) : (s.putCmd c m).txFrom = s.txFrom := rfl
@[simp] theorem State.putCmd_cbLo (s : State) (c : Nat) (m : Cmd) : (s.putCmd c m).cbLo = s.cbLo := rfl
@[simp] theorem State.putCmd_cbHi (s : State) (c : Nat) (m : Cmd) : (s.putCmd c m).cbHi = s.cbHi := rfl
@[simp] theorem State.putCmd_opBusy (s : State) (c : Nat) (m : Cmd) : (s.putCmd c m).opBusy = s.opBusy := rfl
@[simp] theorem State.putCmd_opCtx (s : State) (c : Nat) (m : Cmd) : (s.putCmd c m).opCtx = s.opCtx := rfl
@[simp] theorem State.putCmd_opResult (s : State) (c : Nat) (m : Cmd) : (s.putCmd c m).opResult = s.opResult := rfl
@[simp] theorem State.putCmd_opHeld (s : State) (c : Nat) (m : Cmd) : (s.putCmd c m).opHeld = s.opHeld := rfl
@[simp] theorem State.putCmd_opCb (s : State) (c : Nat) (m : Cmd) : (s.putCmd c m).opCb = s.opCb := rfl
@[simp] theorem State.putCmd_mgmtLo (s : State) (c : Nat) (m : Cmd) : (s.putCmd c m).mgmtLo = s.mgmtLo := rfl
@[simp] theorem State.putCmd_mgmtHi (s : State) (c : Nat) (m : Cmd) : (s.putCmd c m).mgmtHi = s.mgmtHi := rfl
@[simp] theorem State.putCmd_mgmtCtrl (s : State) (c : Nat) (m : Cmd) : (s.putCmd c m).mgmtCtrl = s.mgmtCtrl := rfl
@[simp] theorem State.putCmd_hostToken (s : State) (c : Nat) (m : Cmd) : (s.putCmd c m).hostToken = s.hostToken := rfl
@[simp] theorem State.putCmd_msix (s : State) (c : Nat) (m : Cmd) : (s.putCmd c m).msix = s.msix := rfl
@[simp] theorem State.putCmd_pba (s : State) (c : Nat) (m : Cmd) : (s.putCmd c m).pba = s.pba := rfl
@[simp] theorem State.putCmd_applyTime (s : State) (c : Nat) (m : Cmd) : (s.putCmd c m).applyTime = s.applyTime := rfl
@[simp] theorem State.putCmd_hiApply (s : State) (c : Nat) (m : Cmd) : (s.putCmd c m).hiApply = s.hiApply := rfl
@[simp] theorem State.putCmd_hiTel (s : State) (c : Nat) (m : Cmd) : (s.putCmd c m).hiTel = s.hiTel := rfl
@[simp] theorem State.putCmd_cfgClean (s : State) (c : Nat) (m : Cmd) : (s.putCmd c m).cfgClean = s.cfgClean := rfl
@[simp] theorem State.putCmd_cfgConflicts (s : State) (c : Nat) (m : Cmd) : (s.putCmd c m).cfgConflicts = s.cfgConflicts := rfl
@[simp] theorem State.putCmd_inBase (s : State) (c : Nat) (m : Cmd) : (s.putCmd c m).inBase = s.inBase := rfl
@[simp] theorem State.putCmd_inLimit (s : State) (c : Nat) (m : Cmd) : (s.putCmd c m).inLimit = s.inLimit := rfl
@[simp] theorem State.putCmd_inPeers (s : State) (c : Nat) (m : Cmd) : (s.putCmd c m).inPeers = s.inPeers := rfl
@[simp] theorem State.putCmd_inRefused (s : State) (c : Nat) (m : Cmd) : (s.putCmd c m).inRefused = s.inRefused := rfl
@[simp] theorem State.putCmd_boardStatus (s : State) (c : Nat) (m : Cmd) : (s.putCmd c m).boardStatus = s.boardStatus := rfl
@[simp] theorem State.putCmd_synced (s : State) (c : Nat) (m : Cmd) : (s.putCmd c m).synced = s.synced := rfl
@[simp] theorem State.putCmd_staged (s : State) (c : Nat) (m : Cmd) : (s.putCmd c m).staged = s.staged := rfl
@[simp] theorem State.putCmd_cfg (s : State) (c : Nat) (m : Cmd) : (s.putCmd c m).cfg = s.cfg := rfl
@[simp] theorem State.putCmd_shadow (s : State) (c : Nat) (m : Cmd) : (s.putCmd c m).shadow = s.shadow := rfl
@[simp] theorem State.putCmd_snap (s : State) (c : Nat) (m : Cmd) : (s.putCmd c m).snap = s.snap := rfl
@[simp] theorem State.putCmd_mem (s : State) (c : Nat) (m : Cmd) : (s.putCmd c m).mem = s.mem := rfl
@[simp] theorem State.putCmd_dieBuf (s : State) (c : Nat) (m : Cmd) : (s.putCmd c m).dieBuf = s.dieBuf := rfl
@[simp] theorem State.putCmd_hubMem (s : State) (c : Nat) (m : Cmd) : (s.putCmd c m).hubMem = s.hubMem := rfl
@[simp] theorem State.putCmd_cores (s : State) (c : Nat) (m : Cmd) : (s.putCmd c m).cores = s.cores := rfl
@[simp] theorem State.putCmd_tables (s : State) (c : Nat) (m : Cmd) : (s.putCmd c m).tables = s.tables := rfl
@[simp] theorem State.putCmd_mgmt (s : State) (c : Nat) (m : Cmd) : (s.putCmd c m).mgmt = s.mgmt := rfl
@[simp] theorem State.putCmd_arb (s : State) (c : Nat) (m : Cmd) : (s.putCmd c m).arb = s.arb := rfl
@[simp] theorem State.putCmd_sessions (s : State) (c : Nat) (m : Cmd) : (s.putCmd c m).sessions = s.sessions := rfl
@[simp] theorem State.putCmd_engines (s : State) (c : Nat) (m : Cmd) : (s.putCmd c m).engines = s.engines := rfl
@[simp] theorem State.putCmd_power (s : State) (c : Nat) (m : Cmd) : (s.putCmd c m).power = s.power := rfl
@[simp] theorem State.putCmd_dies (s : State) (c : Nat) (m : Cmd) : (s.putCmd c m).dies = s.dies := rfl
@[simp] theorem State.putCmd_ports (s : State) (c : Nat) (m : Cmd) : (s.putCmd c m).ports = s.ports := rfl
@[simp] theorem State.putCmd_routes (s : State) (c : Nat) (m : Cmd) : (s.putCmd c m).routes = s.routes := rfl
@[simp] theorem State.putCmd_reads (s : State) (c : Nat) (m : Cmd) : (s.putCmd c m).reads = s.reads := rfl
@[simp] theorem State.putCmd_remote (s : State) (c : Nat) (m : Cmd) : (s.putCmd c m).remote = s.remote := rfl
@[simp] theorem State.putCmd_writes (s : State) (c : Nat) (m : Cmd) : (s.putCmd c m).writes = s.writes := rfl
@[simp] theorem State.putCmd_link (s : State) (c : Nat) (m : Cmd) : (s.putCmd c m).link = s.link := rfl
@[simp] theorem State.putCmd_spdm (s : State) (c : Nat) (m : Cmd) : (s.putCmd c m).spdm = s.spdm := rfl
@[simp] theorem State.putCmd_boot (s : State) (c : Nat) (m : Cmd) : (s.putCmd c m).boot = s.boot := rfl
@[simp] theorem State.putCmd_dbg (s : State) (c : Nat) (m : Cmd) : (s.putCmd c m).dbg = s.dbg := rfl
@[simp] theorem State.putCmd_jtag (s : State) (c : Nat) (m : Cmd) : (s.putCmd c m).jtag = s.jtag := rfl
@[simp] theorem State.putCmd_counters (s : State) (c : Nat) (m : Cmd) : (s.putCmd c m).counters = s.counters := rfl

end Sys2Proof.Machine
end

