-- ==== Sys2Proof/Laws/Ops.lean ====
section
/-! SUPPORT. For each shared operation, everything that it can change, said once. -/

namespace Sys2Proof.Machine

/-! ### Counters -/

/-- A fold of operations that change counters alone changes counters alone. -/
theorem State.foldl_counters {α : Type} (f : State → α → State) (h : ∀ s x, ∃ k, f s x = { s with counters := k }) :
    ∀ (l : List α) (s : State), ∃ k, l.foldl f s = { s with counters := k }
  | [], s => ⟨s.counters, rfl⟩
  | x :: r, s => by
    obtain ⟨k, e⟩ := h s x
    obtain ⟨j, e2⟩ := State.foldl_counters f h r { s with counters := k }
    exact ⟨j, by rw [List.foldl_cons, e, e2]⟩

theorem State.carry_shape (s : State) (a b n : Nat) : ∃ k, s.carry a b n = { s with counters := k } :=
  State.foldl_counters _ (fun _ _ => ⟨_, rfl⟩) _ s

/-- Traffic inside the package changes counters alone. -/
theorem State.carryTo_shape (s : State) (die a n : Nat) : ∃ k, s.carryTo die a n = { s with counters := k } :=
  State.foldl_counters _ (fun s x => by obtain ⟨k, e⟩ := s.carry_shape die x.1 x.2.1; rw [e]; exact ⟨_, rfl⟩) _ s

theorem State.carryFrom_shape (s : State) (rs : List (Nat × Nat)) (die : Nat) : ∃ k, s.carryFrom rs die = { s with counters := k } :=
  State.foldl_counters _ (fun s r => State.foldl_counters _
    (fun s x => by obtain ⟨k, e⟩ := s.carry_shape x.1 die x.2.1; rw [e]; exact ⟨_, rfl⟩) _ s) _ s

/-- A packet of the host changes counters alone. -/
theorem State.received_shape (s : State) (n : Nat) : ∃ k, s.received n = { s with counters := k } := by
  unfold State.received; split
  · exact ⟨_, rfl⟩
  · exact ⟨s.counters, rfl⟩

theorem State.fetched_shape (s : State) (d : HostData) : ∃ k, s.fetched d = { s with counters := k } := by
  cases d with
  | ok b e => exact s.received_shape b.length
  | failed => exact ⟨s.counters, rfl⟩

/-! ### Packets, messages, records -/

/-- A wake event changes the power manager and the counters. -/
theorem State.wake_shape (s : State) : ∃ p k, s.wake = { s with power := p, counters := k } := by
  unfold State.wake
  split
  · exact ⟨_, s.counters, rfl⟩
  · split
    · exact ⟨s.power, s.counters, rfl⟩
    · exact ⟨_, _, rfl⟩

/-- A packet to the host changes the transmit list. -/
theorem State.toHost_shape (s : State) (p : Tx) : ∃ t, s.toHost p = { s with tx := t } := by
  unfold State.toHost; split
  · exact ⟨_, rfl⟩
  · exact ⟨s.tx, rfl⟩

theorem State.hostStruct_shape (s : State) (a : Nat) (d : List Byte) : ∃ t, s.hostStruct a d = { s with tx := t } := s.toHost_shape _

/-- An interrupt is sent, counted, or becomes pending. -/
theorem State.sendMsix_shape (s : State) (v : Nat) : ∃ t k p, s.sendMsix v = { s with tx := t, counters := k, pba := p } := by
  unfold State.sendMsix; split
  · exact ⟨s.tx, s.counters, s.pba, rfl⟩
  · split
    · exact ⟨s.tx, s.counters, _, rfl⟩
    · exact ⟨_, _, s.pba, rfl⟩

theorem State.mgmtLine_shape (s : State) : ∃ t g, s.mgmtLine = { s with tx := t, mgmt := g } := by
  unfold State.mgmtLine
  dsimp only
  obtain ⟨t, h⟩ := s.hostStruct_shape (s.mgmt.base + 64) (leBytes 64 (s.now.toNat * 2 ^ 448 + b2n s.mgmt.active * 2 ^ 328 +
    b2n (s.mgmt.paused && s.mgmt.resumeByte.isSome) * 2 ^ 320 + s.mgmt.cqHead.toNat * 2 ^ 288 + s.mgmt.mseq.toNat * 2 ^ 256 + s.mgmt.e.toNat))
  rw [h]; exact ⟨t, _, rfl⟩

theorem State.putMessage_shape (s : State) (kind ref ctx ring : Nat) (mg : Bool) (code detail : Nat) :
    ∃ t g k p, s.putMessage kind ref ctx ring mg code detail = { s with tx := t, mgmt := g, counters := k, pba := p } := by
  unfold State.putMessage
  dsimp only
  generalize leBytes 32 _ = bs
  obtain ⟨t, h⟩ := s.hostStruct_shape (s.mgmt.base + 4096 + 64 * 2 ^ s.mgmt.logN + 32 * (s.mgmt.mseq.toNat % 2 ^ s.mgmt.logN)) bs
  rw [h]
  obtain ⟨t2, g2, h2⟩ := State.mgmtLine_shape { s with tx := t, mgmt := { s.mgmt with mseq := s.mgmt.mseq + 1, dropped := 0 } }
  dsimp only at h2 ⊢
  rw [h2]
  obtain ⟨t3, k3, p3, h3⟩ := State.sendMsix_shape { s with tx := t2, mgmt := g2 } (bits s.mgmtCtrl.toNat 18 8)
  exact ⟨t3, g2, k3, p3, h3⟩

/-- A message changes the management ring, the transmit list, the counters and the pending interrupts. -/
theorem State.message_shape (s : State) (kind ref ctx ring : Nat) (mg : Bool) (code detail : Nat) :
    ∃ t g k p, s.message kind ref ctx ring mg code detail = { s with tx := t, mgmt := g, counters := k, pba := p } := by
  unfold State.message; split
  · exact ⟨s.tx, s.mgmt, s.counters, s.pba, rfl⟩
  · split
    · exact s.putMessage_shape kind ref ctx ring mg code detail
    · exact ⟨s.tx, _, s.counters, s.pba, rfl⟩

theorem State.mgmtDone_shape (s : State) (code detail : Nat) :
    ∃ t g k p, s.mgmtDone code detail = { s with tx := t, mgmt := g, counters := k, pba := p } := by
  unfold State.mgmtDone; split
  · exact ⟨s.tx, s.mgmt, s.counters, s.pba, rfl⟩
  · rename_i d _
    obtain ⟨t, g, k, p, h⟩ := State.putMessage_shape { s with mgmt := { s.mgmt with running := none, reserved := s.mgmt.reserved - 1 } }
      0x01 d.seq.toNat 0 0 false code detail
    exact ⟨t, g, k, p, h⟩

/-- A memory error changes the registers of its die and sends a message. -/
theorem State.memError_shape (s : State) (d source addr stack ch core : Nat) (ctx : Option Nat) :
    ∃ e t g k p, s.memError d source addr stack ch core ctx = { s with dies := e, tx := t, mgmt := g, counters := k, pba := p } := by
  have key : ∀ y : Die, ∃ e t g k p, (s.setDie d y).message 0x02 0 (ctx.getD 0) (d % 4) false 0 (y.logHi.toNat * 2 ^ 32 + y.logLo.toNat) =
      { s with dies := e, tx := t, mgmt := g, counters := k, pba := p } := by
    intro y
    obtain ⟨t, g, k, p, h⟩ := State.message_shape (s.setDie d y) 0x02 0 (ctx.getD 0) (d % 4) false 0
      (y.logHi.toNat * 2 ^ 32 + y.logLo.toNat)
    exact ⟨(s.setDie d y).dies, t, g, k, p, h⟩
  exact key _

theorem State.writeLine_shape (s : State) (c : Nat) : ∃ t x, s.writeLine c = { s with tx := t, ctxs := x } := by
  unfold State.writeLine
  dsimp only
  split
  · exact ⟨s.tx, s.ctxs, rfl⟩
  · rename_i b _
    obtain ⟨t, h⟩ := s.hostStruct_shape b.cqBase (leBytes 64 ((s.ctx c).line s.now))
    rw [h]; exact ⟨t, _, rfl⟩

theorem State.considerIrq_shape (s : State) (c : Nat) :
    ∃ t x k p, s.considerIrq c = { s with tx := t, ctxs := x, counters := k, pba := p } := by
  unfold State.considerIrq
  dsimp only
  split
  · rename_i b t0 _ _
    split
    · obtain ⟨t, k, p, h⟩ := State.sendMsix_shape (s.setCtx c { s.ctx c with irqCount := 0, irqOldest := none }) b.vector
      exact ⟨t, _, k, p, h⟩
    · exact ⟨s.tx, s.ctxs, s.counters, s.pba, rfl⟩
  · exact ⟨s.tx, s.ctxs, s.counters, s.pba, rfl⟩

theorem State.putRecord_shape (s : State) (c : Nat) (m : Cmd) (st err item detail : Nat) (time : Tick) :
    ∃ t x, s.putRecord c m st err item detail time = { s with tx := t, ctxs := x } := by
  unfold State.putRecord
  dsimp only
  split
  · exact ⟨s.tx, s.ctxs, rfl⟩
  · generalize leBytes 32 _ = bs
    generalize (CtxBlock.cqBase _ + 64 + 32 * _) = a
    obtain ⟨t, h⟩ := s.hostStruct_shape a bs
    rw [h]; exact ⟨t, _, rfl⟩

theorem State.afterRecords_shape (s : State) (c : Nat) :
    ∃ t x k p, s.afterRecords c = { s with tx := t, ctxs := x, counters := k, pba := p } := by
  unfold State.afterRecords
  obtain ⟨t, x, h⟩ := s.writeLine_shape c
  rw [h]
  obtain ⟨t, x, k, p, h⟩ := State.considerIrq_shape { s with tx := t, ctxs := x } c
  exact ⟨t, x, k, p, h⟩

/-! ### Reads of protected units -/

theorem State.setMem_shape (s : State) (t : MemTarget) (m : Mem) :
    ∃ a b c d, s.setMem t m = { s with mem := a, dieBuf := b, hubMem := c, cores := d } := by
  cases t with
  | dram => exact ⟨_, s.dieBuf, s.hubMem, s.cores, rfl⟩
  | dieBuf d => exact ⟨s.mem, _, s.hubMem, s.cores, rfl⟩
  | core k => exact ⟨s.mem, s.dieBuf, s.hubMem, _, rfl⟩
  | hub => exact ⟨s.mem, s.dieBuf, _, s.cores, rfl⟩

theorem State.errCounter_shape (s : State) (t : MemTarget) (a j : Nat) : ∃ k, s.errCounter t a j = { s with counters := k } := by
  cases t; exacts [⟨_, rfl⟩, ⟨_, rfl⟩, ⟨s.counters, rfl⟩, ⟨s.counters, rfl⟩]

theorem State.badEvent_shape (s : State) (t : MemTarget) (a : Nat) (ctx : Option Nat) :
    ∃ e x g k p, s.badEvent t a ctx = { s with dies := e, tx := x, mgmt := g, counters := k, pba := p } := by
  unfold State.badEvent
  obtain ⟨k, h⟩ := s.errCounter_shape t a 3
  dsimp only
  rw [h]
  cases t <;> exact State.memError_shape _ _ _ _ _ _ _ _

theorem State.badEvent_setMem (s : State) (m : MemTarget) (y : Mem) (n a : Nat) (v : Option Nat) :
    ∃ q b c d e f t g k p, State.badEvent { s.setMem m y with free := n } m a v =
      { s with mem := q, dieBuf := b, hubMem := c, cores := d, dies := e, free := f, tx := t, mgmt := g, counters := k, pba := p } := by
  obtain ⟨e, t, g, k, p, h2⟩ := State.badEvent_shape { s.setMem m y with free := n } m a v
  obtain ⟨q, b, c, d, h⟩ := s.setMem_shape m y
  rw [h2, h]; exact ⟨q, b, c, d, e, n, t, g, k, p, rfl⟩

/-- A read of a unit changes the memories, the error counts and logs, the counters and the next draw, and may send a message. -/
theorem State.unitRead_shape (s : State) (m : MemTarget) (x n : Nat) (v : Option Nat) :
    ∃ a b c d e f t g k p, s.unitRead m x n v =
      { s with mem := a, dieBuf := b, hubMem := c, cores := d, dies := e, free := f, tx := t, mgmt := g, counters := k, pba := p } := by
  unfold State.unitRead
  dsimp only
  split
  · split
    · exact ⟨s.mem, s.dieBuf, s.hubMem, s.cores, s.dies, s.free, s.tx, s.mgmt, s.counters, s.pba, rfl⟩
    · generalize ({ s.memOf m with latent := _ } : Mem) = y
      exact State.badEvent_setMem s m y (s.setMem m y).free _ _
  · split
    · exact ⟨s.mem, s.dieBuf, s.hubMem, s.cores, s.dies, s.free, s.tx, s.mgmt, s.counters, s.pba, rfl⟩
    · generalize ({ s.memOf m with latent := _ } : Mem) = y
      obtain ⟨a, b, c, d, h⟩ := s.setMem_shape m y
      rw [h]
      obtain ⟨k, h2⟩ := State.errCounter_shape { s with mem := a, dieBuf := b, hubMem := c, cores := d } m (x * memUnit m) 2
      rw [h2]
      exact ⟨a, b, c, d, _, s.free, s.tx, s.mgmt, k, s.pba, rfl⟩
    · generalize ({ s.memOf m with poison := _, latent := _ } : Mem) = y
      exact State.badEvent_setMem s m y (s.free + 1) _ _
    · generalize Mem.havoc _ _ _ _ _ = y
      obtain ⟨a, b, c, d, h⟩ := s.setMem_shape m y
      rw [h]
      split
      · obtain ⟨k, h2⟩ := State.errCounter_shape { s with mem := a, dieBuf := b, hubMem := c, cores := d, free := s.free + 1 } m (x * memUnit m) 2
        rw [h2]
        exact ⟨a, b, c, d, _, s.free + 1, s.tx, s.mgmt, k, s.pba, rfl⟩
      · exact ⟨a, b, c, d, s.dies, s.free + 1, s.tx, s.mgmt, s.counters, s.pba, rfl⟩

/-- The same of all units of some ranges. -/
theorem State.settleIn_shape (s : State) (m : MemTarget) (rs : List (Nat × Nat)) (v : Option Nat) :
    ∃ a b c d e f t g k p, s.settleIn m rs v =
      { s with mem := a, dieBuf := b, hubMem := c, cores := d, dies := e, free := f, tx := t, mgmt := g, counters := k, pba := p } := by
  unfold State.settleIn
  dsimp only
  generalize (s.memOf m).latent.filter _ = l
  induction l generalizing s with
  | nil => exact ⟨s.mem, s.dieBuf, s.hubMem, s.cores, s.dies, s.free, s.tx, s.mgmt, s.counters, s.pba, rfl⟩
  | cons x r ih =>
    obtain ⟨a, b, c, d, e, f, t, g, k, p, h⟩ := s.unitRead_shape m x.1 0 v
    obtain ⟨a2, b2, c2, d2, e2, f2, t2, g2, k2, p2, h2⟩ := ih (s.unitRead m x.1 0 v)
    rw [List.foldl_cons, h2, h]
    exact ⟨a2, b2, c2, d2, e2, f2, t2, g2, k2, p2, rfl⟩

/-- A memory without bad symbols settles as it is. -/
@[simp] theorem State.settleIn_clean (s : State) (m : MemTarget) (rs : List (Nat × Nat)) (v : Option Nat) (h : (s.memOf m).latent = []) :
    s.settleIn m rs v = s := by
  simp [State.settleIn, h]

@[simp] theorem State.settle_clean (s : State) (rs : List (Nat × Nat)) (v : Option Nat) (h : s.mem.latent = []) : s.settle rs v = s :=
  State.settleIn_clean s .dram rs v h

/-! ### Writes of memory -/

/-- A write of a memory without bad symbols stores its bytes, and may take an armed ECC injection. -/
theorem State.memWrite_clean (s : State) (m : MemTarget) (target who a : Nat) (bs : List Byte) (pz : Bool) (h : (s.memOf m).latent = []) :
    ∃ w e, s.memWrite m target who a bs pz = { s.setMem m w with dbg := { s.dbg with eccArmed := e } } ∧
      w.cells = ((s.memOf m).write (memUnit m) a bs pz).cells ∧ w.fill = (s.memOf m).fill ∧
      w.poison = ((s.memOf m).write (memUnit m) a bs pz).poison := by
  unfold State.memWrite
  dsimp only
  rw [h]
  simp only [List.isEmpty_nil, if_true]
  split
  · refine ⟨_, s.dbg.eccArmed, ?_, rfl, Mem.write_fill _ _ _ _ _, rfl⟩
    cases m <;> rfl
  · exact ⟨_, false, rfl, rfl, Mem.write_fill _ _ _ _ _, rfl⟩

/-- Any write changes what a read may and the injection. -/
theorem State.memWrite_shape (s : State) (m : MemTarget) (target who a : Nat) (bs : List Byte) (pz : Bool) :
    ∃ q b c d e f t g k p z, s.memWrite m target who a bs pz =
      { s with mem := q, dieBuf := b, hubMem := c, cores := d, dies := e, free := f, tx := t, mgmt := g, counters := k, pba := p, dbg := z } := by
  unfold State.memWrite
  dsimp only
  generalize hs : (if (s.memOf m).latent.isEmpty then s else s.settleIn m _ none) = s'
  have hk : ∃ a b c d e f t g k p, s' =
      { s with mem := a, dieBuf := b, hubMem := c, cores := d, dies := e, free := f, tx := t, mgmt := g, counters := k, pba := p } := by
    rw [← hs]; split
    · exact ⟨s.mem, s.dieBuf, s.hubMem, s.cores, s.dies, s.free, s.tx, s.mgmt, s.counters, s.pba, rfl⟩
    · exact State.settleIn_shape s m _ none
  obtain ⟨a1, b, c, d, e, f, t, g, k, p, h⟩ := hk
  split
  · generalize Mem.write _ _ _ _ _ = w
    obtain ⟨a2, b2, c2, d2, h2⟩ := s'.setMem_shape m w
    rw [h2, h]; exact ⟨a2, b2, c2, d2, e, f, t, g, k, p, s.dbg, rfl⟩
  · generalize ({ Mem.write _ _ _ _ _ with latent := _ } : Mem) = w
    obtain ⟨a2, b2, c2, d2, h2⟩ := s'.setMem_shape m w
    rw [h2, h]; exact ⟨a2, b2, c2, d2, e, f, t, g, k, p, _, rfl⟩

/-- A memory with the bytes of a write: it reads them back, changes no other, and is in canonical form. -/
theorem Mem.write_spec (m w : Mem) (u a : Nat) (bs : List Byte) (pz : Bool) (hc : w.cells = (m.write u a bs pz).cells) (hf : w.fill = m.fill)
    (hw : Memory.wf m = true) : w.read a bs.length = bs ∧ SameOutside m w [(a, bs.length)] ∧ Memory.wf w = true := by
  have hb : ∀ x, w.byte x = (m.write u a bs pz).byte x := fun x => by simp [Mem.byte, Mem.against, hc, hf]
  refine ⟨?_, fun x hx => (hb x).trans (Mem.sameOutside_write m u a bs pz x hx), ?_⟩
  · have h := Mem.read_write m u a bs pz hw
    simp only [Mem.read, hb] at h ⊢; exact h
  · have h := Mem.write_wf m u a bs pz hw
    simpa [Memory.wf, hc] using h

/-- A write of device memory, as its bytes tell. -/
theorem State.devWrite_spec (s : State) (a : Nat) (bs : List Byte) (pz : Bool) (hl : s.mem.latent = []) (hw : Memory.wf s.mem = true) :
    ∃ m e, s.devWrite a bs pz = { s with mem := m, dbg := { s.dbg with eccArmed := e } } ∧ m.read a bs.length = bs ∧
      SameOutside s.mem m [(a, bs.length)] ∧ Memory.wf m = true := by
  obtain ⟨m, e, h, hc, hf, _⟩ := s.memWrite_clean .dram 0 0 a bs pz hl
  exact ⟨m, e, h, Mem.write_spec s.mem m 64 a bs pz hc hf hw⟩

/-- The same of a write by the hub die, which is counted. -/
theorem State.hubWrite_spec (s : State) (a : Nat) (bs : List Byte) (pz : Bool) (hl : s.mem.latent = []) (hw : Memory.wf s.mem = true) :
    ∃ m e k, s.hubWrite a bs pz = { s with mem := m, counters := k, dbg := { s.dbg with eccArmed := e } } ∧ m.read a bs.length = bs ∧
      SameOutside s.mem m [(a, bs.length)] ∧ Memory.wf m = true := by
  unfold State.hubWrite
  obtain ⟨k, hk⟩ := s.carryTo_shape 4 a bs.length
  rw [hk]
  obtain ⟨m, e, h, r⟩ := State.devWrite_spec { s with counters := k } a bs pz hl hw
  exact ⟨m, e, k, h, r⟩

theorem State.hubWrite_shape (s : State) (a : Nat) (bs : List Byte) (pz : Bool) :
    ∃ q b c d e f t g k p z, s.hubWrite a bs pz =
      { s with mem := q, dieBuf := b, hubMem := c, cores := d, dies := e, free := f, tx := t, mgmt := g, counters := k, pba := p, dbg := z } := by
  unfold State.hubWrite
  obtain ⟨k, hk⟩ := s.carryTo_shape 4 a bs.length
  rw [hk]
  exact State.memWrite_shape { s with counters := k } .dram 0 0 a bs pz

/-- Undefined contents change device memory and the draw number, within the ranges, and keep the canonical form. -/
theorem State.havoc_shape : ∀ (rs : List (Nat × Nat)) (s : State), ∃ m n, s.havoc rs = { s with mem := m, free := n } ∧
    SameOutside s.mem m rs ∧ (Memory.wf s.mem = true → Memory.wf m = true)
  | [], s => ⟨s.mem, s.free, rfl, SameOutside.refl _ _, id⟩
  | r :: rs, s => by
    obtain ⟨m, n, h, o, w⟩ := State.havoc_shape rs { s with mem := s.mem.havoc 64 r.1 r.2 s.free, free := s.free + 1 }
    refine ⟨m, n, ?_, ?_, fun k => w (Mem.havoc_wf _ _ _ _ _ k)⟩
    · simpa only [State.havoc, List.foldl_cons] using h
    · exact (SameOutside.trans (Mem.sameOutside_havoc s.mem 64 r.1 r.2 s.free) o)

theorem State.dropSessions_shape (s : State) (f : Session → Bool) :
    ∃ m n q, s.dropSessions f = { s with mem := m, free := n, sessions := q } ∧ (Memory.wf s.mem = true → Memory.wf m = true) := by
  unfold State.dropSessions
  obtain ⟨m, n, h, _, w⟩ := State.havoc_shape ((s.sessions.filter f).map fun (q : Session) => (q.blk.state, q.blk.stateBytes)) s
  dsimp only
  rw [h]; exact ⟨m, n, _, rfl, w⟩

/-! ### Contexts -/

theorem State.landCore_shape (s : State) (x : Ctx) (k : Nat) (y : Core) : ∃ m c, s.landCore x k y = { s with mem := m, counters := c } := by
  unfold State.landCore
  obtain ⟨c, h⟩ := s.carryTo_shape (k / 64) (x.slotAddr k) slotBytes
  rw [h]; exact ⟨_, c, rfl⟩

theorem State.landCores_shape {α : Type} (x : Ctx) (c : Nat) : ∀ (l : List (Nat × Core × α)) (s : State), ∃ m k,
    l.foldl (fun s d => s.landCore x d.1 (d.2.1.saveImage c)) s = { s with mem := m, counters := k }
  | [], s => ⟨s.mem, s.counters, rfl⟩
  | d :: r, s => by
    obtain ⟨m, k, h⟩ := s.landCore_shape x d.1 (d.2.1.saveImage c)
    obtain ⟨m2, k2, h2⟩ := State.landCores_shape x c r (s.landCore x d.1 (d.2.1.saveImage c))
    rw [List.foldl_cons, h2, h]; exact ⟨m2, k2, rfl⟩

/-- A save changes the context, the memories, the outstanding reads and what settling a core's memory may. -/
theorem State.saveCtx_shape (s : State) (c : Nat) : ∃ a b h d e f t g k p x r, s.saveCtx c =
    { s with mem := a, dieBuf := b, hubMem := h, cores := d, dies := e, free := f, tx := t, mgmt := g, counters := k, pba := p, ctxs := x, reads := r } := by
  unfold State.saveCtx
  dsimp only
  generalize hw : s.withdraw c = s1
  have h1 : ∃ x, s1 = { s with ctxs := x } := ⟨_, hw.symm.trans rfl⟩
  clear hw
  generalize hf : List.foldl (fun (s : State) k => s.settleIn (.core k) _ none) s1 _ = s2
  have h2 : ∃ a b h d e f t g k p, s2 =
      { s1 with mem := a, dieBuf := b, hubMem := h, cores := d, dies := e, free := f, tx := t, mgmt := g, counters := k, pba := p } := by
    rw [← hf]; clear hf h1
    generalize List.filter _ _ = l
    induction l generalizing s1 with
    | nil => exact ⟨s1.mem, s1.dieBuf, s1.hubMem, s1.cores, s1.dies, s1.free, s1.tx, s1.mgmt, s1.counters, s1.pba, rfl⟩
    | cons x r ih =>
      rw [List.foldl_cons]
      generalize hz : State.settleIn s1 _ _ none = z
      obtain ⟨a, b, h, d, e, f, t, g, k, p, hx⟩ := State.settleIn_shape s1 (.core x) _ none
      rw [hz] at hx
      obtain ⟨a2, b2, h2, d2, e2, f2, t2, g2, k2, p2, hy⟩ := ih z
      rw [hy, hx]; exact ⟨a2, b2, h2, d2, e2, f2, t2, g2, k2, p2, rfl⟩
  clear hf
  generalize hd : (List.filterMap _ _ : List (Nat × Core × Bool × Option (Issued × Nat × (Nat × Nat × Word × Word × Word)))) = ds
  obtain ⟨m, k3, h3⟩ := State.landCores_shape (s2.ctx c) c ds
    { s2 with cores := s2.cores.map (Core.leave c), reads := s2.reads.filter fun q => !(q.ctx == c && !q.phase) }
  obtain ⟨x1, h1⟩ := h1
  obtain ⟨a, b, h, d, e, f, t, g, k, p, h2⟩ := h2
  rw [h3, h2, h1]
  exact ⟨_, _, _, _, _, _, _, _, _, _, _, _, rfl⟩

/-- A pre-emption is a save, the marks of the context and a count. -/
theorem State.preemptCtx_shape (s : State) (c : Nat) : ∃ a b h d e f t g k p x r, s.preemptCtx c =
    { s with mem := a, dieBuf := b, hubMem := h, cores := d, dies := e, free := f, tx := t, mgmt := g, counters := k, pba := p, ctxs := x, reads := r } := by
  unfold State.preemptCtx
  dsimp only
  split
  · exact ⟨s.mem, s.dieBuf, s.hubMem, s.cores, s.dies, s.free, s.tx, s.mgmt, s.counters, s.pba, s.ctxs, s.reads, rfl⟩
  · obtain ⟨a, b, h, d, e, f, t, g, k, p, x, r, hs⟩ := s.saveCtx_shape c
    rw [hs]; exact ⟨_, _, _, _, _, _, _, _, _, _, _, _, rfl⟩

/-- A fault changes the context, its cores, engines, sessions and requests, and makes the outputs of its commands undefined. -/
theorem State.faultCtx_shape (s : State) (c code : Nat) (uid : Option Nat) :
    ∃ m n q y e r w x, s.faultCtx c code uid =
      { s with mem := m, free := n, sessions := q, cores := y, engines := e, reads := r, writes := w, ctxs := x } ∧
        (Memory.wf s.mem = true → Memory.wf m = true) := by
  unfold State.faultCtx
  dsimp only
  split
  · exact ⟨s.mem, s.free, s.sessions, s.cores, s.engines, s.reads, s.writes, s.ctxs, rfl, id⟩
  · generalize (((s.ctx c).cmds.filter Cmd.active).flatMap _ ++ _ : List (Nat × Nat)) = outs
    obtain ⟨m, n, h, _, w⟩ := State.havoc_shape outs s
    rw [h]
    obtain ⟨m2, n2, q2, h2, w2⟩ := State.dropSessions_shape { s with mem := m, free := n } fun q => q.ctx == c
    rw [h2]
    exact ⟨m2, n2, q2, _, _, _, _, _, rfl, fun k => w2 (w k)⟩

/-- A live context that a fault takes is torn down. -/
theorem State.faultCtx_torn (s : State) (c code : Nat) (uid : Option Nat) (h : (s.ctx c).alive = true) :
    ((s.faultCtx c code uid).ctx c).torn = true := by
  have hc : c < s.ctxs.length := by
    apply Classical.byContradiction
    intro hn
    simp [State.ctx, List.getD_eq_getElem?_getD, List.getElem?_eq_none (Nat.le_of_not_lt hn), Ctx.alive] at h
  unfold State.faultCtx
  dsimp only
  rw [h]
  simp only [Bool.not_true, Bool.false_eq_true, if_false]
  generalize (((s.ctx c).cmds.filter Cmd.active).flatMap _ ++ _ : List (Nat × Nat)) = outs
  obtain ⟨m, n, e, _, _⟩ := State.havoc_shape outs s
  rw [e]
  obtain ⟨m2, n2, q2, e2, _⟩ := State.dropSessions_shape { s with mem := m, free := n } fun q => q.ctx == c
  rw [e2]
  simp [State.setCtx, State.ctx, hc]

/-- Only its own context's entry changes. -/
theorem State.faultCtx_other (s : State) (c code d : Nat) (uid : Option Nat) (h : d ≠ c) :
    (s.faultCtx c code uid).ctx d = s.ctx d := by
  unfold State.faultCtx
  dsimp only
  split
  · rfl
  · generalize (((s.ctx c).cmds.filter Cmd.active).flatMap _ ++ _ : List (Nat × Nat)) = outs
    obtain ⟨m, n, e, _, _⟩ := State.havoc_shape outs s
    rw [e]
    obtain ⟨m2, n2, q2, e2, _⟩ := State.dropSessions_shape { s with mem := m, free := n } fun q => q.ctx == c
    rw [e2]
    simp [State.setCtx, State.ctx, List.getD_eq_getElem?_getD, List.getElem?_set_ne (Ne.symm h)]

/-- A deadline-miss record is one write of the hub die, or nothing. -/
theorem State.missWrite_shape (s : State) (c d : Nat) (time : Tick) (seq : Word) (cnt wait kind core step stage : Nat) :
    s.missWrite c d time seq cnt wait kind core step stage = s ∨
      ∃ a bs, bs.length = 32 ∧ s.missWrite c d time seq cnt wait kind core step stage = s.hubWrite a bs false := by
  unfold State.missWrite
  split
  · exact .inl rfl
  · split
    · exact .inl rfl
    · exact .inr ⟨_, _, leBytes_length _ _, rfl⟩

/-- The trap changes its line in device memory, the context, its cores and landing, the host's structures. -/
theorem State.takeTrap_shape (s : State) (c op : Nat) (m : Cmd) (step : Option Nat) (rs rg : Nat) (n : NanSite) :
    ∃ a b h d e f t g k p x r z, s.takeTrap c op m step rs rg n =
      { s with mem := a, dieBuf := b, hubMem := h, cores := d, dies := e, free := f, tx := t, mgmt := g, counters := k, pba := p, ctxs := x, reads := r, dbg := z } := by
  unfold State.takeTrap
  dsimp only
  split
  · exact ⟨s.mem, s.dieBuf, s.hubMem, s.cores, s.dies, s.free, s.tx, s.mgmt, s.counters, s.pba, s.ctxs, s.reads, s.dbg, rfl⟩
  · rename_i b _
    generalize leBytes 64 _ = bs
    generalize hz : State.hubWrite s b.nanLine bs false = s1
    obtain ⟨a1, b1, c1, d1, e1, f1, t1, g1, k1, p1, z1, h1⟩ := s.hubWrite_shape b.nanLine bs false
    rw [hz] at h1
    generalize hs : State.saveCtx s1 c = s2
    obtain ⟨a2, b2, c2, d2, e2, f2, t2, g2, k2, p2, x2, r2, h2⟩ := State.saveCtx_shape s1 c
    rw [hs] at h2
    generalize hr : State.putRecord s2 c _ 6 0 0 0 _ = s3
    obtain ⟨t3, x3, h3⟩ := State.putRecord_shape s2 c { m with recStep := rs, recStage := rg } 6 0 0 0 s2.now
    rw [hr] at h3
    generalize hz : State.count _ _ 1 = z
    obtain ⟨t4, x4, k4, p4, h4⟩ := z.afterRecords_shape c
    rw [h4, ← hz, h3, h2, h1]
    exact ⟨_, _, _, _, _, _, _, _, _, _, _, _, _, rfl⟩

theorem State.ltrUpdate_shape (s : State) : ∃ t l, s.ltrUpdate = { s with tx := t, power := { s.power with ltrSent := l } } := by
  unfold State.ltrUpdate; split
  · exact ⟨s.tx, s.power.ltrSent, rfl⟩
  · exact ⟨_, _, rfl⟩

end Sys2Proof.Machine
end

