-- ==== Sys2Proof/WellFormed.lean ====
section
/-! DEFINITION. Well-formed commands: every operand in the range that the spec gives it (contexts 14 R366, cores and dies
01, ports and routes 15, engines 12, stacks and channels 11, register access widths 19 R494). -/

namespace Sys2Proof

/-- A context number: 0 to 63. -/
def ctxOk (c : Nat) : Bool := decide (c < 64)
/-- A core number: 0 to 255. -/
def coreOk (k : Nat) : Bool := decide (k < 256)
/-- A die number: 0 to 3. -/
def dieOk (d : Nat) : Bool := decide (d < 4)
/-- A Rolig port: 0 to 11. -/
def portOk (p : Nat) : Bool := decide (p < 12)
/-- A media engine: 36 of them, by kind. -/
def engineOk (e : Nat) : Bool := decide (e < 36)

/-- The owner of a ring. -/
def Agent.wf : Agent → Bool
  | .ctx c => ctxOk c
  | .mgmt => true

/-- Data of a host read of n bytes. -/
def HostData.wf (n : Nat) : HostData → Bool
  | .ok bs _ => bs.length == n
  | .failed => true

/-- The memory of a unit read. -/
def MemTarget.wf : MemTarget → Bool
  | .dram => true
  | .dieBuf d => dieOk d
  | .core k => coreOk k
  | .hub => true

/-- A request of another device: it lies in 48 bits of device address. -/
def RoligReq.wf : RoligReq → Bool
  | .read a n => decide (a + n ≤ 2 ^ 48)
  | .write a bs _ => decide (a + bs.length ≤ 2 ^ 48)
  | .add a _ => decide (a + 4 ≤ 2 ^ 48)

/-- Is a command well formed. -/
def Instr.wf : Instr → Bool
  | .matmul c _ | .chain c _ | .attend c _ | .conv c _ | .pool c _ | .posy c _ | .reduceFold c _ | .reduceRowstat c _
  | .reduceClover c _ | .reduceTranspose c _ | .ferry c _ | .fill c _ | .noise c _ | .steplist c _ | .wupd c _
  | .tableLoad c _ | .slipwaySignal c _ | .slipwayWait c _ | .fenceContext c _ => ctxOk c
  | .fenceRing a _ | .timestamp a _ => a.wf
  | .hintLatency | .snapshot | .cfgCheck | .cfgApply => true
  | .sessionOpen c _ | .sessionClose c _ | .decode c _ | .encode c _ | .jpegDec c _ | .jpegEnc c _ | .scale c _ => ctxOk c
  | .create c block wins => ctxOk c && block.wf 256 && wins.wf 512
  | .destroy c | .preempt c | .resume c => ctxOk c
  | .debugStop c | .debugResume c => ctxOk c
  | .debugStep c n => ctxOk c && decide (n < 2 ^ 16)
  | .debugEnWrite _ | .testEnWrite _ | .svnCommit _ | .svnCommitDone | .recoveryGo _ | .recoveryLoadDone _ | .pwrWake _
  | .eccArm _ | .nanArm _ => true
  | .mgmtEnableWrite _ wins => wins.wf 512
  | .dieEccCountRead d | .eccLogClear d _ => dieOk d
  | .telTimeLoRead | .cfgApplyTimeLoRead | .timeHiRead _ => true
  | .dbgWindowRead off _ => decide (off < 4096)
  | .registerWrite off width _ => decide (off < 2 ^ 24) && (width == 1 || width == 2 || width == 4 || width == 8)
  | .bar2Read _ n => decide (0 < n)
  | .bar2Write _ data _ => !data.isEmpty
  | .configRequest | .doorbellPoll => true
  | .doorbellRead a line => a.wf && line.wf 64
  | .descriptorFetched a r d => a.wf && decide (r < 8) && d.wf 64
  | .commandValidate c _ _ => ctxOk c
  | .mgmtDescriptorStart => true
  | .completionRecordWrite c _ => ctxOk c
  | .irqDelayExpiry c => ctxOk c
  | .statusLineRefresh a => a.wf
  | .tilePlace c | .sliceExpiry c => ctxOk c
  | .preemptSaveDone e => ctxOk e.ctx && (match e.par with | some p => coreOk p.1 | none => true)
  | .ferryFillDone k _ | .weightLoadDone k | .matrixIssue k _ | .accumulatorUpdate k _ | .resultRowCopy k _
  | .holdExpiry k | .rampPhaseEnd k | .posyRunStart k | .posyInstruction k _ | .lateDataMiss k _ => coreOk k
  | .teardownComplete c => ctxOk c
  | .memoryRead m _ _ user => m.wf && (match user with | some c => ctxOk c | none => true)
  | .memoryWriteHome => true
  | .scrubRead d _ => dieOk d
  | .refresh stack ch => decide (stack < 24) && decide (ch < 32)
  | .stageExecutionStart c _ _ | .stageExecutionDone c _ _ | .pinCopyDone c _ | .stepComplete c _ _ | .stepBudgetCheck c _ _
  | .deadlineCheck c _ => ctxOk c
  | .codecUnitStart e | .codecUnitDone e => engineOk e
  | .powerSample rails => rails.length == 6
  | .thermalUpdate junc stack _ => junc.length == 4 && stack.length == 4
  | .avsUpdate ans => ans.length == 6
  | .avsFaultClear | .ptmDialogue _ | .idleEntry | .wakeEvent | .stateExitDone | .perstDeassert | .deviceReady | .reset _
  | .functionLevelReset | .pwrgdDeassert | .watchdogFire _ | .cfgApplyDecision _ | .cfgApplyCommit | .snapshotLatch => true
  | .portTrain p lanes peer peerPort => portOk p && decide (lanes < 2 ^ 9) && decide (peer.board < 16) && decide (peerPort < 12)
  | .portRetry p | .flitReceive p _ _ | .ackTimeout p => portOk p
  | .boardConfigure | .timeExchange _ => true
  | .roligInboundRequest src r => decide (src < 16) && r.wf
  | .remoteAck _ _ _ | .remoteTimeout | .hostReadCompletion _ | .hostReadTimeout | .atsInvalidation => true
  | .ideKm stream _ | .ideLeaveSecure stream => decide (stream < 256)
  | .challenge _ => true
  | .getMeasurements _ index _ => decide (index < 256)
  | .keyExchange _ | .respondIfReady _ | .slhDsaSignDone | .sidebandRequest _ | .jtagInstruction _ | .heartbeat
  | .chunkGet _ => true

end Sys2Proof
end

