-- ==== Sys2Proof/Tests/Slice0.lean ====
section
/-! SUPPORT. Tests. First each check of WellFormed refuses an ill-formed command; then small runs with results worked out from
the spec; then, for each statement with hypotheses, a state and operands that meet them (test_<statement>_<case>). -/

namespace Sys2Proof.Tests

open Sys2Proof Sys2Proof.Machine

/-! ### Well-formed commands -/

theorem test_wf_good : Instr.wf (.matmul 63 0) = true ∧ Instr.wf (.registerWrite 0x40000 4 0) = true := by decide
theorem test_wf_ctx : Instr.wf (.matmul 64 0) = false ∧ Instr.wf (.destroy 64) = false := by decide
theorem test_wf_agent : Instr.wf (.fenceRing (.ctx 64) 0) = false := by decide
theorem test_wf_core : Instr.wf (.matrixIssue 256 false) = false := by decide
theorem test_wf_die : Instr.wf (.scrubRead 4 0) = false := by decide
theorem test_wf_port : Instr.wf (.portRetry 12) = false := by decide
theorem test_wf_peer : Instr.wf (.portTrain 0 8 ⟨16, 0, []⟩ 0) = false ∧ Instr.wf (.portTrain 0 8 ⟨0, 0, []⟩ 12) = false := by decide
theorem test_wf_engine : Instr.wf (.codecUnitStart 36) = false := by decide
theorem test_wf_channel : Instr.wf (.refresh 24 0) = false ∧ Instr.wf (.refresh 0 32) = false := by decide
theorem test_wf_line : Instr.wf (.doorbellRead .mgmt (.ok [0] false)) = false := by decide
theorem test_wf_ring : Instr.wf (.descriptorFetched (.ctx 0) 8 .failed) = false := by decide
theorem test_wf_block : Instr.wf (.create 0 (.ok [] false) .failed) = false := by decide
theorem test_wf_wins : Instr.wf (.mgmtEnableWrite 1 (.ok [] false)) = false := by decide
theorem test_wf_width : Instr.wf (.registerWrite 0 3 0) = false ∧ Instr.wf (.registerWrite (2 ^ 24) 4 0) = false := by decide
theorem test_wf_window : Instr.wf (.dbgWindowRead 4096 false) = false := by decide
theorem test_wf_steps : Instr.wf (.debugStep 0 65536) = false := by decide
theorem test_wf_bar2 : Instr.wf (.bar2Read 0 0) = false ∧ Instr.wf (.bar2Write 0 [] false) = false := by decide
theorem test_wf_mem : Instr.wf (.memoryRead (.dieBuf 4) 0 0 none) = false ∧ Instr.wf (.memoryRead .dram 0 0 (some 64)) = false := by decide
theorem test_wf_rails : Instr.wf (.powerSample []) = false ∧ Instr.wf (.thermalUpdate [] [] 0) = false ∧ Instr.wf (.avsUpdate []) = false := by decide
theorem test_wf_rolig : Instr.wf (.roligInboundRequest 16 (.read 0 1)) = false ∧
    Instr.wf (.roligInboundRequest 0 (.read (2 ^ 48) 1)) = false := by decide
theorem test_wf_stream : Instr.wf (.ideKm 256 true) = false := by decide
theorem test_wf_index : Instr.wf (.getMeasurements .doe 256 false) = false := by decide

/-! ### Small states -/

/-- A context block: rings of 64 entries, 64 completion slots, a NaN trap line, 16 deadline-miss records. -/
def blkT : CtxBlock :=
  { cqBase := 0x100000, dbAddr := 0x2000, land := [0x10000000, 0x20000000, 0x30000000, 0x40000000], nanLine := 0x4000, dlmBase := 0x8000
    hwinAddr := 0, cseq0 := 5, slice := 0, delay := 10, dbaOff := 0, dbaLen := 0, slots := 0, bcoreFirst := 0, bcoreCount := 0
    vector := 3, count := 1, logNc := 6, logDlm := 4, prio := 0, home := 0, relaxed := false, bounded := false, nanEn := true
    tblRight := true }

def ringT : Ring := { en := true, base := 0x300000, logN := 6, tail := 1 }

def winT : HWin := { base := 0, limit := 2 ^ 40, pasid := 0, pasidEn := false, prefetch := false, read := true, write := true }

def ctxT (cmds : List Cmd) : Ctx :=
  { live := true, blk := some blkT, hwins := [winT], rings := List.replicate 8 ringT, cmds := cmds, nextCseq := 5, cqHead := 5
    reserved := cmds.length, nextUid := cmds.length, armed := true }

/-- A command with a job. -/
def cmdT (op : Nat) (j : Option Job) (ph : Phase) : Cmd :=
  { uid := 0, ring := 0, seq := 0, tag := 7, opcode := op, irq := true, desc := 0, poisoned := false, phase := ph, job := j
    banks := [0, 0, 0] }

/-- The reset state with these contexts. -/
def stT (xs : List Ctx) : State := { State.reset with ctxs := xs }

/-- One context with one checked command. -/
def oneT (op : Nat) (w : Work) : State := stT [ctxT [cmdT op (some (.work w)) .checked]]

/-! ### Small runs -/

/-- R25, R35: 1.5 in E4M3 is 0x3C; 448 is the largest, and 1,000 overflows to it in E2M1 as 6 (code 7). -/
theorem test_formats : encodeElem .e4m3 (f32 0x3FC00000) = 0x3C ∧ encodeElem .e4m3 (f32 0x43E00000) = 0x7E ∧
    encodeElem .e2m1 (f32 0x447A0000) = 7 := by decide

/-- R44: 1 + 2 = 3, and 1 + (-1) = +0. -/
theorem test_fadd : fadd 0x3F800000 0x40000000 = 0x40400000 ∧ fadd 0x3F800000 0xBF800000 = 0 := by decide

/-- A step takes the front of the queue. -/
theorem test_step : (match step { State.reset with pending := [.heartbeat] } with
    | .next t => t.boot.heartbeat == 1 && t.pending == [] | _ => false) = true := by decide

/-- R478: BAR2 stores bytes at its base. -/
theorem test_bar2 : (match exec (.bar2Write 8 [1, 2, 3] false) State.reset with
    | .next t => t.mem.read 8 3 == [1, 2, 3] | _ => false) = true := by decide

/-- R361: a signal adds to its counter. -/
theorem test_signal : (match exec (.slipwaySignal 0 0) (oneT 0x10 (.signal 0x40 5)) with
    | .next t => t.slip 0x40 == 5 | _ => false) = true := by decide

/-! ### Witnesses: the queue, registers, windows -/

theorem test_StepRunsFrontCommand : ({ State.reset with pending := [.heartbeat] } : State).pending = .heartbeat :: [] := rfl

theorem test_IdleStep : State.reset.pending = [] ∧ State.reset.up = true ∧ State.reset.power.cur ≠ 4 := by decide
theorem test_IdleStep_a4 : ({ State.reset with power := { cur := 4 } } : State).power.cur = 4 := rfl

/-- The invariants hold at reset, and a step is taken from it (PermitsKept, TestQuietKept, SizesAndCountsKept,
MemoryCanonicalKept). -/
theorem test_invariants : State.reset.Permitted ∧ State.reset.TestQuiet ∧ State.reset.Shaped ∧ State.reset.CountsFit ∧
    State.reset.Canonical ∧ ∃ t, step State.reset = .next t := by
  refine ⟨⟨by decide, by decide⟩, fun _ => by decide, ⟨List.length_replicate, List.length_replicate, rfl, rfl, List.length_replicate, List.length_replicate, List.length_replicate⟩, by unfold State.CountsFit; decide, ?_, _, rfl⟩
  exact ⟨by decide, by decide⟩

/-- They hold too with debug and test mode on, and with bytes in memory. -/
theorem test_invariants_on :
    let s : State := { State.reset with dbg := { dbgEn := true, tstEn := true }, mem := { cells := [(3, 7)] }
                                        boot := { State.reset.boot with debugPermit := true, testPermit := true } }
    s.Permitted ∧ s.Canonical := ⟨⟨by decide, by decide⟩, by decide, by decide⟩

theorem test_ConfigAndWake : State.reset.up = true ∧ ({ State.reset with power := { cur := 2 } } : State).power.cur ≠ 0 := by decide
theorem test_ConfigAndWake_life : ({ State.reset with boot := { life := .recovery } } : State).boot.life = .recovery ∧
    ({ State.reset with boot := { life := .flr } } : State).boot.life = .flr := by decide

theorem test_RegisterBlock_width : State.reset.up = true ∧ ¬ ((2 : Nat) = 4 ∧ 0x10000 % 4 = 0) ∧
    ¬ (isMsix 0x10000 = true ∧ (2 : Nat) = 8 ∧ 0x10000 % 8 = 0) := by decide
theorem test_RegisterBlock_unlisted : listedOffset 0x4001C = false ∧ 0x4001C % 4 = 0 ∧ listedOffset 0x40018 = true := by decide
theorem test_RegisterBlock_unmask : ({ State.reset with pba := [2047] } : State).hostUp = true ∧ NatSet.mem 2047 [2047] = true := by decide
theorem test_RegisterBlock_silent : ({ State.reset with boot := { life := .ready, fired := true } } : State).boot.fired = true ∧
    secBlock 0x40000 = false ∧ 0x40000 % 4 = 0 := by decide

theorem test_ReadSideEffects : State.reset.up = true ∧ State.reset.tbValid = true ∧ 3 < State.reset.dies.length := by decide
theorem test_ReadSideEffects_counts : State.reset.CountsFit := by unfold State.CountsFit; decide

theorem test_Bar2Window : State.reset.up = true ∧ State.reset.bar2Up = true ∧ State.reset.bar2Base + 8 + 3 ≤ devTop ∧
    (∀ i < 3, State.reset.landingAt (State.reset.bar2Base + 8 + i) = none) := by decide
theorem test_Bar2Window_above : devTop < State.reset.bar2Base + devTop + 1 := by decide
theorem test_Bar2Window_landing : ((stT [ctxT []]).landingAt ((stT [ctxT []]).bar2Base + 0x10000000 + 0)).isSome = true ∧
    (stT [ctxT []]).bar2Up = true ∧ (stT [ctxT []]).dbg.dbgEn = false := by decide

/-! ### Witnesses: debug, test, boot -/

/-- Debug mode with one live context. -/
def dbgT (x : Ctx) (cores : List Core) : State := { stT [x] with dbg := { dbgEn := true }, cores := cores }

/-- A tile command of command 0 of context 0. -/
def tileT : TileCmd :=
  { ctx := 0, uid := 0, exec := none, num := 0, box := [(0, 1), (0, 1), (0, 1), (0, 1)], part := 0, home := 0, regions := [] }

theorem test_DebugStop : let s := dbgT (ctxT []) []
    s.up = true ∧ s.dbg.dbgEn = true ∧ (s.ctx 0).live = true ∧ (s.ctx 0).halted = false ∧ (s.ctx 0).torn = false ∧
      (s.ctx 0).saving = false := by decide
theorem test_DebugStop_err : (dbgT { ctxT [] with halted := true } []).dbg.dbgEn = true ∧
    ((dbgT { ctxT [] with halted := true } []).ctx 0).halted = true ∧ ((dbgT {} []).ctx 0).live = false ∧
    State.reset.dbg.dbgEn = false := by decide
theorem test_DebugResumeStep : let s := dbgT { ctxT [] with dbgStopped := true } [{ run := some tileT, dbgStop := true }]
    s.up = true ∧ s.dbg.dbgEn = true ∧ (s.ctx 0).dbgStopped = true ∧ (s.cores.any fun y => y.runsFor 0) = true := by decide
theorem test_DebugResumeStep_none : ((dbgT { ctxT [] with dbgStopped := true } []).cores.any fun y => y.runsFor 0) = false := by decide

theorem test_DebugEnableArmWindow : let s : State := { State.reset with boot := { debugPermit := true, testPermit := true } }
    s.up = true ∧ s.boot.debugPermit = true ∧ s.dbg.dbgEn = false ∧ (s.core 0).dbgStop = false ∧ (4092 : Nat) < 4096 ∧ 4092 % 4 = 0 := by
  decide
theorem test_DebugEnableArmWindow_stopped : (({ State.reset with cores := [{ dbgStop := true }] } : State).core 0).dbgStop = true ∧
    (dbgT (ctxT []) []).dbg.dbgEn = true ∧ ({ State.reset with dbg := { tstEn := true } } : State).dbg.tstEn = true := by decide
theorem test_TestMode : State.reset.up = true ∧ State.reset.dbg.tstEn = false ∧ State.reset.boot.testPermit = false ∧
    ({ State.reset with boot := { testPermit := true } } : State).boot.testPermit = true ∧
    ({ State.reset with dbg := { tstEn := true } } : State).dbg.tstEn = true := by decide

theorem test_Resets : State.reset.boot.life = .ready ∧ State.reset.boot.perstN = true ∧
    ({ State.reset with boot := { perstN := false, life := .held } } : State).boot.perstN = false ∧ ResetCause.hot ≠ .perst := by decide
theorem test_Resets_flr : State.reset.up = true ∧ ({ State.reset with boot := { life := .flr } } : State).boot.life = .flr ∧
    ({ State.reset with boot := { life := .booting } } : State).boot.life = .booting := by decide

theorem test_Watchdog : State.reset.up = true ∧ State.reset.now.toNat - State.reset.boot.lastBeat.toNat < 50000000 ∧
    50000000 ≤ ({ State.reset with now := 50000000 } : State).now.toNat - State.reset.boot.lastBeat.toNat := by decide
theorem test_Svn : State.reset.boot.life = .ready ∧ (0x53560001 : Word).toNat / 65536 = 0x5356 ∧ State.reset.boot.svnTarget = none ∧
    State.reset.boot.imageSvn ≤ 128 ∧ Cells.wf 0 State.reset.boot.otp = true ∧
    ({ State.reset with boot := { State.reset.boot with svnTarget := some 1 } } : State).boot.svnTarget = some 1 := by decide
theorem test_Recovery : ({ State.reset with boot := { life := .recovery, stage := 2 } } : State).boot.stage = 2 ∧
    (0x1001 : Word).getLsbD 0 = true ∧ ({ State.reset with boot := { life := .recovery, stage := 3 } } : State).boot.stage = 3 := by decide

/-! ### Witnesses: management ring and configuration -/

/-- The management ring in use with one running descriptor. -/
def mgmtT (op desc : Nat) : State :=
  { State.reset with
    mgmtCtrl := 0x61, msix := [(3, 0)]
    mgmt := { active := true, base := 0x10000, logN := 6, running := some { seq := 0, opcode := op, desc := desc, start := 0 }, reserved := 1 } }

theorem test_Management_enable : let v : Word := 0x41
    State.reset.up = true ∧ v.getLsbD 0 = true ∧ State.reset.mgmtCtrl.getLsbD 0 = false ∧ 4 ≤ bits v.toNat 7 4 ∧ bits v.toNat 7 4 ≤ 12 := by
  decide
theorem test_Management_range : bits (0xD1 : Word).toNat 7 4 = 13 ∧ bits (0x31 : Word).toNat 7 4 = 3 ∧ (0x40 : Word).getLsbD 0 = false := by
  decide
theorem test_Management_start :
    let s : State := { State.reset with mgmt := { active := true, fetched := some { seq := 0, opcode := 0x12, desc := 0, start := 0 } } }
    s.awake = true ∧ s.mgmt.fetched = some { seq := 0, opcode := 0x12, desc := 0, start := 0 } ∧ s.mgmt.running = none := by decide
theorem test_Management_running : (mgmtT 0x14 0).awake = true ∧ (mgmtT 0x14 0).mgmt.running ≠ none ∧
    (mgmtT 0x14 0).mgmt.running = some { seq := 0, opcode := 0x14, desc := 0, start := 0 } := by decide
theorem test_Management_done : (mgmtT 0x14 0).hostUp = true ∧
    ((mgmtT 0x14 0).msixWord (bits (mgmtT 0x14 0).mgmtCtrl.toNat 18 8 * 4 + 3)).toNat % 2 = 0 := by decide

/-- SNAPSHOT of group 1 (GROUPS = 2) at T to address 0. -/
def snapDesc (t : Nat) (groups : Nat) : Nat := t * 2 ^ 256 + groups * 2 ^ 240

theorem test_Snapshot : (mgmtT 0x18 (snapDesc 2000 2)).mgmtRun 0x18 =
      some { seq := 0, opcode := 0x18, desc := snapDesc 2000 2, start := 0 } ∧
    bits (snapDesc 2000 2) 319 256 = 2000 ∧ bits (snapDesc 2000 2) 255 240 = 2 ∧ bits (snapDesc 2000 2) 383 320 = 0 := by decide
theorem test_Snapshot_early : bits (snapDesc 1999 2) 319 256 < 0 + 2000 ∧ bits (snapDesc 2000 3) 255 240 % 2 = 1 := by decide
theorem test_Snapshot_latch :
    let q : Snap := { time := 5, seq := 0, groups := 2, addr := 0, host := false }
    let s : State := { mgmtT 0x18 0 with snap := some q, now := 5 }
    s.snap = some q ∧ s.awake = true ∧ q.time.toNat ≤ s.now.toNat ∧ q.host = false := by decide

theorem test_StageCheck : State.reset.up = true ∧ (mgmtT 0x19 0).mgmtRun 0x19 = some { seq := 0, opcode := 0x19, desc := 0, start := 0 } ∧
    bits 0 383 320 = 0 := by decide
theorem test_Commit :
    let w : Shadow := { time := 3000, cfg := Cfg.reset, decided := false }
    let s : State := { State.reset with shadow := some w, now := 1000 }
    s.shadow = some w ∧ s.up = true ∧ w.decided = false ∧ w.time.toNat ≤ s.now.toNat + 2000 ∧ s.now.toNat < w.time.toNat := by decide
theorem test_Commit_now :
    let w : Shadow := { time := 3000, cfg := Cfg.reset, decided := true }
    ({ State.reset with shadow := some w, now := 3000 } : State).shadow = some w ∧ w.time.toNat ≤ (3000 : Tick).toNat := by decide
theorem test_CfgApply : (mgmtT 0x1A 0).mgmtRun 0x1A = some { seq := 0, opcode := 0x1A, desc := 0, start := 0 } ∧
    (mgmtT 0x1A 0).cfgClean = false ∧ (mgmtT 0x1A 0).conflicts = [] ∧ bits (490001 * 2 ^ 320) 383 320 = 490001 := by decide
theorem test_CfgApply_conflict :
    ({ mgmtT 0x1A 0 with cfgClean := true, staged := { Cfg.reset with memMap := 3 } } : State).conflicts ≠ [] := by decide

/-! ### Witnesses: contexts -/

/-- A context operation that waits in CTX_OP. -/
def opT (op : Nat) (x : Ctx) : State := { stT [x] with opBusy := true, opHeld := some (BitVec.ofNat 32 op) }

/-- A block of 256 bytes that CREATE takes: its fields by Table 14.1, ring 0 in use by Table 14.2. -/
def blockBytes : List Byte :=
  List.replicate 30 0 ++ leBytes 4 0x132000 ++ List.replicate 38 0 ++ leBytes 8 0x4000 ++ leBytes 8 0x47B8000000 ++
    leBytes 8 0x2FD0000000 ++ leBytes 8 0x17F0000000 ++ leBytes 8 0x10000000 ++ leBytes 8 0x2000 ++ leBytes 8 0x100000 ++
    leBytes 8 0x32000000 ++ leBytes 8 0x300000 ++ List.replicate 112 0

theorem test_Create : (opT 1 {}).opIs 1 0 = true ∧ (opT 1 {}).hostUp = true ∧ ((opT 1 {}).ctx 0).live = false ∧ 0 < (opT 1 {}).ctxs.length ∧
    (opT 1 (ctxT [])).opIs 1 0 = true ∧ ((opT 1 (ctxT [])).ctx 0).live = true := by decide
set_option maxRecDepth 8000 in
theorem test_Create_block :
    let b := blockOf (leNat (blockBytes.take 128))
    let rs := (List.range 8).map fun r => leNat ((blockBytes.drop (128 + 16 * r)).take 16)
    blockBytes.length = 256 ∧ b.hwinAddr = 0 ∧ (opT 1 {}).createCode (leNat (blockBytes.take 128)) b (rs.map ringOf) rs = 0 := by decide
/-- The same block without a completion area of 64 slots or more. -/
theorem test_Create_bad : (opT 1 {}).createCode 0 { blkT with logNc := 5 } [ringT] [] = 0x304 := by decide
theorem test_Destroy : (opT 2 (ctxT [])).opIs 2 0 = true ∧ ((opT 2 (ctxT [])).ctx 0).live = true ∧ ((opT 2 (ctxT [])).ctx 0).halted = false ∧
    ((opT 2 (ctxT [])).ctx 0).anyActive = false ∧ ((opT 2 (ctxT [])).ctx 0).teardown = none ∧ ((opT 2 {}).ctx 0).live = false := by decide
theorem test_Preempt : (opT 3 (ctxT [])).opIs 3 0 = true ∧ ((opT 3 (ctxT [])).ctx 0).live = true ∧ ((opT 3 (ctxT [])).ctx 0).halted = false ∧
    ((opT 3 (ctxT [])).ctx 0).torn = false ∧ ((opT 3 (ctxT [])).ctx 0).saving = false ∧ ((opT 3 (ctxT [])).ctx 0).preempted = false := by decide
theorem test_Preempt_others : ((opT 3 { ctxT [] with preempted := true }).ctx 0).preempted = true ∧
    ((opT 3 { ctxT [] with halted := true }).ctx 0).halted = true ∧ ((opT 3 { ctxT [] with saving := true }).ctx 0).saving = true ∧
    (opT 3 (ctxT [])).up = true := by decide
theorem test_Resume :
    let x := { ctxT [cmdT 1 none .trapped] with halted := true }
    (opT 4 x).opIs 4 0 = true ∧ ((opT 4 x).ctx 0).live = true ∧ ((opT 4 x).ctx 0).halted = true ∧ ((opT 4 x).ctx 0).slotFree = true ∧
      ((opT 4 x).ctx 0).blk = some blkT := by decide
theorem test_Resume_full : ((opT 4 { ctxT [] with halted := true, reserved := 64 }).ctx 0).slotFree = false ∧
    ((opT 4 (ctxT [])).ctx 0).halted = false := by decide

theorem test_Slice :
    let x := { ctxT [] with sliceStart := some 0, sliceLen := 2000000 }
    let s : State := { stT [x] with cores := [{ run := some tileT }], now := 2000000 }
    (s.ctx 0).sliceStart = some 0 ∧ (s.ctx 0).bounded = false ∧ s.up = true ∧ (s.ctx 0).runs = true ∧ s.holds 0 = true ∧
      (s.ctx 0).sliceLen ≤ s.now.toNat - (0 : Tick).toNat ∧ s.rival 0 = false ∧ (s.ctx 0).debt < (s.ctx 0).slice := by decide
theorem test_Slice_before : ({ stT [{ ctxT [] with sliceStart := some 0, sliceLen := 5 }] with now := 4 } : State).now.toNat - (0 : Tick).toNat < 5 := by
  decide
theorem test_Teardown : (stT [{ ctxT [] with torn := true, teardown := some (0x310, 4, none) }]).teardownReady 0 = true ∧
    (stT [ctxT []]).teardownReady 0 = false := by decide

/-! ### Witnesses: rings and records -/

theorem test_Doorbell : (stT [ctxT []]).hostUp = true ∧ ((stT [ctxT []]).ctx 0).alive = true ∧ (List.replicate 64 (0 : Byte)).length = 64 ∧
    (((stT [ctxT []]).ctx 0).ring 7).en = true ∧ 7 < ((stT [ctxT []]).ctx 0).rings.length ∧ (stT [ctxT []]).power.cur ≠ 4 ∧
    (stT [ctxT []]).tx = [] := by decide
theorem test_Doorbell_clauses :
    let x := { ctxT [] with nextCseq := 7 }
    ((7 : Word) - x.cqHead).toNat ≤ (x.nextCseq - x.cqHead).toNat ∧ (x.nextCseq - x.cqHead).toNat < ((8 : Word) - x.cqHead).toNat ∧
      ((64 : Word) - (x.ring 0).e).toNat ≤ 2 ^ (x.ring 0).logN ∧ 2 ^ (x.ring 0).logN < ((65 : Word) - (x.ring 0).e).toNat := by decide
theorem test_Doorbell_mgmt : (mgmtT 0 0).hostUp = true ∧ (mgmtT 0 0).mgmt.active = true ∧
    ({ State.reset with power := { cur := 4 } } : State).hostUp = true := by decide
theorem test_Fetch : (stT [ctxT []]).hostUp = true ∧ ((stT [ctxT []]).ctx 0).nextRing = some 0 ∧ ((stT [ctxT []]).ctx 0).runs = true ∧
    ((stT [ctxT []]).ctx 0).preempted = false ∧ 0 < ((stT [ctxT []]).ctx 0).rings.length ∧
    (BitVec.ofNat 32 (bits (leNat (List.replicate 64 0)) 511 480) : Word) = (((stT [ctxT []]).ctx 0).ring 0).e := by decide
theorem test_Fetch_sequence :
    (BitVec.ofNat 32 (bits (leNat (List.replicate 63 (0 : Byte) ++ [1])) 511 480) : Word) ≠ (((stT [ctxT []]).ctx 0).ring 0).e := by decide

/-- A FENCE of ring scope as fetched. -/
def fenceCmd : Cmd := { cmdT 0x12 none .fetched with desc := 0x12 * 2 ^ 236 * 2 ^ 236 }

theorem test_Validation : (stT [ctxT [fenceCmd]]).validTurn 0 0 fenceCmd = true ∧ fenceCmd.poisoned = false ∧
    lowest ((stT [ctxT [fenceCmd]]).descFails 0 (((stT [ctxT [fenceCmd]]).ctx 0).descPlace fenceCmd) fenceCmd.desc) = none ∧
    (stT [ctxT [fenceCmd]]).needsHost fenceCmd.desc = false ∧ (stT [ctxT [fenceCmd]]).mem.latent = [] := by decide
theorem test_Validation_ok : ((stT [ctxT [fenceCmd]]).check 0 fenceCmd.desc []).verdict = .ok (.work (.fence false)) ∧
    ((stT [ctxT [fenceCmd]]).ctx 0).copies + ((((stT [ctxT [fenceCmd]]).check 0 fenceCmd.desc []).reads.map fun r => r.2).foldl (fun a b => a + b) 0 +
      ((stT [ctxT [fenceCmd]]).check 0 fenceCmd.desc []).extra) ≤ copyArea := by decide
theorem test_Validation_bad : (stT [ctxT [cmdT 0xFF none .fetched]]).validTurn 0 0 (cmdT 0xFF none .fetched) = true ∧
    lowest ((stT [ctxT [cmdT 0xFF none .fetched]]).descFails 0 .compute 0) = some (0x0200, 0, 0) := by decide
theorem test_Validation_poisoned : { fenceCmd with poisoned := true }.poisoned = true ∧
    (stT [ctxT [{ fenceCmd with poisoned := true }]]).validTurn 0 0 { fenceCmd with poisoned := true } = true := by decide

theorem test_Records : let m := cmdT 0x12 (some (.work (.fence false))) (.written 3)
    ((stT [ctxT [m]]).ctx 0).cmd? 0 = some m ∧ m.phase = .written 3 ∧ (stT [ctxT [m]]).hostUp = true ∧ ((stT [ctxT [m]]).ctx 0).alive = true ∧
      ((stT [ctxT [m]]).ctx 0).recordTurn 0 m = true ∧ ((stT [ctxT [m]]).ctx 0).blk = some blkT := by decide
theorem test_Interrupts :
    let x := { ctxT [] with irqOldest := some 0, irqCount := 1, lineDirty := true }
    (stT [x]).hostUp = true ∧ ((stT [x]).ctx 0).irqOldest = some 0 ∧ blkT.count ≤ ((stT [x]).ctx 0).irqCount ∧
      ((stT [x]).msixWord (blkT.vector * 4 + 3)).toNat % 2 = 1 ∧ (({ stT [x] with msix := [(15, 0)] } : State).msixWord (blkT.vector * 4 + 3)).toNat % 2 = 0 ∧
      ((stT [x]).ctx 0).lineDirty = true := by decide

/-! ### Witnesses: order -/

theorem test_Fence : (oneT 0x12 (.fence false)).ready 0 = true ∧
    (oneT 0x12 (.fence false)).Holds 0 0 (cmdT 0x12 (some (.work (.fence false))) .checked) (.fence false) ∧
    ((oneT 0x12 (.fence false)).ctx 0).allEarlier 0 (cmdT 0x12 (some (.work (.fence false))) .checked) = true := ⟨by decide, ⟨rfl, rfl⟩, by decide⟩
theorem test_Fence_context : (oneT 0x12 (.fence true)).Holds 0 0 (cmdT 0x12 (some (.work (.fence true))) .checked) (.fence true) ∧
    (((oneT 0x12 (.fence true)).ctx 0).cmds.take 0).all Cmd.finished = true := ⟨⟨rfl, rfl⟩, by decide⟩
theorem test_Fence_waits :
    let e := cmdT 0x12 none .fetched
    let m : Cmd := { cmdT 0x12 (some (.work (.fence true))) .checked with uid := 1 }
    let s := stT [ctxT [e, m]]
    s.Holds 0 1 m (.fence true) ∧ ((s.ctx 0).cmds.take 1).all Cmd.finished = false ∧ (s.ctx 0).allEarlier 1 m = false ∧ s.ready 0 = true :=
  ⟨⟨rfl, rfl⟩, by decide, by decide, by decide⟩
theorem test_Fence_mgmt : (mgmtT 0x12 0).mgmt.running = some { seq := 0, opcode := 0x12, desc := 0, start := 0 } := rfl
theorem test_Timestamp : (oneT 0x13 (.stamp 64 false)).Holds 0 0 (cmdT 0x13 (some (.work (.stamp 64 false))) .checked) (.stamp 64 false) ∧
    (oneT 0x13 (.stamp 64 false)).place 64 = .here 64 ∧ (oneT 0x13 (.stamp 64 false)).ready 0 = true ∧
    ((oneT 0x13 (.stamp 64 false)).ctx 0).allEarlier 0 (cmdT 0x13 (some (.work (.stamp 64 false))) .checked) = true :=
  ⟨⟨rfl, rfl⟩, by decide, by decide, by decide⟩
theorem test_Timestamp_host : (oneT 0x13 (.stamp 64 true)).Holds 0 0 (cmdT 0x13 (some (.work (.stamp 64 true))) .checked) (.stamp 64 true) ∧
    (oneT 0x13 (.stamp 64 true)).hostUp = true ∧ (oneT 0x13 (.stamp 64 true)).ready 0 = true := ⟨⟨rfl, rfl⟩, by decide, by decide⟩
theorem test_Timestamp_mgmt : (mgmtT 0x13 0).awake = true ∧ bit1 0 319 = false ∧ (mgmtT 0x13 0).place (bits 0 383 320) = .here 0 := by decide

/-- The reset state with memory and the die buffers empty is canonical. -/
theorem canonical_stT (xs : List Ctx) : (stT xs).Canonical := 
  ⟨rfl, (by decide : ∀ b ∈ ([{}, {}, {}, {}] : List Mem), Memory.wf b = true)⟩

theorem test_Signal : let m := cmdT 0x10 (some (.work (.signal 64 5))) .checked
    let s := oneT 0x10 (.signal 64 5)
    s.Holds 0 0 m (.signal 64 5) ∧ s.ready 0 = true ∧ m.phase = .checked ∧ (s.ctx 0).allEarlier 0 m = true ∧ s.place 64 = .here 64 ∧
      s.Canonical ∧ s.mem.poisoned 64 64 4 = false :=
  ⟨⟨rfl, rfl⟩, by decide, rfl, by decide, by decide, canonical_stT _, by decide⟩
/-- Board address of device 3, address 64. -/
def farT : Nat := 2 ^ 47 + 3 * 2 ^ 40 + 64
theorem test_Signal_far : let m := cmdT 0x10 (some (.work (.signal farT 5))) .checked
    let s : State := { oneT 0x10 (.signal farT 5) with boardStatus := 1, routes := List.replicate 16 { valid := true, via := 3, ports := 1 } }
    s.Holds 0 0 m (.signal farT 5) ∧ s.place farT = .there 3 64 ∧ s.routeOk 3 = true ∧ s.ready 0 = true ∧ (s.ctx 0).allEarlier 0 m = true :=
  ⟨⟨rfl, rfl⟩, by decide, by decide, by decide, by decide⟩
theorem test_Signal_early :
    let m : Cmd := { cmdT 0x10 (some (.work (.signal 64 5))) .checked with uid := 1 }
    let s := stT [ctxT [cmdT 0x12 none .fetched, m]]
    s.Holds 0 1 m (.signal 64 5) ∧ (s.ctx 0).allEarlier 1 m = false := ⟨⟨rfl, rfl⟩, by decide⟩
theorem test_Wait : let m := cmdT 0x11 (some (.work (.wait 64 0))) .checked
    let s := oneT 0x11 (.wait 64 0)
    s.Turn 0 0 m (.wait 64 0) ∧ s.place 64 = .here 64 ∧ s.mem.poisoned 64 64 4 = false ∧ (s.slip 64 - BitVec.ofNat 32 0).toNat < 2 ^ 31 ∧
      2 ^ 31 ≤ (s.slip 64 - BitVec.ofNat 32 1).toNat :=
  ⟨⟨⟨rfl, rfl⟩, by decide, by decide⟩, by decide, by decide, by decide, by decide⟩

/-! ### Witnesses: placement and compute -/

/-- A level that cuts nothing. -/
def levT (n : Nat) : Level :=
  { tm := 8, tn := 1024, tk := 64, tb := 1, ts0 := 1, ts1 := 1, ts2 := 1, order := [], level := n, aOff := 0, aDepth := 1, aGran := 0
    wOff := 64, wDepth := 1, wGran := 0, oOff := 32768, oDepth := 1, oGran := 0, slack := 0, dies := 0, orderRaw := [] }

/-- A MATMUL of two BF16 rows: M = 2, N = 1, K = 16, output at 4096. -/
def tbT : TileBlock :=
  { t3 := levT 3, t2 := levT 2, t1 := levT 1, act := { e0 := 16, e1 := 2 }, wt := { base := 1024, e0 := 16 }, out := { base := 4096, e1 := 2 }, part := none }

/-- An epilogue that stores its result: LD RES; ST. -/
def epiT : Posy := { kind := 1, code := [{ op := 0x30 }, { op := 0x31 }] }

def mmT : Cmd := { cmdT 0x01 (some (.work (.matmul tbT epiT none))) .checked with unplaced := [0] }
def mmS : State := stT [ctxT [mmT]]
def tileOfT : TileCmd := (mmS.tileOf 0 0 none 0).getD tileT

set_option maxRecDepth 8000 in
theorem test_TilePlacement : mmS.toPlace 0 = some (.tile 0 none 0) ∧ mmS.coreFor 0 (.tile 0 none 0) = some 0 ∧
    mmS.winner dispatchRes false ((List.range mmS.ctxs.length).filter mmS.competes) = some 0 ∧ (mmS.ctx 0).preempted = false ∧
    0 < mmS.cores.length ∧ (mmS.ctx 0).byUid 0 = some mmT ∧ (mmS.tileOf 0 0 none 0).isSome = true ∧ (mmS.ctx 0).debt < (mmS.ctx 0).slice := by
  decide
set_option maxRecDepth 8000 in
theorem test_TilePlacement_saved : let q : Saved := { core := 0, state := {} }
    let s := stT [{ ctxT [] with savedCores := [q] }]
    s.toPlace 0 = some (.saved q) ∧ s.coreFor 0 (.saved q) = some 0 ∧ s.mem.latent = [] ∧
      s.winner dispatchRes false ((List.range s.ctxs.length).filter s.competes) = some 0 := by decide
theorem test_TilePlacement_none : (stT [ctxT []]).toPlace 0 = none ∧ (stT [ctxT []]).awake = true ∧ ((stT [ctxT []]).ctx 0).runs = true := by decide
/-- One context with one command of work w that may run now. -/
theorem turn_oneT (op : Nat) (w : Work) (h : (oneT op w).ready 0 = true)
    (o : ((oneT op w).ctx 0).inOrder 0 (cmdT op (some (.work w)) .checked) = true) :
    (oneT op w).Turn 0 0 (cmdT op (some (.work w)) .checked) w := ⟨⟨rfl, rfl⟩, h, o⟩

/-- Four bytes of INT8 at an address. -/
def i8T (a e0 e1 : Nat) : Tensor := { base := a, e0 := e0, e1 := e1, fmt := ⟨.int8, false⟩ }

def fillT : Work := .fill (i8T 4096 4 1) 7 0

theorem test_Compute : let s := oneT 0x0D fillT
    let m := cmdT 0x0D (some (.work fillT)) .checked
    s.Turn 0 0 m fillT ∧ fillT.row 0 0 = some (.fill 0 0) ∧ m.whole = true ∧ s.mem.latent = [] ∧
      ∃ mem sat, runWork (s.workEnv m fillT.philox) (s.trapArmed 0) fillT s.mem = .done mem sat ∧ mem.read 4096 4 = [7, 7, 7, 7] :=
  ⟨turn_oneT _ _ (by decide) (by decide), rfl, by decide, rfl, _, _, rfl, by decide⟩

/-- TRANSPOSE of a poisoned line. -/
def movT : Work := .transpose (i8T 0 4 1) (i8T 4096 1 4)
def poisT : State := { oneT 0x09 movT with mem := { cells := [(1, 9)], poison := [0] } }
theorem test_ComputePoison : let m := cmdT 0x09 (some (.work movT)) .checked
    poisT.Turn 0 0 m movT ∧ movT.row 0 0 = some (.reduceTranspose 0 0) ∧ m.whole = true ∧ poisT.mem.latent = [] ∧
      runWork (poisT.workEnv m movT.philox) (poisT.trapArmed 0) movT poisT.mem = .poison :=
  ⟨⟨⟨rfl, rfl⟩, by decide, by decide⟩, rfl, by decide, rfl, rfl⟩

/-- TRANSPOSE of bytes beyond device memory. -/
def beyondT : Work := .transpose (i8T 0x5FA0000000 4 1) (i8T 4096 1 4)
theorem test_ComputeAddr : let m := cmdT 0x09 (some (.work beyondT)) .checked
    let s := oneT 0x09 beyondT
    s.Turn 0 0 m beyondT ∧ beyondT.row 0 0 = some (.reduceTranspose 0 0) ∧ m.whole = true ∧ s.mem.latent = [] ∧
      runWork (s.workEnv m beyondT.philox) (s.trapArmed 0) beyondT s.mem = .addr :=
  ⟨turn_oneT _ _ (by decide) (by decide), rfl, by decide, rfl, rfl⟩

/-- FOLD of a BF16 NaN into FP32. -/
def nanT : Work := .fold { base := 0 } { base := 4096, fmt := ⟨.fp32, false⟩ }
def nanS : State := { oneT 0x09 nanT with mem := { cells := [(0, 0xC0), (1, 0x7F)] } }
theorem test_ComputeTrap : let m := cmdT 0x09 (some (.work nanT)) .checked
    nanS.Turn 0 0 m nanT ∧ nanT.row 0 0 = some (.reduceFold 0 0) ∧ m.whole = true ∧ nanS.mem.latent = [] ∧
      (∃ n, runWork (nanS.workEnv m nanT.philox) (nanS.trapArmed 0) nanT nanS.mem = .trap n) ∧ (nanS.ctx 0).blk = some blkT ∧
      nanS.Canonical :=
  ⟨⟨⟨rfl, rfl⟩, by decide, by decide⟩, rfl, by decide, rfl, ⟨_, rfl⟩, rfl, by decide, by decide⟩
/-- MATMUL of ones: 16 terms of 1 × 1 give 16 in FP32. -/
def onesT : Work := .matmul { tbT with out := { tbT.out with fmt := ⟨.fp32, false⟩ } } epiT none
def onesM : Cmd := { cmdT 0x01 (some (.work onesT)) .checked with unplaced := [0], tilesDone := 1 }
def onesAt (a : Nat) : List (Nat × Byte) := (List.range 16).flatMap fun i => [(a + 2 * i, 0x80), (a + 2 * i + 1, 0x3F)]
def onesS : State := { stT [ctxT [onesM]] with mem := { cells := onesAt 0 ++ onesAt 1024 } }
theorem test_Compute_matmul : onesS.Turn 0 0 onesM onesT ∧ onesT.row 0 0 = some (.matmul 0 0) ∧ onesM.whole = true ∧
      (match runWork (onesS.workEnv onesM onesT.philox) (onesS.trapArmed 0) onesT onesS.mem with
        | .done mem _ => mem.read 4096 4 == [0, 0, 0x80, 0x41]
        | _ => false) = true :=
  ⟨⟨⟨rfl, rfl⟩, by decide, by decide⟩, rfl, by decide, by decide⟩

theorem test_RowWriters : Memory.wf ({ cells := [(3, 7)] } : Mem) = true ∧ (i8T 4096 4 1).fmt.mx = false ∧ (i8T 4096 4 1).fmt.elem.width = 8 ∧
    (255 : Nat) < 256 ∧ (i8T 4096 4 1).inside 3 0 0 0 = true := by decide
theorem test_TransposeMoves : let a := i8T 0 4 2
    let b := { i8T 4096 2 4 with s2 := 256, s3 := 256 }
    Memory.wf ({ cells := [(3, 7)] } : Mem) = true ∧ b.e0 ≤ b.s1 ∧ b.e1 * b.s1 ≤ b.s2 ∧ b.e2 * b.s2 ≤ b.s3 ∧ b.inside 1 3 0 0 = true ∧
      a.inside 3 1 0 0 = true := by decide
/-- Element (3, 0) of a row moves to (0, 3). -/
theorem test_transpose : ((evalTranspose ((oneT 0x09 movT).workEnv mmT {}) (i8T 0 4 1) (i8T 4096 1 4) { mem := { cells := [(3, 9)] } }).mem.byte
    (4096 + 3 * 64)) = 9 := by decide
theorem test_WritesAndPoison : 0 < 64 ∧ Memory.wf ({ cells := [(3, 7)], poison := [0, 1] } : Mem) = true ∧
    NatSet.mem 1 ({ cells := [(3, 7)], poison := [0, 1] } : Mem).poison = true ∧ (64 ≤ 1 * 64 ∧ (1 + 1) * 64 ≤ 64 + 64) ∧
    1 ∈ unitsOf 64 127 2 ∧ ¬ (64 ≤ 0 * 64 ∧ (0 + 1) * 64 ≤ 64 + 64) := by decide

/-! ### Witnesses: tables and ferries -/

theorem test_TableLoad_bad : (oneT 0x0F (.tableLoad 0 64 0 1 true)).Turn 0 0 (cmdT 0x0F (some (.work (.tableLoad 0 64 0 1 true))) .checked) (.tableLoad 0 64 0 1 true) ∧
    (oneT 0x0F (.tableLoad 0 64 0 1 true)).loadFault 0 0 64 0 1 = some 0x240 :=
  ⟨⟨⟨rfl, rfl⟩, by decide, by decide⟩, by decide⟩

/-- An image of EX2 of zeros: every segment is flat. -/
def loadW : Work := .tableLoad 4096 1024 0 1 true
theorem test_TableLoad : let s := oneT 0x0F loadW
    s.Turn 0 0 (cmdT 0x0F (some (.work loadW)) .checked) loadW ∧ s.mem.latent = [] ∧ s.loadFault 0 4096 1024 0 1 = none ∧
      s.mem.poisoned 64 4096 1024 = false ∧ imageFault 0 (s.mem.read 4096 1024) = none :=
  ⟨⟨⟨rfl, rfl⟩, by decide, by decide⟩, rfl, by decide, by decide, by decide +kernel⟩

/-- A transfer of one row of 64 bytes. -/
def rowT (src dst : Nat) (sh dh : Bool) : Transfer :=
  { src := src, dst := dst, rows := 1, rowBytes := 64, srcStride := 64, dstStride := 64, slipAddr := 0, slipInc := 0, last := true, slip := false
    dstHost := dh, srcHost := sh }
def ferryT (t : Transfer) : State :=
  { oneT 0x0B (.ferry [t]) with boardStatus := 1, routes := List.replicate 16 { valid := true, via := 3, ports := 1 } }
def ferryM (t : Transfer) : Cmd := cmdT 0x0B (some (.work (.ferry [t]))) .checked

theorem test_Ferry : let t := rowT 0 4096 false false
    (ferryT t).Turn 0 0 (ferryM t) (.ferry [t]) ∧ (ferryM t).phase = .checked ∧ (ferryM t).steps.moved = [] ∧ t.rows = 1 ∧ t.slip = false ∧
      (ferryT t).awaits 0 0 = false ∧ (ferryT t).mem.latent = [] ∧ (ferryT t).Canonical ∧ (ferryT t).place t.src = .here 0 ∧
      (ferryT t).place t.dst = .here 4096 :=
  ⟨⟨⟨rfl, rfl⟩, by decide, by decide⟩, rfl, rfl, rfl, rfl, by decide, rfl, ⟨rfl, by decide⟩, by decide, by decide⟩
theorem test_Ferry_in : let t := rowT (2 ^ 40 - 64) 4096 true false
    (ferryT t).Turn 0 0 (ferryM t) (.ferry [t]) ∧ (ferryT t).hostUp = true ∧ (ferryT t).place t.dst = .here 4096 ∧
      winFor ((ferryT t).ctx 0).hwins t.src 64 false = some winT := ⟨⟨⟨rfl, rfl⟩, by decide, by decide⟩, by decide, by decide, rfl⟩
theorem test_Ferry_out : let t := rowT 4096 0 false true
    (ferryT t).Turn 0 0 (ferryM t) (.ferry [t]) ∧ (ferryT t).hostUp = true ∧ (ferryT t).place t.src = .here 4096 ∧
      (ferryT t).mem.poisoned 64 4096 64 = false ∧ winFor ((ferryT t).ctx 0).hwins t.dst 64 true = some winT :=
  ⟨⟨⟨rfl, rfl⟩, by decide, by decide⟩, by decide, by decide, by decide, rfl⟩
theorem test_Ferry_far : let t := rowT 4096 farT false false
    (ferryT t).Turn 0 0 (ferryM t) (.ferry [t]) ∧ (ferryT t).place t.dst = .there 3 64 ∧ (ferryT t).routeOk 3 = true ∧
      (ferryT t).phaseBusy 0 0 0 = false := ⟨⟨⟨rfl, rfl⟩, by decide, by decide⟩, by decide, by decide, by decide⟩
/-! ### Witnesses: step lists -/

def stageT (phase : Nat) : Stage :=
  { work := fillT, opcode := 0x0D, waitAddr := 0, sigAddr := 0, waitBase := 0, waitStep := 0, sigInc := 0, cmaps := [], phase := phase, mb := 0
    stream := 0, imgBase := 0, sampler := false, barrier := false }

/-- A prefix stage and a stage of two steps, with one pinned range and a budget. -/
def listT : StepList :=
  { stepSlip := 0, deadline := 5000, stepBudget := 100, steps := 2, images := 1, micro := 1, guide := false, stages := [stageT 0, stageT 1]
    seeds := [7], coefs := [], pins := [{ src := 8192, bytes := 64, dbOff := 0, dies := 1 }] }

def listM (p : StepProg) : Cmd := { cmdT 0x14 (some (.steps listT)) .started with steps := p }
def listS (p : StepProg) : State := { stT [ctxT [listM p]] with now := 5000 }

theorem test_Stage : let s := listS {}
    (s.ctx 0).cmd? 0 = some (listM {}) ∧ (listM {}).list? = some listT ∧ listT.execution 0 = some { stage := 0, phase := 0, step := 0 } ∧
      listT.stageAt 0 = some (stageT 0) ∧ s.ready 0 = true ∧ (s.ctx 0).inOrder 0 (listM {}) = true ∧
      listT.orderMet (listM {}).steps 0 = true ∧ s.isPhase (stageT 0).work = false ∧
      s.waitMet (stageT 0) { stage := 0, phase := 0, step := 0 } = some true ∧ listT.orderMet (listM {}).steps 1 = false :=
  ⟨rfl, rfl, rfl, rfl, by decide, by decide, by decide, by decide, by decide, by decide⟩

/-- The last execution, pinned and started. -/
theorem test_Stage_end :
    let p : StepProg := { pinned := true, started := [0, 1, 2], done := [0, 1] }
    let x : Execution := { stage := 1, phase := 1, step := 1 }
    let s := listS p
    (s.ctx 0).cmd? 0 = some (listM p) ∧ listT.execution 2 = some x ∧ listT.stageAt 2 = some (stageT 1) ∧ s.ready 0 = true ∧
      NatSet.mem 2 p.started = true ∧ NatSet.mem 2 p.done = false ∧ s.mem.latent = [] ∧
      ((listT.workOf (stageT 1) x).row 0 0).isSome = true ∧
      ∃ mem sat, runWork (s.workEnv (listM p) (listT.philox (stageT 1) x)) (s.trapArmed 0) (listT.workOf (stageT 1) x)
        (listT.overlay (s.ctx 0).homeDie (s.dieBuf.getD (s.ctx 0).homeDie {}) s.mem) = .done mem sat :=
  ⟨rfl, rfl, rfl, by decide, by decide, by decide, rfl, by decide, _, _, rfl⟩

theorem test_Graft : Memory.wf ({ cells := [(3, 7)] } : Mem) = true ∧ Memory.wf ({ cells := [(64, 1), (127, 2)] } : Mem) = true := by decide
theorem test_Pins : let p : StepProg := { started := [0], done := [0] }
    let s := listS p
    (s.ctx 0).cmd? 0 = some (listM p) ∧ (listM p).list? = some listT ∧ s.ready 0 = true ∧ (s.ctx 0).inOrder 0 (listM p) = true ∧
      p.pinned = false ∧ listT.prefixDone p = true := ⟨rfl, rfl, by decide, by decide, rfl, by decide⟩
theorem test_Steps : let p : StepProg := { pinned := true, started := [0, 1], done := [0, 1] }
    (listS p).ready 0 = true ∧ p.stepsDone = 0 ∧ 0 < listT.steps ∧ listT.stepDone p 0 = true ∧ listT.stepSlip = 0 ∧
      listT.stepDone p 1 = false := by decide

theorem test_Deadline : let p : StepProg := { pinned := true, stepsDone := 1 }
    let s := listS p
    (s.ctx 0).cmd? 0 = some (listM p) ∧ (listM p).openList? = some listT ∧ s.up = true ∧ (s.ctx 0).alive = true ∧
      (s.ctx 0).blk = some blkT ∧ s.Canonical ∧ listT.stepBudget ≠ 0 ∧ NatSet.mem 0 p.checkedSteps = false ∧
      p.start.toNat + (1 + 1) * listT.stepBudget ≤ s.now.toNat ∧ 0 < p.stepsDone ∧ p.stepsDone ≤ 1 ∧ listT.deadline ≠ 0 ∧
      p.deadlineChecked = false ∧ listT.deadline ≤ s.now.toNat ∧ ({ s with now := 4999 } : State).now.toNat < listT.deadline :=
  ⟨rfl, rfl, by decide, by decide, rfl, ⟨rfl, by decide⟩, by decide, by decide, by decide, by decide, by decide, by decide, rfl, by decide, by decide⟩

/-! ### Witnesses: video and image engines -/

/-- Session block: AV1 decode (kind 0) of 16 by 16, two buffers. -/
def sesT : SessionBlock :=
  { state := 4096, stateBytes := 16777216, width := 16, height := 16, kind := 0, depth := false, mono := false, nbuf := 2, nref := 0, gir := 0
    girPeriod := 0, keyInterval := 0 }
def bodyT (op : Nat) : CodecBody :=
  { src := 0x4000000, dst := 0x5000000, rec_ := 0x6000000, stats := 0, srcBytes := 64, dstBytes := 0, session := 3, op := op, key := false, param := 0 }
def codM (op : Nat) (ph : Phase) (q : Option SessionBlock) : Cmd := cmdT 0x20 (some (.work (.codec (bodyT op) none q))) ph
def openT : Session := { num := 3, ctx := 0, ring := 0, blk := sesT }
def codS (op : Nat) (q : Option SessionBlock) (ss : List Session) : State := { stT [ctxT [codM op .checked q]] with sessions := ss }

theorem test_SessionOpen : let s := codS 1 (some sesT) []
    s.codecTurn 0 0 1 = some (codM 1 .checked (some sesT), bodyT 1) ∧ (codM 1 .checked (some sesT)).job = some (.work (.codec (bodyT 1) none (some sesT))) ∧
      s.session? 3 = none ∧ s.blockBad sesT = false ∧ s.sessions.length < 512 ∧ (codS 1 (some sesT) [openT]).session? 3 ≠ none ∧
      (codS 1 (some sesT) [openT]).codecTurn 0 0 1 = some (codM 1 .checked (some sesT), bodyT 1) :=
  ⟨rfl, rfl, by decide, by decide, by decide, by decide, rfl⟩
theorem test_SessionClose : (codS 2 none [openT]).codecTurn 0 0 2 = some (codM 2 .checked none, bodyT 2) ∧
    (codS 2 none [openT]).ownSession 0 0 3 = some openT ∧ (codS 2 none [openT]).Canonical ∧ (codS 2 none []).ownSession 0 0 3 = none ∧
    (codS 2 none []).codecTurn 0 0 2 = some (codM 2 .checked none, bodyT 2) := ⟨rfl, by decide, ⟨rfl, by decide⟩, by decide, rfl⟩
theorem test_Units : (codS 3 none [openT]).codecTurn 0 0 3 = some (codM 3 .checked none, bodyT 3) ∧
    lowest ((codS 3 none [openT]).unitFails 0 (codM 3 .checked none) (bodyT 3)) = none ∧
    lowest ((codS 4 none [openT]).unitFails 0 (codM 4 .checked none) (bodyT 4)) = some (0x292, 0, 0) ∧
    (codS 4 none [openT]).codecTurn 0 0 4 = some (codM 4 .checked none, bodyT 4) ∧
    (codS 5 none []).codecTurn 0 0 5 = some (codM 5 .checked none, bodyT 5) ∧
    (codS 6 none []).codecTurn 0 0 6 = some (codM 6 .checked none, bodyT 6) ∧
    (codS 7 none []).codecTurn 0 0 7 = some (codM 7 .checked none, bodyT 7) := ⟨rfl, by decide, by decide, rfl, rfl, rfl, rfl⟩
def readyM (op : Nat) : Cmd := { codM op .checked none with unplaced := [0] }
theorem test_UnitStart : let s : State := { stT [ctxT [readyM 5]] with sessions := [openT] }
    s.engineFree 12 = true ∧ s.nextUnit 0 (engineOp 12) = some (readyM 5) ∧ 12 < s.engines.length ∧
      s.winner (kindRes (engineOp 12 - 3)) true ((List.range 64).filter fun d => (s.nextUnit d (engineOp 12)).isSome) = some 0 ∧
      ({ s with engines := [{ unit := some (0, 0) }] } : State).engineFree 0 = false := by decide
/-- A JPEG decode on engine 12, and one of a poisoned line. -/
def unitS (pz : List Nat) : State :=
  { stT [ctxT [codM 5 .started none]] with engines := (List.replicate 36 {}).set 12 { unit := some (0, 0) }, mem := { poison := pz } }
theorem test_UnitDone : let s := unitS []
    s.up = true ∧ (s.engines.getD 12 {}).unit = some (0, 0) ∧ (s.ctx 0).byUid 0 = some (codM 5 .started none) ∧
      (codM 5 .started none).job = some (.work (.codec (bodyT 5) none none)) ∧ s.mem.latent = [] ∧ 12 < s.engines.length ∧
      (s.unitReads (bodyT 5) none none).any (fun r => s.mem.poisoned 64 r.1 r.2) = false ∧
      ((unitS [0x100000]).unitReads (bodyT 5) none none).any (fun r => (unitS [0x100000]).mem.poisoned 64 r.1 r.2) = true := by decide
/-! ### Witnesses: inside a core -/

def startM : Cmd := { mmT with phase := .started, unplaced := [] }
/-- A second MATMUL behind the first in an ordered ring: it is placed ahead of its turn, once the first has all its tile commands placed. -/
def aheadX (m : Cmd) : Ctx := ctxT [m, { mmT with uid := 1 }]
theorem test_Ahead : (aheadX startM).inOrder 1 { mmT with uid := 1 } = false ∧ (stT [aheadX startM]).toPlace 0 = some (.tile 1 none 0) ∧
    (stT [aheadX mmT]).toPlace 0 = some (.tile 0 none 0) ∧ (stT [aheadX { startM with unplaced := [], phase := .checked }]).toPlace 0 = none := by decide
/-- Core 0 runs the MATMUL of one context, its NaN trap not armed; changed by f. -/
def coreT (f : Core → Core) : State := { stT [{ ctxT [startM] with armed := false }] with cores := [f { run := some tileOfT }] }
/-- Both slots full, bank 0 loaded, the ramp at full density. -/
def fullT (y : Core) : Core :=
  { y with slots := [{ who := 1, operand := .wt 0, fill := 0, off := 4096, size := 64, st := .full }, { who := 1, operand := .act, fill := 1, off := 0, size := 128, st := .full }]
           nextFill := 2 }
def goT (y : Core) : Core := { fullT y with banks := [{ owner := some 0, seg := 0, n := 1, tag := some (0, none, 0, 0) }, {}], ramp := .full }

set_option maxRecDepth 8000 in
theorem test_Fill : let s := coreT id
    0 < s.cores.length ∧ s.mem.latent = [] ∧
      (match s.fillNext 0 with
        | some (who, n, t, w, f) =>
          let z := (s.core 0).nextSlot t w f.operand
          who == 1 && n == 0 && f.operand == .wt 0 && !(s.core 0).busy (s.heldBufs 0 who) z.1 z.2 && (s.t3Fill t w.job f).isSome
        | none => false) = true := by decide
set_option maxRecDepth 8000 in
theorem test_Fill_taken : (match (coreT fullT).fillNext 0 with | none => true | _ => false) = true ∧
    (match (coreT fun y => { y with areas := [(4096, 1)] }).fillNext 0 with
      | some (who, _, t, w, f) => let s := coreT fun y => { y with areas := [(4096, 1)] }
        let z := (s.core 0).nextSlot t w f.operand
        (s.core 0).busy (s.heldBufs 0 who) z.1 z.2
      | none => false) = true := by decide

/-- The load that core 0 has next, its readiness and its poison. -/
def loadT (f : Core → Core) : Option (Nat × Nat × Bool × Bool × Bool) :=
  let s := coreT f
  (s.nextLoad 0).map fun x => (x.pass, x.bank, (s.core 0).loadReady x, (s.core 0).bankBusy x.bank,
    (s.core 0).badRefs x.w x.who ((List.range x.p.cols).flatMap fun l => (List.range (x.p.entries x.seg)).flatMap fun e => x.p.entryRefs x.seg e l))
set_option maxRecDepth 8000 in
theorem test_Bank : loadT fullT = some (0, 0, true, false, false) ∧ loadT id = some (0, 0, false, false, false) ∧ loadT goT = none ∧
    loadT (fun y => { fullT y with mem := { poison := [128] } }) = some (0, 0, true, false, true) ∧ ((coreT fullT).core 0).mem.latent = [] := by
  refine ⟨?_, ?_, ?_, ?_, rfl⟩ <;> decide

/-- What stands in the way of core 0, its next cycle, the rows of its pass and the poison of its next group. -/
def issueT (f : Core → Core) : Option (Option Stall × Option (Ramp × Cycle) × Nat × Bool × Nat) :=
  let s := coreT f
  match s.onCore 0 1 with
  | some (y, t, w) =>
    let z := y.prepared t w (s.heldBufs 0 1)
    let st := z.stall t w (s.heldBufs 0 1)
    (w.mat z.pos.pass).map fun p => (st, rampCycle z.ramp (s.rampLen 0) (s.holdLimit 0) (s.topPhase 0) st.isNone, p.rows.length,
      z.badRefs w 1 ((List.range p.mode.g).map fun j => p.act z.pos.row (p.k0 + (32 * z.pos.seg + z.pos.entry) * p.mode.g + j)), z.scales.length)
  | none => none
set_option maxRecDepth 20000 in
theorem test_Issue : issueT goT = some (none, some (.full, .work), 2, false, 0) ∧
    issueT (fun y => { goT y with mem := { poison := [0] } }) = some (none, some (.full, .work), 2, true, 0) ∧
    issueT (fun y => { goT y with pos := { row := 2 } }) = some (none, some (.full, .work), 2, false, 0) ∧
    issueT (fun y => { goT y with scales := [(0, 0)] }) = some (none, some (.full, .work), 2, false, 1) := by
  refine ⟨?_, ?_, ?_, ?_⟩ <;> decide +kernel
set_option maxRecDepth 20000 in
theorem test_Issue_stall : issueT id = some (some .bank, some (.stopped, .gap), 2, false, 0) ∧ (coreT goT).up = true ∧ ((coreT goT).core 0).mem.latent = [] ∧
    (match State.reset.onCore 0 1 with | none => true | _ => false) = true := by
  refine ⟨?_, ?_, rfl, ?_⟩ <;> decide +kernel

def groupT (age : Nat) (f : Option Word) : Issued :=
  { who := 1, age := age, row := 63, bank := 0, entry := 0, chunk := [], scale := 127, kIndex := 0, factor := f, inject := none, mode := .half
    fa := bf16Fmt, fw := bf16Fmt, cols := 1, lane := { base := [0, 0, 0, 0] }, first := true, final := none }
theorem test_Accumulator : let f := fun y => { goT y with pipe := [groupT 8 none], final := [{ who := 1, row := 1, line := 1, pass := 0, area := 0 }] }
    let s := coreT f
    0 < s.cores.length ∧ s.up = true ∧ (s.core 0).pipe = [groupT 8 none] ∧ (s.core 0).tile 1 = some tileOfT ∧ (s.ctx tileOfT.ctx).alive = true ∧
      s.trapArmed tileOfT.ctx = false ∧ (∀ x ∈ (s.core 0).final, x.row ≠ 63) ∧ (groupT 7 none).age < 8 ∧ Memory.wf (s.core 0).mem = true ∧
      (s.core 0).mem.latent = [] ∧ Cells.wf 0 (s.core 0).acc = true ∧ (s.workOf 0 1).isSome = true := by
  refine ⟨by decide, by decide, rfl, rfl, by decide +kernel, by decide +kernel, by decide, by decide, by decide, by decide, by decide, by decide +kernel⟩

/-- Core 0 alone, at this ramp. -/
def rampT (r : Ramp) (mu caps : Nat) : State :=
  { State.reset with
    cores := [{ ramp := r }], cfg := { Cfg.reset with mu := [BitVec.ofNat 32 mu, 0, 0, 0] }, power := { powerCap := caps } }
theorem test_Ramp_hold : ((rampT (.hold 256) 0 0).core 0).ramp = .hold 256 ∧ (rampT (.hold 256) 0 0).holdLimit 0 ≤ 256 ∧
    (rampT (.hold 256) 0 0).issuable 0 = false ∧ 255 < (rampT (.hold 255) 0 0).holdLimit 0 ∧ (rampT (.hold 0) 3 0).rampLen 0 = 0 := by decide +kernel
theorem test_Ramp_up : (rampT (.up 1 16) 0 0).rampLen 0 / 3 = 16 ∧ (rampT (.up 1 16) 0 0).topPhase 0 = 4 ∧ (rampT (.up 1 16) 0 1).topPhase 0 = 3 ∧
    (rampT (.up 1 16) 0 3).topPhase 0 = 1 ∧ ((rampT (.up 3 16) 0 3).core 0).ramp = .up 3 16 ∧ ((rampT (.capped 2 3) 0 3).core 0).ramp = .capped 2 3 := by decide
theorem test_Ramp_down : ((rampT (.down 1 16) 0 0).core 0).ramp = .down 1 16 ∧ ((rampT .full 0 1).core 0).ramp = .full ∧
    (rampT .full 0 1).topPhase 0 < 4 := by decide

def runT (role : Nat) : Run := { who := 1, role := role, pass := 0 }
/-- The run that core 0 starts next: may it, its rows, its split, its instruction's stream wait and bytes. -/
def startT (s : State) : Option (Run × Bool × Nat × Option (Bool × Bool)) :=
  match s.nextRun 0 with
  | some r => (s.running 0 r).map fun x => (r, s.mayStart x, x.h.rows, x.h.split.map fun p => (p.first, p.last))
  | none => none
def queued (y : Core) : Core := { goT y with veng := { queue := [runT 2] } }
set_option maxRecDepth 20000 in
theorem test_PosyRun : startT (coreT queued) = some (runT 2, true, 2, none) ∧ startT (coreT id) = none ∧ ((coreT queued).core 0).veng.cur = none ∧
    startT (coreT fun y => { queued y with slots := [{ who := 1, operand := .out 0, fill := 0, off := 2097152, size := 64, st := .inUse }] }) =
      some (runT 2, false, 2, none) := by
  refine ⟨?_, ?_, rfl, ?_⟩ <;> decide +kernel
/-- The same MATMUL with K in two parts. -/
def partT : TileBlock := { tbT with t2 := { levT 2 with tk := 8 }, part := some { base := 8192, e1 := 2, fmt := ⟨.fp32, false⟩ } }
def partM (us : List Nat) : Cmd := { startM with job := some (.work (.matmul partT epiT none)), unplaced := us }
def coreP (n : Nat) (us : List Nat) : State :=
  let s := stT [{ ctxT [partM us] with armed := false }]
  { s with cores := [queued { run := some ((s.tileOf 0 0 none n).getD tileT) }] }
set_option maxRecDepth 20000 in
theorem test_PosyRun_part : startT (coreP 0 [1]) = some (runT 2, true, 2, some (true, false)) ∧ startT (coreP 1 []) = some (runT 2, true, 2, some (false, true)) ∧
    startT (coreP 1 [0]) = some (runT 2, false, 2, some (false, true)) := by
  refine ⟨?_, ?_, ?_⟩ <;> decide +kernel
/-- The instruction at hand of core 0: its stream, does it wait, does it leave device memory or meet poison, is it the last of its row. -/
def instrT (s : State) : Option (Bool × Bool × Bool × Bool × Bool) :=
  ((s.core 0).veng.cur.bind (s.running 0)).map fun x =>
    (isSlot (s.topPhase 0) x.y.veng.cycle, x.y.waitsForStream x.w x.r x.h, x.deviceBytes.any fun b => b.2 != 0 && !inDevice b.1 b.2,
      x.coreBytes.any fun b => x.y.mem.poisoned 32 b.1 b.2, x.advance.2.2.1)
def running (pc : Nat) (y : Core) : Core := { goT y with veng := { cur := some { runT 2 with pc := pc } } }
set_option maxRecDepth 20000 in
theorem test_PosyInstruction : instrT (coreT (running 0)) = some (true, false, false, false, false) ∧
    instrT (coreT fun y => { running 0 y with mem := { poison := [65536] } }) = some (true, false, false, true, false) ∧
    instrT { coreT (fun y => { running 0 y with veng := { cur := some (runT 2), cycle := 3 } }) with power := { powerCap := 1 } } =
      some (false, false, false, false, false) := by
  refine ⟨?_, ?_, ?_⟩ <;> decide +kernel

/-- A bounded context, in bounded mode. -/
def boundX : Ctx := { ctxT [startM] with blk := some { blkT with bounded := true, bcoreCount := 1 } }
def lateS (dlm : Option (Nat × Tick × Nat)) : State :=
  { stT [boundX] with cores := [{ run := some tileOfT, dlm := dlm, banks := [{ owner := some 0, seg := 0, n := 1, tag := some (0, none, 0, 0) }, {}] }], cfg := { Cfg.reset with bound := 1 } }
set_option maxRecDepth 20000 in
theorem test_LateData : ((lateS none).onCore 0 1).isSome = true ∧ ((lateS none).ctx tileOfT.ctx).blk = some { blkT with bounded := true, bcoreCount := 1 } ∧
    (lateS none).cfg.bound.toNat % 2 = 1 ∧ (match (lateS none).onCore 0 1 with | some (_, _, w) => w.slack | none => 1) < 1 ∧ (lateS none).waitsForData 0 = true ∧
    ((lateS none).core 0).dlm = none ∧ ((lateS (some (0, 5, 2))).core 0).dlm = some (0, 5, 2) ∧ (lateS none).mem.latent = [] ∧
    ((coreT id).ctx tileOfT.ctx).blk = some blkT ∧ blkT.bounded = false := by decide +kernel
theorem test_LateData_canonical : (lateS none).Canonical := ⟨rfl, by decide⟩

/-! ### Witnesses: numbers, memory -/

theorem test_Numbers : (decodeElem .e4m3 0x08).isNaN = false ∧ (decodeElem .e4m3 0x08).isZero = false ∧ (0x08 : Nat) < 2 ^ Elem.e4m3.width ∧
    isNaN32 0x7F800001 = true ∧ isNaN32 0x7F800000 = false := by decide

/-- Bad symbols in line 0 of device memory, line 1 poisoned, word 0 of core 0 bad too. -/
def badT (n : Nat) : State :=
  { State.reset with
    mem := { poison := [1], latent := if n = 0 then [] else [(0, n)] }
    dieBuf := [{}, {}, {}, { latent := [(0, n)] }], cores := [{ mem := { latent := [(0, n)] } }] }

theorem test_MemoryRead_absent : State.reset.up = true ∧ memHas .dram devTop = false ∧ memHas .dram (devTop - 1) = true ∧
    memHas (.dieBuf 3) 0x2000000 = false ∧ memHas (.core 255) 0x1FFFFF = true := by decide
theorem test_MemoryRead_poisoned : NatSet.mem (64 / memUnit .dram) ((badT 0).memOf .dram).poison = true ∧ ((stT [ctxT []]).ctx 0).alive = true := by
  decide
theorem test_MemoryRead : let bad := fun (m : MemTarget) (k n : Nat) => Cells.get 0 (0 / memUnit m) ((badT k).memOf m).latent + n
    NatSet.mem (63 / memUnit .dram) ((badT 4).memOf .dram).poison = false ∧ bad .dram 0 0 = 0 ∧ bad .dram 1 0 = 1 ∧ bad (.dieBuf 3) 1 1 = 2 ∧
      bad .dram 2 1 = 3 ∧ bad (.dieBuf 3) 4 0 = 4 ∧ bad .dram 4 1 = 5 ∧ bad (.core 0) 3 0 = 3 ∧ memUnit (.core 0) = 32 ∧
      (badT 1).countDie (.dieBuf 3) 0 = 3 ∧ 3 < (badT 1).dies.length ∧ 3 < (badT 1).dieBuf.length ∧
      (badT 1).countDie .dram 0 < (badT 1).dies.length := by decide

def homeT : Pending := { ctx := 0, uid := 0, addr := 100, data := [1, 2, 3], poison := false, last := true }
theorem test_WriteHome : let m := { startM with tilesDone := 1 }
    let s : State := { stT [ctxT [m]] with writes := [homeT] }
    s.writes = homeT :: [] ∧ s.up = true ∧ s.Canonical ∧ (s.ctx 0).byUid 0 = some m ∧ m.tilesDone = 1 ∧ m.unplaced = [] :=
  ⟨rfl, by decide, ⟨rfl, by decide⟩, rfl, rfl, rfl⟩
theorem test_Scrub : let s := badT 2
    s.up = true ∧ 3 < s.dies.length ∧ s.power.cur ≤ 2 ∧ s.power.exiting = false ∧ s.cfg.scrub.getD 0 0 ≠ 0 ∧
      scrubAddr 0 0 (s.die 0).scrubPos = some 0 ∧ NatSet.mem 0 s.mem.poison = false ∧ Cells.get 0 0 s.mem.latent + 2 = 4 ∧
      ({ s with cfg := { Cfg.reset with scrub := [0] } } : State).cfg.scrub.getD 0 0 = 0 := by decide
theorem test_Refresh : 23 < 24 ∧ 31 < 32 ∧ Cells.get 0 (4720 + 6 * (23 * 32 + 31) + 4) State.reset.counters + 2 < 2 ^ 64 ∧
    Cells.wf 0 State.reset.counters = true ∧ 2 < ({ State.reset with power := { cur := 3 } } : State).power.cur := by decide

/-! ### Witnesses: power and time -/

theorem test_Power : let s := State.reset
    s.up = true ∧ s.power.cur < 4 ∧ (List.replicate 6 (10000, 65535)).length = 6 ∧ s.power.lastPowerMove = none ∧
      s.cfg.pwrLimit.toNat * 8 < (match execPowerSample (List.replicate 6 (10000, 65535)) s with | .next t => t.power.avg | _ => 0) := by decide
theorem test_Power_low : let s : State := { State.reset with power := { lowFrom := some 0, powerCap := 1 }, now := 1000000 }
    s.power.lowFrom = some 0 ∧ 1000000 ≤ s.now.toNat - (0 : Tick).toNat ∧
      (match execPowerSample (List.replicate 6 (0, 0)) s with | .next t => t.power.avg * 20 | _ => 1) ≤ s.cfg.pwrLimit.toNat * 8 * 19 := by decide
theorem test_Thermal : tripReading [919, 0, 0, 0] [799, 0, 0, 0] 919 = false ∧ tripReading [920, 0, 0, 0] [0, 0, 0, 0] 0 = true ∧
    tripReading [0, 0, 0, 0] [800, 0, 0, 0] 0 = true ∧ tripReading [0, 0, 0, 0] [0, 0, 0, 0] 920 = true := by decide
theorem test_Avs : let s := State.reset
    s.power.cur < 4 ∧ s.power.targets.length = 5 ∧ 7000 ≤ s.power.targets.getD 4 8000 ∧ s.power.targets.getD 4 8000 ≤ 8500 ∧
      ([AvsAnswer.silent] : List AvsAnswer)[0]? = some .silent := by decide
theorem test_Avs_clear : let s : State := { State.reset with power := { avsHeld := true, avsClearAt := some 7 }, now := 7 }
    s.power.avsClearAt = some 7 ∧ s.power.avsHeld = true ∧ (7 : Tick).toNat ≤ s.now.toNat ∧ (6 : Tick).toNat < (7 : Tick).toNat := by decide
theorem test_Timebase : let s : State := { State.reset with link := { pcieStatus := 0x800 } }
    s.up = true ∧ bit1 s.link.pcieStatus.toNat 11 = true ∧ s.power.cur < 4 ∧ s.followsHost = true ∧ s.tbValid = true := by decide
/-- Device 0 of a board whose master is device 1. -/
theorem test_Timebase_board : let s : State := { State.reset with cfg := { Cfg.reset with board := 0x1140 }, boardStatus := 1 }
    s.followsHost = false ∧ s.boardStatus = 1 ∧ s.tbValid = true ∧ s.power.cur < 4 := by decide
theorem test_Idle : let s : State := { State.reset with power := { latTol := 0xFFFFFF } }
    s.power.exiting = false ∧ s.power.cur < s.targetState ∧ s.idle = true ∧ s.targetState = 3 ∧
      idleTime s.targetState ≤ ({ s with now := 10000000 } : State).now.toNat - s.power.idleFrom.toNat ∧
      s.now.toNat - s.power.idleFrom.toNat < idleTime s.targetState := by decide
theorem test_Idle_others : let s : State := { State.reset with power := { cur := 3, latTol := 0 } }
    s.targetState < s.power.cur ∧ ({ stT [ctxT []] with power := { cur := 0 } } : State).idle = false ∧
      ({ State.reset with power := { exiting := true } } : State).tbValid = true := by decide
theorem test_Idle_tables : ({ bad := [0] } : Tables).ex2 = [stdEx2, []] ∧ ({ bad := [0] } : Tables).bad = [0] ∧
    ({ bad := [1] } : Tables).bad = [1] ∧ ({} : Tables).bad = [] := ⟨rfl, rfl, rfl, rfl⟩
theorem test_Idle_a4 : let s : State := { State.reset with power := { maxDepth := 4, latTol := 0xFFFFFF }, link := { pcieStatus := 0x2800 } }
    s.targetState = 4 := by decide

/-! ### Witnesses: boards and answers -/

def portS (y : Port) : State :=
  { State.reset with cfg := { Cfg.reset with board := 0x140 }, ports := List.replicate 11 {} ++ [y], boot := { State.reset.boot with boardId := 0 } }
theorem test_Port : (portS {}).up = true ∧ 11 < 12 ∧ (portS {}).ports.length = 12 ∧ (portS {}).boarded = true ∧ ((portS {}).port 11).state ≠ 2 ∧
    ((portS { fails := 1 }).port 11).fails + 1 < 3 ∧ 3 ≤ ((portS { fails := 2 }).port 11).fails + 1 ∧ ((portS { state := 3 }).port 11).state = 3 ∧
    ((portS { state := 2, replays := 7 }).port 11).state = 2 ∧ ((portS { state := 2, replays := 7 }).port 11).replays < 8 ∧
    8 ≤ ((portS { state := 2, replays := 8 }).port 11).replays := by decide
theorem test_Board : let s := portS { state := 2, peer := 1 }
    s.up = true ∧ (∀ p < 12, (s.port p).state = 2 → (s.port p).peer ≠ s.boot.boardId) ∧ s.linksOk = true ∧
      ∃ p < 12, ((portS { state := 2, peer := 0 }).port p).state = 2 ∧ ((portS { state := 2, peer := 0 }).port p).peer = (portS {}).boot.boardId := by
  refine ⟨by decide, by decide, by decide, 11, by decide, by decide, by decide⟩
theorem test_Inbound : let s : State := { State.reset with inPeers := 8, inLimit := 1 }
    s.up = true ∧ s.Canonical ∧ s.wake.inboundOk 3 0x1FFFFC 4 = true ∧ s.mem.poisoned 64 0x1FFFFC 4 = false ∧ s.wake.inboundOk 2 0 4 = false ∧
      ({ s with mem := { poison := [0] } } : State).mem.poisoned 64 60 4 = true := by
  refine ⟨by decide, ⟨rfl, by decide⟩, by decide, by decide, by decide, by decide⟩

def askT (kind : Answer) : Outstanding := { ctx := 0, uid := 0, dst := 100, n := 4, kind := kind, dev := 1, issued := 0, last := true }
def askS (now : Nat) : State := { stT [ctxT [startM]] with reads := [askT .data], now := BitVec.ofNat 64 now }
theorem test_Answers : (askS 50000000).reads = askT .data :: [] ∧ (askS 50000000).hostUp = true ∧ (askS 0).Canonical ∧ (askS 0).mem.latent = [] ∧
    (askT .data).n ≤ ([1, 2, 3, 4] : List Byte).length ∧ (askT .data).slip = none ∧ ((askS 0).ctx 0).alive = true ∧
    50000000 ≤ (askS 50000000).now.toNat - (askT .data).issued.toNat ∧ (askS 49999999).now.toNat - (askT .data).issued.toNat < 50000000 ∧
    (∀ o ∈ ([] : List Outstanding) ++ (askS 0).remote, ¬ (o.ctx = 0 ∧ o.uid = 0 ∧ o.exec = none)) :=
  ⟨rfl, by decide, ⟨rfl, by decide⟩, rfl, by decide, rfl, by decide, by decide, by decide, fun o h => (by cases h)⟩
def farS (kind : Answer) (now : Nat) : State := { stT [ctxT [startM]] with remote := [askT kind], now := BitVec.ofNat 64 now }
theorem test_Answers_far : (∀ k ∈ [Answer.data, .written, .added], (farS k 100000).remote = askT k :: []) ∧ (farS .data 0).up = true ∧
    ((farS .data 0).ctx 0).alive = true ∧ (askT .data).ctx ≠ mgmtCtx ∧ (farS .data 0).Canonical ∧ (farS .data 0).mem.latent = [] ∧
    100000 ≤ (farS .data 100000).now.toNat - (askT .data).issued.toNat ∧ (farS .data 99999).now.toNat - (askT .data).issued.toNat < 100000 ∧
    (∀ o ∈ (farS .data 0).reads ++ [], ¬ (o.ctx = 0 ∧ o.uid = 0 ∧ o.exec = none)) :=
  ⟨by decide, by decide, by decide, by decide, ⟨rfl, by decide⟩, rfl, by decide, by decide, fun o h => (by cases h)⟩
theorem test_Answers_mgmt : let q := { askT .added with ctx := mgmtCtx }
    ({ mgmtT 0x10 0 with remote := [q] } : State).remote = q :: [] ∧ (mgmtT 0x10 0).up = true ∧ q.ctx = mgmtCtx := by decide

/-! ### Witnesses: attestation, link, sideband, test port -/

theorem test_Attestation : State.reset.spdmUp .doe = true ∧ State.reset.spdm.signing = none ∧
    ({ State.reset with spdm := { signing := some (.doe, 0x83) } } : State).spdm.signing ≠ none ∧
    ({ State.reset with spdm := { ready := some (.doe, 0xE4) } } : State).spdm.ready = some (.doe, 0xE4) ∧
    ({ State.reset with spdm := { chunk := some (.doe, 0xE4, 14) } } : State).spdm.chunk = some (.doe, 0xE4, 14) ∧
    (14 + 1) * 1024 < 16240 ∧ ¬ (15 + 1) * 1024 < 16240 ∧ (1 : Nat) ≤ 7 ∧
    ({ State.reset with boot := { State.reset.boot with spdmSideband := true } } : State).spdmUp .sideband = true := by decide
theorem test_Link : let s : State := { askS 0 with link := { ide := [(4, true)] }, boot := { State.reset.boot with ideRequired := true } }
    s.up = true ∧ (s.link.ide.any fun x => x.1 == 4) = true ∧ s.boot.ideRequired = true ∧
      ({ s with link := { s.link with ide := s.link.ide.filter fun x => x.1 != 4 } } : State).ideSecure = false ∧ askT .data ∈ s.reads ∧
      (s.ctx 0).alive = true ∧ ({ State.reset with spdm := { session := some .doe } } : State).spdm.session = some .doe ∧
      State.reset.reads = [] ∧ s.reads ≠ [] := by decide
theorem test_Sideband : State.reset.power.cur ≠ 4 ∧ ({ State.reset with power := { cur := 4 } } : State).power.cur = 4 ∧
    State.reset.boot.spdmSideband = false ∧ State.reset.boot.perstN = true ∧
    ({ State.reset with boot := { perstN := false, life := .held } } : State).boot.perstN = false := by decide

/-! ### Witnesses: the clauses not met above -/

theorem test_clauses_host : ({ State.reset with power := { cur := 2, exiting := true } } : State).power.exiting = true ∧
    ({ State.reset with boot := { life := .booting } } : State).boot.life = .booting ∧ State.reset.mem.latent = [] ∧
    (0xF1 : Word).getLsbD 0 = true ∧ (0xF1 : Word) &&& 0xF0 ≠ 0 ∧ (0x0F : Word) &&& 0xF0 = 0 := by decide
theorem test_clauses_canonical : State.reset.Canonical := ⟨by decide, by decide⟩

/-- A parity error is found in an item of the tile command that a stopped core runs. -/
theorem test_DebugEnableArmWindow_owner : let s := dbgT (ctxT []) [{ run := some tileT, dbgStop := true }]
    (s.core 0).dbgStop = true ∧ (s.core 0).itemOwner 0 63 = some (0, 0) ∧ (s.ctx 0).alive = true ∧ 0 < s.ctxs.length ∧
      s.dbg.sel.toNat / 2 ^ 20 % 16 ≤ 4 := by decide

theorem test_Snapshot_host :
    let q : Snap := { time := 5, seq := 0, groups := 2, addr := 0, host := true }
    let s : State := { mgmtT 0x18 0 with snap := some q, now := 5 }
    s.snap = some q ∧ q.time.toNat ≤ s.now.toNat ∧ s.hostUp = true ∧ s.mem.latent = [] ∧ (4 : Nat) < q.time.toNat := by decide
theorem test_CfgCheck_list : bits (64 * 2 ^ 320) 383 320 = 64 ∧ bit1 (64 * 2 ^ 320) 303 = false ∧
    (mgmtT 0x19 (64 * 2 ^ 320)).mgmtRun 0x19 = some { seq := 0, opcode := 0x19, desc := 64 * 2 ^ 320, start := 0 } ∧
    (mgmtT 0x19 0).mem.latent = [] := by decide
theorem test_CfgCheck_canonical : (mgmtT 0x19 0).Canonical := ⟨by decide, by decide⟩

/-- DESTROY of a context with a started command and a Rolig request outstanding. -/
theorem test_Destroy_far :
    let s : State := { opT 2 (ctxT [startM]) with remote := [askT .data] }
    s.opIs 2 0 = true ∧ (s.ctx 0).live = true ∧ (s.ctx 0).halted = false ∧ (s.ctx 0).teardown = none ∧
      (s.remote.any fun q => q.ctx == 0) = true ∧ ((s.ctx 0).alive && (s.ctx 0).anyActive) = true := by decide
theorem test_PreemptSaveDone : let q : Saved := { core := 7, state := { run := some tileT } }
    let s := opT 3 { ctxT [] with saving := true, preempted := true, savedCores := [q] }
    s.up = true ∧ (s.ctx 0).saving = true ∧ (s.ctx 0).halted = false ∧ (s.ctx 0).lateNan = none ∧ (s.ctx 0).alive = true ∧
      ((s.ctx 0).savedCores.find? fun v => v.core == 7) = some q ∧ q.state.prev.toList ++ q.state.run.toList ≠ [] := by decide

/-- Context 0 of priority 0 has a tile command to place; context 1 of priority 1 runs on every core, and more of it waits there. -/
def victimS : State :=
  { stT [ctxT [mmT], { ctxT [] with blk := some { blkT with prio := 1 } }] with
    cores := List.replicate 256 { run := some { tileT with ctx := 1 }, wait := some { tileT with ctx := 1 } } }
set_option maxRecDepth 8000 in
theorem test_TilePlacement_victim : victimS.toPlace 0 = some (.tile 0 none 0) ∧ victimS.coreFor 0 (.tile 0 none 0) = none ∧
    victimS.victim 0 (.tile 0 none 0) = some 1 ∧
    victimS.winner dispatchRes false ((List.range victimS.ctxs.length).filter victimS.competes) = some 0 := by decide
theorem test_Slice_debt : let x := { ctxT [] with sliceStart := some 0, sliceLen := 5, debt := 2000000000 }
    (stT [x]).rival 0 = false ∧ ((stT [x]).ctx 0).slice ≤ ((stT [x]).ctx 0).debt := by decide

theorem test_Doorbell_bad : let y := { ringT with bad := some 9, paused := true, resumeByte := some 3 }
    let x := { ctxT [] with rings := List.replicate 8 y }
    ((stT [x]).ctx 0).alive = true ∧ (((stT [x]).ctx 0).ring 0).bad = some 9 ∧ (((stT [x]).ctx 0).ring 0).paused = true ∧
      (((stT [x]).ctx 0).ring 0).en = true := by decide
theorem test_Fetch_mgmt :
    let s : State := { State.reset with mgmt := { active := true, base := 0x10000, logN := 6, tail := 1 } }
    s.hostUp = true ∧ s.mgmt.active = true ∧ s.mgmt.paused = false ∧ s.mgmt.running = none ∧ s.mgmt.fetched = none ∧
      s.mgmt.e ≠ s.mgmt.tail ∧ s.mgmt.room = true ∧ (BitVec.ofNat 32 (bits (leNat (List.replicate 64 0)) 511 480) : Word) = s.mgmt.e := by decide

theorem test_Timestamp_far : (oneT 0x13 (.stamp farT false)).Holds 0 0 (cmdT 0x13 (some (.work (.stamp farT false))) .checked) (.stamp farT false) ∧
    (ferryT (rowT 0 0 false false)).place farT = .there 3 64 ∧ (ferryT (rowT 0 0 false false)).routeOk 3 = true :=
  ⟨⟨rfl, rfl⟩, by decide, by decide⟩
theorem test_Slipway_poisoned : ({ oneT 0x10 (.signal 64 5) with mem := { poison := [1] } } : State).mem.poisoned 64 64 4 = true ∧
    (oneT 0x10 (.signal 64 5)).mem.latent = [] := by decide

set_option maxRecDepth 8000 in
theorem test_ComputeTrap_slots : (((List.range nanS.cores.length).filter fun k => (nanS.core k).runsFor 0).map fun k =>
    ((nanS.ctx 0).slotAddr k, slotBytes)) = [] := by decide
/-- A poisoned line beside a NaN while the trap is armed. -/
theorem test_Compute_defer : let s : State := { nanS with mem := { nanS.mem with poison := [0] } }
    runWork (s.workEnv (cmdT 0x09 (some (.work nanT)) .checked) nanT.philox) (s.trapArmed 0) nanT s.mem = .defer := rfl
theorem test_TransposeMoves_apart : let a := i8T 0 4 2
    let b := { i8T 4096 2 4 with s2 := 256, s3 := 256 }
    inRegions b.ranges (a.rowAddr 1 0 0 + 3) = false := by decide
theorem test_TableLoad_served : let s := oneT 0x0F loadW
    s.winner (tableRes 0) false (s.wanting (Cmd.loads 0)) = some 0 ∧ State.reset.winner (tableRes 0) false (State.reset.wanting (Cmd.loads 0)) ≠ some 0 := by
  decide
set_option maxRecDepth 8000 in
theorem test_TableLoad_image : (imageFault 0 (List.replicate 1024 (0xFF : Byte))).isSome = true := by decide +kernel
theorem test_Ferry_turn : let t := rowT farT 4096 false false
    (ferryT t).Turn 0 0 (ferryM t) (.ferry [t]) ∧ (ferryT t).place t.src = .there 3 64 ∧ (ferryT t).place t.dst = .here 4096 ∧
      (ferryT t).phaseTurn 0 0 0 = true ∧ (ferryT (rowT 4096 farT false false)).phaseTurn 0 0 0 = true :=
  ⟨⟨⟨rfl, rfl⟩, by decide, by decide⟩, by decide, by decide, by decide, by decide⟩

/-- An execution whose tile commands have ended, and one that has placed none of two. -/
theorem test_Stage_tiles : (({ tiles := [(2, [], 0), (1, [0, 1], 2)] } : StepProg).tilesOf 2) = some ([], 0) ∧
    (({ tiles := [(2, [], 0), (1, [0, 1], 2)] } : StepProg).tilesOf 1) = some ([0, 1], 2) ∧
    ((listS {}).dieBuf.getD ((listS {}).ctx 0).homeDie {}).latent = [] := by decide
theorem test_Pins_one : (listS {}).mem.latent = [] ∧ listT.pins = [{ src := 8192, bytes := 64, dbOff := 0, dies := 1 }] ∧ bit1 1 0 = true ∧
    0 < (listS {}).dieBuf.length := by decide
theorem test_Pins_canonical : (listS {}).Canonical := ⟨by decide, by decide⟩
theorem test_Steps_slip : let l := { listT with stepSlip := 0x40 }
    l.stepSlip ≠ 0 ∧ (listS {}).place l.stepSlip = .here 0x40 ∧ (listS {}).mem.poisoned 64 0x40 4 = false := by decide
/-- A list of one stage, in the prefix. -/
def listOne : StepList := { listT with stepBudget := 0, steps := 1, stages := [stageT 0], pins := [] }
def oneM : Cmd := cmdT 0x14 (some (.steps listOne)) .checked
theorem test_Steps_one : let s := stT [ctxT [oneM]]
    (s.ctx 0).cmd? 0 = some oneM ∧ (s.ctx 0).byUid oneM.uid = some oneM ∧ oneM.list? = some listOne ∧ s.ready 0 = true ∧
      (s.ctx 0).inOrder 0 oneM = true ∧ listOne.stagesOf 0 = [0] ∧ listOne.stagesOf 1 = [] ∧ listOne.stagesOf 2 = [] ∧ oneM.steps = {} ∧
      listOne.execution 0 = some { stage := 0, phase := 0, step := 0 } ∧ listOne.stageAt 0 = some (stageT 0) ∧ s.awaits 0 oneM.uid = false ∧
      s.mem.latent = [] ∧ ((listOne.workOf (stageT 0) { stage := 0, phase := 0, step := 0 }).row 0 0).isSome = true ∧
      ∃ mem sat, runWork (s.workEnv oneM (listOne.philox (stageT 0) { stage := 0, phase := 0, step := 0 })) (s.trapArmed 0)
        (listOne.workOf (stageT 0) { stage := 0, phase := 0, step := 0 }) s.mem = .done mem sat :=
  ⟨rfl, rfl, rfl, by decide, by decide, by decide, by decide, by decide, rfl, rfl, rfl, by decide, rfl, by decide, _, _, rfl⟩

theorem test_codec_canonical : (unitS []).Canonical ∧ ((unitS []).ctx 0).alive = true := ⟨⟨by decide, by decide⟩, by decide⟩
theorem test_MemoryRead_both : let s : State := { State.reset with mem := { poison := [1], latent := [(1, 3)] } }
    NatSet.mem (64 / memUnit .dram) (s.memOf .dram).poison = true ∧ Cells.get 0 1 (s.memOf .dram).latent + 0 = 3 ∧
      s.countDie .dram 64 < s.dies.length := by decide
theorem test_WriteHome_clauses : let q : Pending := { homeT with exec := some 1, out := some 2097152, core := 0 }
    let m : Cmd := { startM with steps := { tiles := [(1, [], 2)] } }
    let s : State := { stT [ctxT [m]] with writes := [q] }
    s.writes = q :: [] ∧ s.mem.latent = [] ∧ q.last = true ∧ (s.ctx 0).byUid 0 = some m ∧ m.steps.tilesOf 1 = some ([], 2) := by decide
theorem test_Scrub_reserved : let pos := 510 * 1048576 / 64 * 192
    let s : State := { State.reset with dies := [{ scrubPos := pos }, { scrubPos := pos, scrubBad := [pos] }] }
    scrubAddr 0 0 pos = none ∧ NatSet.mem pos (s.die 0).scrubBad = false ∧ NatSet.mem pos (s.die 1).scrubBad = true ∧ pos < 1610612736 := by decide
/-- Two ports with the same peer and peer port, and ports with other settings. -/
theorem test_Board_bad : let s := portS { state := 2, peer := 1, settings := 5 }
    s.boarded = true ∧ s.boardStatus = 0 ∧ bits s.cfg.board.toNat 15 6 = 5 ∧ (s.port 11).settings = 5 ∧
      ((portS { state := 2, peer := 1, settings := 6 }).port 11).settings ≠ 5 ∧ ({ s with boardStatus := 3 } : State).boardStatus ≠ 0 := by decide
theorem test_Inbound_clean : ({ State.reset with inPeers := 8, inLimit := 1 } : State).mem.latent = [] := rfl
theorem test_Bounded_part : ((coreP 1 []).core 0).mem.latent = [] ∧ (coreP 1 []).mem.latent = [] ∧ (coreP 1 []).trapArmed 0 = false := by decide

end Sys2Proof.Tests
end

section
/-! PROOFS. Bonded memory (11): the poison of the units that a write touches. -/

namespace Sys2Proof.Machine

/-- Do n bytes from a cover unit x whole (R292). -/
def coversUnit (u a n x : Nat) : Bool := decide (a ≤ x * u) && decide ((x + 1) * u ≤ a + n)

@[simp] theorem coversUnit_eq_true (u a n x : Nat) : coversUnit u a n x = true ↔ a ≤ x * u ∧ (x + 1) * u ≤ a + n := by
  simp [coversUnit]

/-- Of n bytes from a, with at least one, the touched units are those from the first byte's to the last byte's. -/
theorem mem_unitsOf {u a n x : Nat} (h : n ≠ 0) : x ∈ unitsOf u a n ↔ a / u ≤ x ∧ x ≤ (a + n - 1) / u := by
  have hle : a / u ≤ (a + n - 1) / u := Nat.div_le_div_right (by omega)
  simp only [unitsOf, h, if_false, List.mem_map, List.mem_range]
  constructor
  · rintro ⟨i, hi, rfl⟩
    omega
  · intro hx
    exact ⟨x - a / u, by omega, by omega⟩

theorem mem_unitsOf_of_coversUnit {u a n x : Nat} (hu : 0 < u) (hc : coversUnit u a n x = true) : x ∈ unitsOf u a n := by
  obtain ⟨hlo, hhi⟩ := (coversUnit_eq_true u a n x).mp hc
  rw [Nat.succ_mul] at hhi
  have hfirst : a / u ≤ x := Nat.div_le_of_le_mul (by rwa [Nat.mul_comm])
  have hlast : x ≤ (a + n - 1) / u := (Nat.le_div_iff_mul_le hu).mpr (by omega)
  exact (mem_unitsOf (by omega)).mpr ⟨hfirst, hlast⟩

/-- The poisoned units after unit x is marked, by the kind of data and the coverage. -/
theorem Mem.markUnit_poison (u a n : Nat) (pz : Bool) (m : Mem) (x : Nat) :
    (Mem.markUnit u a n pz m x).poison =
      if pz then NatSet.add x m.poison else if coversUnit u a n x then NatSet.del x m.poison else m.poison := by
  cases pz
  · exact apply_ite Mem.poison _ _ _
  · rfl

/-- The mark of unit x decides that unit's poison and no other's. -/
theorem Mem.mem_poison_markUnit (u a n : Nat) (pz : Bool) (m : Mem) (x y : Nat) :
    NatSet.mem y (Mem.markUnit u a n pz m x).poison =
      if y = x then pz || (NatSet.mem y m.poison && !coversUnit u a n y) else NatSet.mem y m.poison := by
  rw [Mem.markUnit_poison]
  by_cases hy : y = x
  · subst hy
    cases pz <;> cases coversUnit u a n y <;> simp
  · cases pz <;> cases coversUnit u a n x <;> simp [hy]

/-- The marks of a list of units decide the poison of its units and of no other: a unit marked again stays as it is. -/
theorem Mem.mem_poison_markUnits (u a n : Nat) (pz : Bool) (y : Nat) : ∀ (l : List Nat) (m : Mem),
    NatSet.mem y (l.foldl (Mem.markUnit u a n pz) m).poison =
      if y ∈ l then pz || (NatSet.mem y m.poison && !coversUnit u a n y) else NatSet.mem y m.poison
  | [], _ => by simp
  | x :: r, m => by
    rw [List.foldl_cons, Mem.mem_poison_markUnits u a n pz y r, Mem.mem_poison_markUnit]
    by_cases hx : y = x
    · subst hx
      cases pz <;> cases coversUnit u a n y <;> simp
    · simp [hx]

/-- R292, R293: whether a unit is poisoned after a write. -/
theorem Mem.mem_poison_write (m : Mem) (u a : Nat) (bs : List Byte) (pz : Bool) (y : Nat) :
    NatSet.mem y (m.write u a bs pz).poison =
      if y ∈ unitsOf u a bs.length then pz || (NatSet.mem y m.poison && !coversUnit u a bs.length y)
      else NatSet.mem y m.poison :=
  Mem.mem_poison_markUnits u a bs.length pz y _ m

/-- A write of good data clears the units that it covers whole. -/
theorem Mem.mem_poison_write_covered {m : Mem} {u a x : Nat} {bs : List Byte} (hu : 0 < u) (hc : coversUnit u a bs.length x = true) :
    NatSet.mem x (m.write u a bs false).poison = false := by
  simp [Mem.mem_poison_write, mem_unitsOf_of_coversUnit hu hc, hc]

/-- A write keeps the poison of a unit that it does not cover whole. -/
theorem Mem.mem_poison_write_partial {m : Mem} {u a x : Nat} {bs : List Byte} {pz : Bool} (hx : NatSet.mem x m.poison = true)
    (hc : coversUnit u a bs.length x = false) : NatSet.mem x (m.write u a bs pz).poison = true := by
  simp [Mem.mem_poison_write, hx, hc]

/-- Poisoned data poisons every unit that its write touches. -/
theorem Mem.mem_poison_write_poisoned {m : Mem} {u a x : Nat} {bs : List Byte} (hx : x ∈ unitsOf u a bs.length) :
    NatSet.mem x (m.write u a bs true).poison = true := by
  simp [Mem.mem_poison_write, hx]

end Sys2Proof.Machine

open Sys2Proof Sys2Proof.Machine

/-- Settles O50: the bytes by the laws of reading after a write, the poison by what a write does to the poison of each unit. -/
theorem writesAndPoison : Obligations.WritesAndPoison := by
  intro m u a bs hu hwf
  refine ⟨Mem.read_write m u a bs false hwf, Mem.sameOutside_write m u a bs false, ?covered, ?part, ?poisonedData⟩
  case covered =>
    intro x hlo hhi
    exact Mem.mem_poison_write_covered hu ((coversUnit_eq_true u a bs.length x).mpr ⟨hlo, hhi⟩)
  case part =>
    intro x hx hpart
    exact Mem.mem_poison_write_partial hx (Bool.eq_false_iff.mpr (mt (coversUnit_eq_true u a bs.length x).mp hpart))
  case poisonedData =>
    intro x hx
    exact Mem.mem_poison_write_poisoned hx
end

section
/-! PROOFS. Staged settings (17): what CFG_APPLY answers a management command that runs. -/

namespace Sys2Proof.Machine

/-- The TIME field of a CFG_APPLY descriptor (R455). -/
def MgmtDesc.applyAt (d : MgmtDesc) : Nat := bits d.desc 383 320

/-- Does CFG_APPLY refuse the descriptor's TIME (R455)? -/
def MgmtDesc.applyTimeRefused (d : MgmtDesc) : Bool :=
  d.applyAt != 0 && (decide (d.applyAt < d.start.toNat + 10000) || decide (d.start.toNat + 490000 < d.applyAt))

theorem MgmtDesc.applyTimeRefused_eq_true (d : MgmtDesc) : d.applyTimeRefused = true ↔
    d.applyAt ≠ 0 ∧ (d.applyAt < d.start.toNat + 10000 ∨ d.start.toNat + 490000 < d.applyAt) := by
  simp [MgmtDesc.applyTimeRefused]

/-- TIME is taken exactly when it is 0 or lies in the window, both of its ends included. -/
theorem MgmtDesc.applyTimeRefused_eq_false (d : MgmtDesc) : d.applyTimeRefused = false ↔
    d.applyAt = 0 ∨ (d.start.toNat + 10000 ≤ d.applyAt ∧ d.applyAt ≤ d.start.toNat + 490000) := by
  rw [← Bool.not_eq_true, MgmtDesc.applyTimeRefused_eq_true]
  omega

/-- The state in which the repeated checks of CFG_APPLY have found conflicts: CLEAN cleared, their count recorded (R455). -/
def State.conflicted (s : State) : State := { s with cfgClean := false, cfgConflicts := s.conflicts.length }

/-- The state in which CFG_APPLY has taken the staged set into the shadow and its command waits (R455). -/
def State.applyPending (s : State) (d : MgmtDesc) : State :=
  { s with
    shadow := some { time := BitVec.ofNat 64 (if d.applyAt = 0 then d.start.toNat + 10000 else d.applyAt), cfg := s.staged, decided := false }
    mgmt := { s.mgmt with running := some { d with waiting := true } } }

section
variable {s : State} {d : MgmtDesc} (hrun : s.mgmtRun 0x1A = some d)
include hrun

/-- The refusals of CFG_APPLY in their order, and what is left when none holds. -/
theorem exec_cfgApply : exec .cfgApply s = .next (
    if !s.cfgClean then s.mgmtDone 0x405 0
    else if !s.conflicts.isEmpty then s.conflicted.mgmtDone 0x400 s.conflicts.length
    else if d.applyTimeRefused then s.mgmtDone 0x406 0
    else s.applyPending d) := by
  change execCfgApply s = _
  rw [execCfgApply, hrun]
  rfl

theorem exec_cfgApply_unclean (hclean : s.cfgClean = false) : exec .cfgApply s = .next (s.mgmtDone 0x405 0) := by
  simp [exec_cfgApply hrun, hclean]

theorem exec_cfgApply_conflict (hclean : s.cfgClean = true) (hconf : s.conflicts ≠ []) :
    exec .cfgApply s = .next (s.conflicted.mgmtDone 0x400 s.conflicts.length) := by
  simp [exec_cfgApply hrun, hclean, hconf]

theorem exec_cfgApply_timeRefused (hclean : s.cfgClean = true) (hconf : s.conflicts = []) (htime : d.applyTimeRefused = true) :
    exec .cfgApply s = .next (s.mgmtDone 0x406 0) := by
  simp [exec_cfgApply hrun, hclean, hconf, htime]

theorem exec_cfgApply_pending (hclean : s.cfgClean = true) (hconf : s.conflicts = []) (htime : d.applyTimeRefused = false) :
    exec .cfgApply s = .next (s.applyPending d) := by
  simp [exec_cfgApply hrun, hclean, hconf, htime]

end

end Sys2Proof.Machine

open Sys2Proof Sys2Proof.Machine

/-- Settles O22: one case per refusal, in the order of the codes, and one for the TIME that is taken. -/
theorem cfgApplyRule : Obligations.CfgApplyRule := by
  intro s d hrun t start
  refine ⟨exec_cfgApply_unclean hrun, exec_cfgApply_conflict hrun, ?timeRefused, ?pending⟩
  case timeRefused =>
    intro hclean hconf hne hout
    exact exec_cfgApply_timeRefused hrun hclean hconf (d.applyTimeRefused_eq_true.mpr ⟨hne, hout⟩)
  case pending =>
    intro hclean hconf hin
    exact exec_cfgApply_pending hrun hclean hconf (d.applyTimeRefused_eq_false.mpr hin)
end

section
/-! PROOFS. Test mode (18): what a write of TEST_EN does, and that no injection acts outside test mode. -/

namespace Sys2Proof.Machine

/-! ### A packet of the host leaves the mode registers and the boot state as they are -/

@[simp] theorem State.dbg_received (s : State) (n : Nat) : (s.received n).dbg = s.dbg := by
  obtain ⟨k, h⟩ := s.received_shape n
  rw [h]

@[simp] theorem State.boot_received (s : State) (n : Nat) : (s.received n).boot = s.boot := by
  obtain ⟨k, h⟩ := s.received_shape n
  rw [h]

@[simp] theorem State.up_received (s : State) (n : Nat) : (s.received n).up = s.up := by
  obtain ⟨k, h⟩ := s.received_shape n
  rw [h]
  rfl

/-! ### Writes of TEST_EN (R467, R473) -/

theorem State.setTest_true_of_not_permitted {s : State} (hperm : s.boot.testPermit = false) : s.setTest true = s := by
  simp [State.setTest, hperm]

section
variable {s : State} (hup : s.up = true)
include hup

theorem State.setTest_true_of_permitted (hoff : s.dbg.tstEn = false) (hperm : s.boot.testPermit = true) :
    s.setTest true = State.modeMsg { s with dbg := { s.dbg with tstEn := true } } := by
  simp [State.setTest, hup, hoff, hperm]

/-- Clearing TEST_EN keeps the debug registers; every field of test mode takes the value that it has at reset. -/
theorem State.setTest_false_of_on (hon : s.dbg.tstEn = true) :
    s.setTest false =
      State.modeMsg { s with dbg := { dbgEn := s.dbg.dbgEn, err := s.dbg.err, ctx := s.dbg.ctx, sel := s.dbg.sel } } := by
  simp [State.setTest, hup, hon]

end

theorem exec_testEnWrite (v : Bool) (s : State) : exec (.testEnWrite v) s = .next ((s.received 4).setTest v) := rfl

/-! ### Injections ask for test mode (R475, R476) -/

section
variable {s : State} (hoff : s.dbg.tstEn = false)
include hoff

theorem State.eccHits_eq_none_of_test_off (target who u a n : Nat) : s.eccHits target who u a n = none := by
  simp [State.eccHits, hoff]

theorem State.injects_eq_none_of_test_off (k : Nat) (w : Mode) : s.injects k w = none := by
  simp [State.injects, hoff]

end

end Sys2Proof.Machine

open Sys2Proof Sys2Proof.Machine

/-- Settles O16: one case per write of TEST_EN, and TEST_EN as the first condition of each injection. -/
theorem testModeRule : Obligations.TestModeRule := by
  intro s
  refine ⟨?notPermitted, ?permitted, ?cleared, ?quiet⟩
  case notPermitted =>
    intro _ _ hperm
    rw [exec_testEnWrite, State.setTest_true_of_not_permitted (by simpa using hperm)]
  case permitted =>
    intro hup hoff hperm
    rw [exec_testEnWrite, State.setTest_true_of_permitted (by simpa using hup) (by simpa using hoff) (by simpa using hperm),
      State.dbg_received]
  case cleared =>
    intro hup hon
    rw [exec_testEnWrite, State.setTest_false_of_on (by simpa using hup) (by simpa using hon), State.dbg_received]
  case quiet =>
    intro hoff
    exact ⟨State.eccHits_eq_none_of_test_off hoff, State.injects_eq_none_of_test_off hoff⟩
end

section
/-! PROOFS. Invariants: what every command keeps, said once for each operation of the model, and that a command completes. -/

namespace Sys2Proof.Machine

/-- The modes of a device that starts in state s: where the invariants of the modes held in s, they hold of these debug and boot registers. -/
def ModesKept (s : State) (g : Dbg) (b : Boot) : Prop :=
  (s.Permitted → (g.dbgEn = true → b.debugPermit = true) ∧ (g.tstEn = true → b.testPermit = true)) ∧
  (s.TestQuiet → g.tstEn = false →
    g.handshake = 0 ∧ g.credit = 0 ∧ g.delay = 0 ∧ g.eccLo = 0 ∧ g.eccHi = 0 ∧ g.eccCtrl = 0 ∧
      g.eccArmed = false ∧ g.nan = 0 ∧ g.nanArmed = false)

/-- Error counts within their 16 bits, where those of s were. -/
def DiesKept (s : State) (ds : List Die) : Prop := s.CountsFit → ∀ y ∈ ds, y.corr ≤ 0xFFFF ∧ y.uncorr ≤ 0xFFFF

/-- A group of n members, where the groups of s have their sizes. -/
def SizeKept (s : State) (n k : Nat) : Prop := s.Shaped → k = n

@[simp] theorem sizeKept_self (s : State) (n : Nat) : SizeKept s n n := fun _ => rfl

/-- Every invariant that holds of s holds of t. -/
structure Keeps (s t : State) : Prop where
  modesKept : ModesKept s t.dbg t.boot
  countsKept : DiesKept s t.dies
  ctxsKept : SizeKept s 64 t.ctxs.length
  coresKept : SizeKept s 256 t.cores.length
  diesKept : SizeKept s 4 t.dies.length
  dieBufKept : SizeKept s 4 t.dieBuf.length
  enginesKept : SizeKept s 36 t.engines.length
  portsKept : SizeKept s 12 t.ports.length
  routesKept : SizeKept s 16 t.routes.length

@[simp] theorem Keeps.modes {s t : State} (h : Keeps s t) : ModesKept s t.dbg t.boot := h.modesKept
@[simp] theorem Keeps.counts {s t : State} (h : Keeps s t) : DiesKept s t.dies := h.countsKept
@[simp] theorem Keeps.ctxs {s t : State} (h : Keeps s t) : SizeKept s 64 t.ctxs.length := h.ctxsKept
@[simp] theorem Keeps.cores {s t : State} (h : Keeps s t) : SizeKept s 256 t.cores.length := h.coresKept
@[simp] theorem Keeps.dies {s t : State} (h : Keeps s t) : SizeKept s 4 t.dies.length := h.diesKept
@[simp] theorem Keeps.dieBuf {s t : State} (h : Keeps s t) : SizeKept s 4 t.dieBuf.length := h.dieBufKept
@[simp] theorem Keeps.engines {s t : State} (h : Keeps s t) : SizeKept s 36 t.engines.length := h.enginesKept
@[simp] theorem Keeps.ports {s t : State} (h : Keeps s t) : SizeKept s 12 t.ports.length := h.portsKept
@[simp] theorem Keeps.routes {s t : State} (h : Keeps s t) : SizeKept s 16 t.routes.length := h.routesKept

@[simp] theorem Keeps.refl (s : State) : Keeps s s where
  modesKept := ⟨id, id⟩
  countsKept := id
  ctxsKept := fun h => h.1
  coresKept := fun h => h.2.1
  diesKept := fun h => h.2.2.1
  dieBufKept := fun h => h.2.2.2.1
  enginesKept := fun h => h.2.2.2.2.1
  portsKept := fun h => h.2.2.2.2.2.1
  routesKept := fun h => h.2.2.2.2.2.2

theorem Keeps.permitted {s t : State} (h : Keeps s t) (i : s.Permitted) : t.Permitted := h.modes.1 i
theorem Keeps.testQuiet {s t : State} (h : Keeps s t) (i : s.TestQuiet) : t.TestQuiet := h.modes.2 i
theorem Keeps.shaped {s t : State} (h : Keeps s t) (i : s.Shaped) : t.Shaped :=
  ⟨h.ctxs i, h.cores i, h.dies i, h.dieBuf i, h.engines i, h.ports i, h.routes i⟩
theorem Keeps.countsFit {s t : State} (h : Keeps s t) (i : s.CountsFit) : t.CountsFit := h.counts i

theorem Keeps.trans {s t u : State} (h : Keeps s t) (k : Keeps t u) : Keeps s u where
  modesKept := ⟨fun i => k.modes.1 (h.permitted i), fun i => k.modes.2 (h.testQuiet i)⟩
  countsKept := fun i => k.counts (h.countsFit i)
  ctxsKept := fun i => k.ctxs (h.shaped i)
  coresKept := fun i => k.cores (h.shaped i)
  diesKept := fun i => k.dies (h.shaped i)
  dieBufKept := fun i => k.dieBuf (h.shaped i)
  enginesKept := fun i => k.engines (h.shaped i)
  portsKept := fun i => k.ports (h.shaped i)
  routesKept := fun i => k.routes (h.shaped i)

/-- What a state written out field by field keeps. -/
@[simp] theorem keeps_mk {s : State} {pending now tbValid free tx txFrom cbLo cbHi opBusy opCtx opResult opHeld opCb mgmtLo mgmtHi mgmtCtrl
    hostToken msix pba applyTime hiApply hiTel cfgClean cfgConflicts inBase inLimit inPeers inRefused boardStatus synced staged cfg shadow snap
    mem dieBuf hubMem cores tables ctxs mgmt arb sessions engines power dies ports routes reads remote writes link spdm boot dbg jtag counters} :
    Keeps s (State.mk pending now tbValid free tx txFrom cbLo cbHi opBusy opCtx opResult opHeld opCb mgmtLo mgmtHi mgmtCtrl
      hostToken msix pba applyTime hiApply hiTel cfgClean cfgConflicts inBase inLimit inPeers inRefused boardStatus synced staged cfg shadow snap
      mem dieBuf hubMem cores tables ctxs mgmt arb sessions engines power dies ports routes reads remote writes link spdm boot dbg jtag counters) ↔
    ModesKept s dbg boot ∧ DiesKept s dies ∧ SizeKept s 64 ctxs.length ∧ SizeKept s 256 cores.length ∧
      SizeKept s 4 dies.length ∧ SizeKept s 4 dieBuf.length ∧ SizeKept s 36 engines.length ∧ SizeKept s 12 ports.length ∧
      SizeKept s 16 routes.length :=
  ⟨fun ⟨a, b, c, d, e, f, g, h, i⟩ => ⟨a, b, c, d, e, f, g, h, i⟩,
    fun ⟨a, b, c, d, e, f, g, h, i⟩ => ⟨a, b, c, d, e, f, g, h, i⟩⟩

/-- The same, read the other way. -/
@[simp] theorem keeps_of_fields {s u : State} :
    (ModesKept s u.dbg u.boot ∧ DiesKept s u.dies ∧ SizeKept s 64 u.ctxs.length ∧ SizeKept s 256 u.cores.length ∧
      SizeKept s 4 u.dies.length ∧ SizeKept s 4 u.dieBuf.length ∧ SizeKept s 36 u.engines.length ∧ SizeKept s 12 u.ports.length ∧
      SizeKept s 16 u.routes.length) ↔ Keeps s u :=
  ⟨fun ⟨a, b, c, d, e, f, g, h, i⟩ => ⟨a, b, c, d, e, f, g, h, i⟩, fun ⟨a, b, c, d, e, f, g, h, i⟩ => ⟨a, b, c, d, e, f, g, h, i⟩⟩

@[simp] theorem keeps_ite {s a b : State} {p : Prop} [Decidable p] : Keeps s (if p then a else b) ↔ if p then Keeps s a else Keeps s b :=
  iff_of_eq (apply_ite (Keeps s) p a b)

@[simp] theorem Keeps.foldl {α : Type} {s u : State} {f : State → α → State} (h : Keeps s u) (hf : ∀ t x, Keeps t (f t x)) (l : List α) :
    Keeps s (l.foldl f u) := by
  induction l generalizing u with
  | nil => exact h
  | cons x r ih => exact ih (h.trans (hf u x))

theorem Keeps.ofIte {s a b : State} {p : Prop} [Decidable p] (ha : Keeps s a) (hb : Keeps s b) : Keeps s (if p then a else b) := by
  split
  · exact ha
  · exact hb

theorem Keeps.ite_fst {α : Type} {s : State} {a b : State × α} {p : Prop} [Decidable p] (ha : Keeps s a.1) (hb : Keeps s b.1) :
    Keeps s (if p then a else b).1 := by
  split
  · exact ha
  · exact hb

theorem keeps_foldl {α : Type} {s u : State} {f : State → α → State} (hf : ∀ t x, Keeps s (f t x) ↔ Keeps s t) (l : List α) :
    Keeps s (l.foldl f u) ↔ Keeps s u := by
  induction l generalizing u with
  | nil => rfl
  | cons x r ih => exact ih.trans (hf u x)

theorem keeps_foldl_fst {α β : Type} {s : State} {f : State × β → α → State × β} (hf : ∀ t x, Keeps s (f t x).1 ↔ Keeps s t.1) (l : List α)
    (u : State × β) : Keeps s (l.foldl f u).1 ↔ Keeps s u.1 := by
  induction l generalizing u with
  | nil => rfl
  | cons x r ih => exact (ih _).trans (hf u x)

theorem Keeps.foldl_fst {α β : Type} {s : State} {f : State × β → α → State × β} (hf : ∀ t x, Keeps t.1 (f t x).1) (l : List α)
    (u : State × β) (h : Keeps s u.1) : Keeps s (l.foldl f u).1 := by
  induction l generalizing u with
  | nil => exact h
  | cons x r ih => exact ih _ (h.trans (hf u x))

/-! ### Modes -/

/-- The invariants of the modes do not speak of DBG_ERR, the selected context and item, and the address that an injection took. -/
@[simp] theorem modesKept_dbg {s : State} {g : Dbg} {b : Boot} {err ctx sel armLo armHi} :
    ModesKept s { g with err := err, ctx := ctx, sel := sel, armLo := armLo, armHi := armHi } b ↔ ModesKept s g b := Iff.rfl

/-- Of the boot state they speak of the two permits alone. -/
@[simp] theorem modesKept_boot {s : State} {g : Dbg} {b : Boot} {life perstN pwrgd thermtripN stage failA failB slot cfgGen cfgDefault rsaSlot slhSlot
    pkg fwVersion imageSvn svnTarget recLo recHi fired heartbeat lastBeat otp wrapped boardId sbMode ideRequired spdmSideband i3cAddr bar2Size
    imageGood} :
    ModesKept s g { b with
      life := life, perstN := perstN, pwrgd := pwrgd, thermtripN := thermtripN, stage := stage, failA := failA, failB := failB, slot := slot
      cfgGen := cfgGen, cfgDefault := cfgDefault, rsaSlot := rsaSlot, slhSlot := slhSlot, pkg := pkg, fwVersion := fwVersion, imageSvn := imageSvn
      svnTarget := svnTarget, recLo := recLo, recHi := recHi, fired := fired, heartbeat := heartbeat, lastBeat := lastBeat, otp := otp
      wrapped := wrapped, boardId := boardId, sbMode := sbMode, ideRequired := ideRequired, spdmSideband := spdmSideband, i3cAddr := i3cAddr
      bar2Size := bar2Size, imageGood := imageGood } ↔ ModesKept s g b := Iff.rfl

/-- The same, told by the permits. -/
theorem ModesKept.of_permits {s : State} {g : Dbg} {b b' : Boot} (h : ModesKept s g b) (hd : b'.debugPermit = b.debugPermit)
    (ht : b'.testPermit = b.testPermit) : ModesKept s g b' := by
  obtain ⟨hp, hq⟩ := h
  exact ⟨fun i => by rw [hd, ht]; exact hp i, hq⟩

/-- The reset values of the modes keep them under any boot state. -/
theorem modesKept_reset (s : State) (b : Boot) : ModesKept s {} b := ⟨by simp, by simp⟩

/-- While test mode is on its registers are free. -/
@[simp] theorem ModesKept.testOn {s : State} {g : Dbg} {b : Boot} {err ctx sel handshake credit delay eccLo eccHi eccCtrl eccArmed armLo armHi nan nanArmed}
    (h : ModesKept s g b) (hon : g.tstEn = true) :
    ModesKept s { g with
      err := err, ctx := ctx, sel := sel, handshake := handshake, credit := credit, delay := delay, eccLo := eccLo, eccHi := eccHi
      eccCtrl := eccCtrl, eccArmed := eccArmed, armLo := armLo, armHi := armHi, nan := nan, nanArmed := nanArmed } b :=
  ⟨h.1, fun _ hoff => by simp [hon] at hoff⟩

/-- Debug mode goes on where it is permitted. -/
theorem ModesKept.debug {s : State} {g : Dbg} {b : Boot} (h : ModesKept s g b) {v : Bool} (hv : v = true → b.debugPermit = true) :
    ModesKept s { g with dbgEn := v } b :=
  ⟨fun i => ⟨hv, (h.1 i).2⟩, h.2⟩

/-- Test mode goes on where it is permitted. -/
theorem ModesKept.testEnters {s : State} {g : Dbg} {b : Boot} (h : ModesKept s g b) (hv : b.testPermit = true) :
    ModesKept s { g with tstEn := true } b :=
  ⟨fun i => ⟨(h.1 i).1, fun _ => hv⟩, fun _ hoff => by simp at hoff⟩

/-- The end of test mode keeps the debug registers alone. -/
theorem ModesKept.testLeaves {s : State} {g : Dbg} {b : Boot} (h : ModesKept s g b) :
    ModesKept s { dbgEn := g.dbgEn, err := g.err, ctx := g.ctx, sel := g.sel } b :=
  ⟨fun i => ⟨(h.1 i).1, by simp⟩, by simp⟩

/-- An injection is over. -/
@[simp] theorem ModesKept.disarm {s : State} {g : Dbg} {b : Boot} (h : ModesKept s g b) : ModesKept s { g with eccArmed := false } b := by
  obtain ⟨hp, hq⟩ := h
  refine ⟨hp, fun i hoff => ?_⟩
  obtain ⟨h1, h2, h3, h4, h5, h6, -, h8, h9⟩ := hq i hoff
  exact ⟨h1, h2, h3, h4, h5, h6, rfl, h8, h9⟩

@[simp] theorem ModesKept.disarmNan {s : State} {g : Dbg} {b : Boot} (h : ModesKept s g b) : ModesKept s { g with nanArmed := false } b := by
  obtain ⟨hp, hq⟩ := h
  refine ⟨hp, fun i hoff => ?_⟩
  obtain ⟨h1, h2, h3, h4, h5, h6, h7, h8, -⟩ := hq i hoff
  exact ⟨h1, h2, h3, h4, h5, h6, h7, h8, rfl⟩

/-- An error count within its 16 bits, where those of s were. -/
def CountKept (s : State) (n : Nat) : Prop := s.CountsFit → n ≤ 0xFFFF

/-- Both counts of a die. -/
def DieKept (s : State) (y : Die) : Prop := CountKept s y.corr ∧ CountKept s y.uncorr

@[simp] theorem countKept_min (s : State) (n : Nat) : CountKept s (min n 0xFFFF) := fun _ => Nat.min_le_right _ _
@[simp] theorem countKept_zero (s : State) : CountKept s 0 := fun _ => Nat.zero_le _
@[simp] theorem DieKept.corr {s : State} {y : Die} (h : DieKept s y) : CountKept s y.corr := h.1
@[simp] theorem DieKept.uncorr {s : State} {y : Die} (h : DieKept s y) : CountKept s y.uncorr := h.2
@[simp] theorem dieKept_mk {s : State} {corr uncorr logLo logHi scrubPos scrubBad} :
    DieKept s (Die.mk corr uncorr logLo logHi scrubPos scrubBad) ↔ CountKept s corr ∧ CountKept s uncorr := Iff.rfl
@[simp] theorem dieKept_ite {s : State} {a b : Die} {p : Prop} [Decidable p] :
    DieKept s (if p then a else b) ↔ (p → DieKept s a) ∧ (¬ p → DieKept s b) := by
  split <;> simp_all

@[simp] theorem Keeps.die {s t : State} (h : Keeps s t) (d : Nat) : DieKept s (t.die d) := by
  have key : s.CountsFit → (t.die d).corr ≤ 0xFFFF ∧ (t.die d).uncorr ≤ 0xFFFF := by
    intro i
    rw [State.die, List.getD_eq_getElem?_getD]
    cases hd : t.dies[d]? with
    | none => exact ⟨Nat.zero_le _, Nat.zero_le _⟩
    | some y => exact h.counts i y (List.mem_of_getElem? hd)
  exact ⟨fun i => (key i).1, fun i => (key i).2⟩

@[simp] theorem DiesKept.set {s : State} {l : List Die} {d : Nat} {y : Die} (h : DiesKept s l) (hy : DieKept s y) : DiesKept s (l.set d y) := by
  intro i z hz
  rcases List.mem_or_eq_of_mem_set hz with hm | rfl
  · exact h i z hm
  · exact ⟨hy.1 i, hy.2 i⟩

/-- A command completes, and keeps the invariants of s. -/
def Advances (s : State) (o : Host.Outcome State Fault Refusal) : Prop := ∃ t, o = .next t ∧ Keeps s t

@[simp] theorem advances_next {s t : State} : Advances s (.next t) ↔ Keeps s t := by simp [Advances]

@[simp] theorem advances_ite {s : State} {a b : Host.Outcome State Fault Refusal} {p : Prop} [Decidable p] :
    Advances s (if p then a else b) ↔ if p then Advances s a else Advances s b :=
  iff_of_eq (apply_ite (Advances s) p a b)

/-! ### Shared operations -/

@[simp] theorem keeps_setCtx {s u : State} {c x} : Keeps s (u.setCtx c x) ↔ Keeps s u := by
  unfold State.setCtx
  simp

@[simp] theorem keeps_setCore {s u : State} {k x} : Keeps s (u.setCore k x) ↔ Keeps s u := by
  unfold State.setCore
  simp

@[simp] theorem Keeps.setDie {s u : State} (h : Keeps s u) (d) {y : Die} (hy : DieKept s y) : Keeps s (u.setDie d y) := by simp [State.setDie, h, hy]

@[simp] theorem keeps_send {s u : State} {p} : Keeps s (u.send p) ↔ Keeps s u := by
  unfold State.send
  simp

@[simp] theorem keeps_drawn {s u : State} : Keeps s (u.drawn) ↔ Keeps s u := by
  unfold State.drawn
  simp

@[simp] theorem keeps_count {s u : State} {i n} : Keeps s (u.count i n) ↔ Keeps s u := by
  unfold State.count
  simp

@[simp] theorem keeps_toHost {s u : State} {p} : Keeps s (u.toHost p) ↔ Keeps s u := by
  unfold State.toHost
  simp

@[simp] theorem keeps_wake {s u : State} : Keeps s (u.wake) ↔ Keeps s u := by
  unfold State.wake
  simp

@[simp] theorem keeps_carry {s u : State} (a b n) : Keeps s (u.carry a b n) ↔ Keeps s u := keeps_foldl (by simp) _

@[simp] theorem keeps_carryFrom {s u : State} (a b) : Keeps s (u.carryFrom a b) ↔ Keeps s u := keeps_foldl (fun _ _ => keeps_foldl (by simp) _) _

@[simp] theorem keeps_carryTo {s u : State} (a b n) : Keeps s (u.carryTo a b n) ↔ Keeps s u := keeps_foldl (by simp) _

@[simp] theorem keeps_dieFerry {s u : State} {die n} : Keeps s (u.dieFerry die n) ↔ Keeps s u := by
  unfold State.dieFerry
  simp

@[simp] theorem keeps_carryCopy {s u : State} (a b n) : Keeps s (u.carryCopy a b n) ↔ Keeps s u :=
  keeps_foldl_fst (fun _ _ => (keeps_foldl (by simp) _).trans (by simp)) _ _

@[simp] theorem keeps_received {s u : State} {n} : Keeps s (u.received n) ↔ Keeps s u := by
  unfold State.received
  simp

@[simp] theorem numbered_length {α : Type} (l : List α) : (numbered l).length = l.length := by simp [numbered]

@[simp] theorem keeps_fetched {s u : State} (a) : Keeps s (u.fetched a) ↔ Keeps s u := by cases a <;> simp [State.fetched]

@[simp] theorem keeps_hostStruct {s u : State} {addr data} : Keeps s (u.hostStruct addr data) ↔ Keeps s u := by
  unfold State.hostStruct
  simp

@[simp] theorem keeps_sendMsix {s u : State} {v} : Keeps s (u.sendMsix v) ↔ Keeps s u := by
  unfold State.sendMsix
  simp

@[simp] theorem keeps_mgmtLine {s u : State} : Keeps s (u.mgmtLine) ↔ Keeps s u := by
  unfold State.mgmtLine
  simp

@[simp] theorem keeps_putMessage {s u : State} {kind ref ctx ring mg code detail} : Keeps s (u.putMessage kind ref ctx ring mg code detail) ↔ Keeps s u := by
  unfold State.putMessage
  simp

@[simp] theorem keeps_message {s u : State} {kind ref ctx ring mg code detail} : Keeps s (u.message kind ref ctx ring mg code detail) ↔ Keeps s u := by
  unfold State.message
  simp

@[simp] theorem keeps_mgmtDone {s u : State} {code detail} : Keeps s (u.mgmtDone code detail) ↔ Keeps s u := by
  unfold State.mgmtDone
  split <;> simp

@[simp] theorem Keeps.corrected {s u : State} (h : Keeps s u) (d) : Keeps s (u.corrected d) := h.setDie d (by simp [h.die d])

@[simp] theorem Keeps.memError {s u : State} (h : Keeps s u) (d a b c e f g) : Keeps s (u.memError d a b c e f g) := by
  unfold State.memError
  dsimp only
  refine keeps_message.mpr (h.setDie d ?_)
  split <;> simp [h.die d]

@[simp] theorem keeps_setMem {s u : State} (t m) : Keeps s (u.setMem t m) ↔ Keeps s u := by cases t <;> simp [State.setMem]

@[simp] theorem State.setMem_dbg (s : State) (t : MemTarget) (m : Mem) : (s.setMem t m).dbg = s.dbg := by cases t <;> rfl
@[simp] theorem State.setMem_boot (s : State) (t : MemTarget) (m : Mem) : (s.setMem t m).boot = s.boot := by cases t <;> rfl

@[simp] theorem keeps_errCounter {s u : State} {t a j} : Keeps s (u.errCounter t a j) ↔ Keeps s u := by
  unfold State.errCounter
  split <;> simp

@[simp] theorem Keeps.badEvent {s u : State} (h : Keeps s u) (t a ctx) : Keeps s (u.badEvent t a ctx) := by
  unfold State.badEvent
  split <;> simp [h]

@[simp] theorem Keeps.unitRead {s u : State} (h : Keeps s u) (m x nsym victim) : Keeps s (u.unitRead m x nsym victim) := by
  unfold State.unitRead
  dsimp only
  (repeat' split) <;> simp [h]

@[simp] theorem Keeps.settleIn {s u : State} (h : Keeps s u) (a b c) : Keeps s (u.settleIn a b c) := Keeps.foldl h (by simp) _

@[simp] theorem Keeps.settle {s u : State} (h : Keeps s u) (rs victim) : Keeps s (u.settle rs victim) := by
  unfold State.settle
  simp [h]

@[simp] theorem Keeps.memWrite {s u : State} (h : Keeps s u) (m a b c d e) : Keeps s (u.memWrite m a b c d e) := by
  unfold State.memWrite
  dsimp only
  generalize hv : (if (u.memOf m).latent.isEmpty then u else _) = v
  have hk : Keeps s v := by rw [← hv]; split <;> simp [h]
  split
  · simpa using hk
  · rename_i w
    have hm (z : Mem) : Keeps s (v.setMem m z) := (keeps_setMem m z).mpr hk
    simp [hm, hk]

@[simp] theorem Keeps.devWrite {s u : State} (h : Keeps s u) (a bs pz) : Keeps s (u.devWrite a bs pz) := by
  unfold State.devWrite
  simp [h]

@[simp] theorem Keeps.hubWrite {s u : State} (h : Keeps s u) (a bs pz) : Keeps s (u.hubWrite a bs pz) := by
  unfold State.hubWrite
  simp [h]

@[simp] theorem Keeps.bufWrite {s u : State} (h : Keeps s u) (d a bs pz) : Keeps s (u.bufWrite d a bs pz) := by
  unfold State.bufWrite
  simp [h]

@[simp] theorem Keeps.l1Write {s u : State} (h : Keeps s u) (k a bs pz) : Keeps s (u.l1Write k a bs pz) := by
  unfold State.l1Write
  simp [h]

@[simp] theorem keeps_havoc {s u : State} (a) : Keeps s (u.havoc a) ↔ Keeps s u := keeps_foldl (by simp) _

@[simp] theorem Keeps.slipAdd {s u : State} (h : Keeps s u) (a inc) : Keeps s (u.slipAdd a inc) := by
  unfold State.slipAdd
  simp [h]

@[simp] theorem keeps_writeLine {s u : State} {c} : Keeps s (u.writeLine c) ↔ Keeps s u := by
  unfold State.writeLine
  dsimp only
  split <;> simp

@[simp] theorem keeps_considerIrq {s u : State} {c} : Keeps s (u.considerIrq c) ↔ Keeps s u := by
  unfold State.considerIrq
  dsimp only
  split <;> simp

@[simp] theorem keeps_putRecord {s u : State} {c m status err item detail time} : Keeps s (u.putRecord c m status err item detail time) ↔ Keeps s u := by
  unfold State.putRecord
  dsimp only
  split <;> simp

@[simp] theorem keeps_afterRecords {s u : State} {c} : Keeps s (u.afterRecords c) ↔ Keeps s u := by
  unfold State.afterRecords
  simp

@[simp] theorem keeps_landCore {s u : State} {x k y} : Keeps s (u.landCore x k y) ↔ Keeps s u := by
  unfold State.landCore
  simp

@[simp] theorem keeps_withdraw {s u : State} {c} : Keeps s (u.withdraw c) ↔ Keeps s u := by
  unfold State.withdraw
  simp

@[simp] theorem Keeps.saveCtx {s u : State} (h : Keeps s u) (c) : Keeps s (u.saveCtx c) := by
  unfold State.saveCtx
  simp [h, keeps_foldl, Keeps.foldl]

@[simp] theorem Keeps.preemptCtx {s u : State} (h : Keeps s u) (c) : Keeps s (u.preemptCtx c) := by
  unfold State.preemptCtx
  simp [h]

@[simp] theorem keeps_dropSessions {s u : State} {f} : Keeps s (u.dropSessions f) ↔ Keeps s u := by
  unfold State.dropSessions
  simp

@[simp] theorem keeps_faultCtx {s u : State} {c code uid} : Keeps s (u.faultCtx c code uid) ↔ Keeps s u := by
  unfold State.faultCtx
  simp

@[simp] theorem Keeps.parityFault {s u : State} (h : Keeps s u) (k c uid code source at_) : Keeps s (u.parityFault k c uid code source at_) := by
  unfold State.parityFault
  simp [h]

@[simp] theorem Keeps.takeTrap {s u : State} (h : Keeps s u) (c op m step recStep recStage n) : Keeps s (u.takeTrap c op m step recStep recStage n) := by
  unfold State.takeTrap
  dsimp only
  split <;> simp [h]

@[simp] theorem Keeps.missWrite {s u : State} (h : Keeps s u) (c dseq time seq cnt wait kind core step stage) : Keeps s (u.missWrite c dseq time seq cnt wait kind core step stage) := by
  unfold State.missWrite
  split <;> simp [h]

@[simp] theorem Keeps.deadlineMiss {s u : State} (h : Keeps s u) (c uid dseq time seq cnt wait kind core step stage) : Keeps s (u.deadlineMiss c uid dseq time seq cnt wait kind core step stage) := by
  unfold State.deadlineMiss
  simp [h]

@[simp] theorem Keeps.missCheck {s u : State} (h : Keeps s u) (c uid seq kind step) : Keeps s (u.missCheck c uid seq kind step) := by
  unfold State.missCheck
  simp [h]

@[simp] theorem keeps_failAsker {s u : State} {w code} : Keeps s (u.failAsker w code) ↔ Keeps s u := by
  unfold State.failAsker
  split <;> simp

@[simp] theorem keeps_remoteReq {s u : State} {w dev a p kind dst n last slip row} : Keeps s (u.remoteReq w dev a p kind dst n last slip row) ↔ Keeps s u := by
  unfold State.remoteReq
  simp

@[simp] theorem keeps_setPhase {s u : State} {c uid p} : Keeps s (u.setPhase c uid p) ↔ Keeps s u := by
  unfold State.setPhase
  simp

@[simp] theorem keeps_finish {s u : State} {c uid} : Keeps s (u.finish c uid) ↔ Keeps s u := by
  unfold State.finish
  simp

@[simp] theorem keeps_ltrUpdate {s u : State} : Keeps s (u.ltrUpdate) ↔ Keeps s u := by
  unfold State.ltrUpdate
  simp

@[simp] theorem Keeps.idleTick {s u : State} (h : Keeps s u) : Keeps s (u.idleTick) := by
  unfold State.idleTick
  simp [h]

/-! ### Arbitration -/

@[simp] theorem keeps_granted {s u : State} {res c} : Keeps s (u.granted res c) ↔ Keeps s u := by
  unfold State.granted
  simp

/-! ### Lists -/

@[simp] theorem keeps_listEnd {s u : State} {c uid} : Keeps s (u.listEnd c uid) ↔ Keeps s u := by
  unfold State.listEnd
  (repeat' split) <;> simp

/-! ### Rings, doorbells, records -/

@[simp] theorem execDoorbellPoll_advances (s : State) : Advances s (execDoorbellPoll s) := by
  unfold execDoorbellPoll
  rw [advances_next, keeps_ite]
  split
  · simp
  · dsimp only
    generalize hv : List.foldl _ s (List.range 64) = v
    have hk : Keeps s v := by
      rw [← hv]
      exact (keeps_foldl (fun t c => by split <;> simp) _).mpr (Keeps.refl s)
    simp [hk]

@[simp] theorem keeps_pollRing {s u : State} {c line r} : Keeps s (u.pollRing c line r) ↔ Keeps s u := by
  unfold State.pollRing
  dsimp only
  (repeat' split) <;> simp

@[simp] theorem keeps_pollMgmt {s u : State} {line} : Keeps s (u.pollMgmt line) ↔ Keeps s u := by
  unfold State.pollMgmt
  dsimp only
  split <;> simp

@[simp] theorem execDoorbellRead_advances (a line) (s : State) : Advances s (execDoorbellRead a line s) := by
  unfold execDoorbellRead
  split <;> simp

@[simp] theorem keeps_rereadLine {s u : State} {c r} : Keeps s (u.rereadLine c r) ↔ Keeps s u := by
  unfold State.rereadLine
  split <;> simp

@[simp] theorem execDescriptorFetched_advances (a r d) (s : State) : Advances s (execDescriptorFetched a r d s) := by
  unfold execDescriptorFetched
  (repeat' split) <;> simp

@[simp] theorem execMgmtDescriptorStart_advances (s : State) : Advances s (execMgmtDescriptorStart s) := by
  unfold execMgmtDescriptorStart
  split <;> simp

@[simp] theorem execCompletionRecordWrite_advances (c i) (s : State) : Advances s (execCompletionRecordWrite c i s) := by
  unfold execCompletionRecordWrite
  dsimp only
  (repeat' split) <;> simp

@[simp] theorem execIrqDelayExpiry_advances (c) (s : State) : Advances s (execIrqDelayExpiry c s) := by
  unfold execIrqDelayExpiry
  simp

@[simp] theorem execStatusLineRefresh_advances (a) (s : State) : Advances s (execStatusLineRefresh a s) := by
  unfold execStatusLineRefresh
  split <;> simp

@[simp] theorem execFenceRing_advances (a i) (s : State) : Advances s (execFenceRing a i s) := by
  unfold execFenceRing
  dsimp only
  (repeat' split) <;> simp

@[simp] theorem execFenceContext_advances (c i) (s : State) : Advances s (execFenceContext c i s) := by
  unfold execFenceContext
  dsimp only
  (repeat' split) <;> simp

@[simp] theorem execTimestamp_advances (a i) (s : State) : Advances s (execTimestamp a i s) := by
  unfold execTimestamp
  dsimp only
  (repeat' split) <;> simp

@[simp] theorem Keeps.signal {s u : State} (h : Keeps s u) (w addr inc last) : Keeps s (u.signal w addr inc last) := by
  unfold State.signal
  split <;> simp [h]

@[simp] theorem execSlipwaySignal_advances (c i) (s : State) : Advances s (execSlipwaySignal c i s) := by
  unfold execSlipwaySignal
  dsimp only
  (repeat' split) <;> simp

@[simp] theorem execSlipwayWait_advances (c i) (s : State) : Advances s (execSlipwayWait c i s) := by
  unfold execSlipwayWait
  dsimp only
  (repeat' split) <;> simp

@[simp] theorem keeps_lastRecord {s u : State} {c m status code} : Keeps s (u.lastRecord c m status code) ↔ Keeps s u := by
  unfold State.lastRecord
  simp

@[simp] theorem Keeps.teardownDone {s u : State} (h : Keeps s u) (c) : Keeps s (u.teardownDone c) := by
  unfold State.teardownDone
  dsimp only
  split
  · exact h
  · simp only [keeps_message, keeps_afterRecords, keeps_setCtx]
    refine Keeps.foldl ?_ (fun t m => by split <;> simp) _
    split <;> simp [h]

@[simp] theorem execTeardownComplete_advances (c) (s : State) : Advances s (execTeardownComplete c s) := by
  unfold execTeardownComplete
  simp

/-! ### Context operations -/

@[simp] theorem keeps_finishOp {s u : State} {c code} : Keeps s (u.finishOp c code) ↔ Keeps s u := by
  unfold State.finishOp
  simp

@[simp] theorem execCreate_advances (c block wins) (s : State) : Advances s (execCreate c block wins s) := by
  unfold execCreate
  (repeat' split) <;> simp

@[simp] theorem keeps_destroyFault {s u : State} {c} : Keeps s (u.destroyFault c) ↔ Keeps s u := by
  unfold State.destroyFault
  simp

@[simp] theorem execDestroy_advances (c) (s : State) : Advances s (execDestroy c s) := by
  unfold execDestroy
  simp

@[simp] theorem execPreempt_advances (c) (s : State) : Advances s (execPreempt c s) := by
  unfold execPreempt
  simp

@[simp] theorem execResume_advances (c) (s : State) : Advances s (execResume c s) := by
  unfold execResume
  simp

@[simp] theorem execMgmtEnableWrite_advances (v wins) (s : State) : Advances s (execMgmtEnableWrite v wins s) := by
  unfold execMgmtEnableWrite
  simp

/-! ### Accesses of the host -/

@[simp] theorem keeps_cpl4 {s u : State} {w} : Keeps s (u.cpl4 w) ↔ Keeps s u := by
  unfold State.cpl4
  simp

@[simp] theorem State.cpl4_dbg (s : State) (w : Word) : (s.cpl4 w).dbg = s.dbg := rfl
@[simp] theorem State.cpl4_boot (s : State) (w : Word) : (s.cpl4 w).boot = s.boot := rfl

@[simp] theorem keeps_markStop {s u : State} {c stop step} : Keeps s (u.markStop c stop step) ↔ Keeps s u := by
  unfold State.markStop
  simp

@[simp] theorem keeps_debugMsg {s u : State} {c stopped} : Keeps s (u.debugMsg c stopped) ↔ Keeps s u := by
  unfold State.debugMsg
  simp

@[simp] theorem Keeps.debugStop {s u : State} (h : Keeps s u) (c) : Keeps s (u.debugStop c) := by simp [State.debugStop, h]

@[simp] theorem Keeps.debugResume {s u : State} (h : Keeps s u) (c) : Keeps s (u.debugResume c) := by simp [State.debugResume, h]

@[simp] theorem Keeps.debugStep {s u : State} (h : Keeps s u) (c n) : Keeps s (u.debugStep c n) := by simp [State.debugStep, h]

@[simp] theorem keeps_modeMsg {s u : State} : Keeps s (u.modeMsg) ↔ Keeps s u := by
  unfold State.modeMsg
  simp

@[simp] theorem keeps_resumeAll {s u : State} : Keeps s (u.resumeAll) ↔ Keeps s u := by
  unfold State.resumeAll
  simp

@[simp] theorem Keeps.setDebug {s u : State} (h : Keeps s u) (v) : Keeps s (u.setDebug v) := by
  unfold State.setDebug
  split
  · exact h
  · rename_i hn
    have hm : ModesKept s { u.dbg with dbgEn := v } u.boot := h.modes.debug (by rintro rfl; simp at hn; exact hn.2)
    cases v <;> simp [h, hm]

@[simp] theorem Keeps.setTest {s u : State} (h : Keeps s u) (v) : Keeps s (u.setTest v) := by
  unfold State.setTest
  split
  · exact h
  · rename_i hn
    cases v
    · simp [h]
      exact h.modes.testLeaves
    · simp at hn
      simp [h, h.modes.testEnters hn.2]

@[simp] theorem Keeps.setEcc {s u : State} (h : Keeps s u) (v) : Keeps s (u.setEcc v) := by
  unfold State.setEcc
  split
  · exact h
  · rename_i hn
    simp at hn
    dsimp only
    split <;> simp [h]
    · exact h.modes.testOn hn.2
    · exact h.modes.testOn hn.2

@[simp] theorem Keeps.setNan {s u : State} (h : Keeps s u) (v) : Keeps s (u.setNan v) := by
  unfold State.setNan
  split
  · exact h
  · rename_i hn
    simp at hn
    simp [h]
    exact h.modes.testOn hn.2

theorem Boot.programRun_permits (b : Boot) (n : Nat) (vs : List Byte) :
    (b.programRun n vs).debugPermit = b.debugPermit ∧ (b.programRun n vs).testPermit = b.testPermit := by
  unfold Boot.programRun
  generalize vs.zip _ = l
  induction l generalizing b with
  | nil => exact ⟨rfl, rfl⟩
  | cons x r ih => exact ih (b.program (n + x.2) x.1)

@[simp] theorem Boot.programRun_debugPermit (b : Boot) (n : Nat) (vs : List Byte) : (b.programRun n vs).debugPermit = b.debugPermit :=
  (b.programRun_permits n vs).1
@[simp] theorem Boot.programRun_testPermit (b : Boot) (n : Nat) (vs : List Byte) : (b.programRun n vs).testPermit = b.testPermit :=
  (b.programRun_permits n vs).2

@[simp] theorem Keeps.svnCommit {s u : State} (h : Keeps s u) (v) : Keeps s (u.svnCommit v) := by simp [State.svnCommit, h]

@[simp] theorem Keeps.recoveryLo {s u : State} (h : Keeps s u) (v) : Keeps s (u.recoveryLo v) := by simp [State.recoveryLo, h]

@[simp] theorem keeps_pwrWake {s u : State} : Keeps s (u.pwrWake) ↔ Keeps s u := by
  unfold State.pwrWake
  simp

@[simp] theorem Keeps.logClear {s u : State} (h : Keeps s u) (d v) : Keeps s (u.logClear d v) := by
  have hd := h.setDie d (y := { u.die d with logLo := BitVec.ofNat 32 ((u.die d).logLo.toNat / 2 * 2) }) (by simp [h.die d])
  simp [State.logClear, h, hd]

@[simp] theorem keeps_stage {s u : State} {f} : Keeps s (u.stage f) ↔ Keeps s u := by
  unfold State.stage
  simp

@[simp] theorem keeps_ctxOp {s u : State} {v} : Keeps s (u.ctxOp v) ↔ Keeps s u := by
  unfold State.ctxOp
  simp

@[simp] theorem keeps_msixWrite {s u : State} {i v} : Keeps s (u.msixWrite i v) ↔ Keeps s u := by
  unfold State.msixWrite
  simp

@[simp] theorem Keeps.writeReg {s u : State} (h : Keeps s u) (off v) : Keeps s (u.writeReg off v) := by
  unfold State.writeReg
  dsimp only
  split <;> (try split) <;> (try split) <;> simp [h]
  all_goals exact h.modes.testOn ‹_›

@[simp] theorem execRegisterWrite_advances (off width v) (s : State) : Advances s (execRegisterWrite off width v s) := by
  unfold execRegisterWrite
  simp

@[simp] theorem execDebugStop_advances (c) (s : State) : Advances s (execDebugStop c s) := by
  unfold execDebugStop
  simp

@[simp] theorem execDebugResume_advances (c) (s : State) : Advances s (execDebugResume c s) := by
  unfold execDebugResume
  simp

@[simp] theorem execDebugStep_advances (c n) (s : State) : Advances s (execDebugStep c n s) := by
  unfold execDebugStep
  simp

@[simp] theorem execDebugEnWrite_advances (v) (s : State) : Advances s (execDebugEnWrite v s) := by
  unfold execDebugEnWrite
  simp

@[simp] theorem execTestEnWrite_advances (v) (s : State) : Advances s (execTestEnWrite v s) := by
  unfold execTestEnWrite
  simp

@[simp] theorem execEccArm_advances (v) (s : State) : Advances s (execEccArm v s) := by
  unfold execEccArm
  simp

@[simp] theorem execNanArm_advances (v) (s : State) : Advances s (execNanArm v s) := by
  unfold execNanArm
  simp

@[simp] theorem execPwrWake_advances (_v) (s : State) : Advances s (execPwrWake _v s) := by
  unfold execPwrWake
  simp

@[simp] theorem execSvnCommit_advances (v) (s : State) : Advances s (execSvnCommit v s) := by
  unfold execSvnCommit
  simp

@[simp] theorem execRecoveryGo_advances (v) (s : State) : Advances s (execRecoveryGo v s) := by
  unfold execRecoveryGo
  simp

@[simp] theorem execDieEccCountRead_advances (die) (s : State) : Advances s (execDieEccCountRead die s) := by
  unfold execDieEccCountRead
  simp

@[simp] theorem execEccLogClear_advances (die v) (s : State) : Advances s (execEccLogClear die v s) := by
  unfold execEccLogClear
  simp

@[simp] theorem execTelTimeLoRead_advances (s : State) : Advances s (execTelTimeLoRead s) := by
  unfold execTelTimeLoRead
  simp

@[simp] theorem execCfgApplyTimeLoRead_advances (s : State) : Advances s (execCfgApplyTimeLoRead s) := by
  unfold execCfgApplyTimeLoRead
  simp

@[simp] theorem execTimeHiRead_advances (p) (s : State) : Advances s (execTimeHiRead p s) := by
  unfold execTimeHiRead
  (repeat' split) <;> simp

@[simp] theorem execDbgWindowRead_advances (off : Nat) (par : Bool) (s : State) : Advances s (execDbgWindowRead off par s) := by
  unfold execDbgWindowRead
  simp only [advances_next, keeps_ite]
  split
  · simp
  split
  · simp
  split
  · simp
  split
  · split <;> simp
  · simp

@[simp] theorem execBar2Read_advances (off n) (s : State) : Advances s (execBar2Read off n s) := by
  unfold execBar2Read
  simp

@[simp] theorem execBar2Write_advances (off data ep) (s : State) : Advances s (execBar2Write off data ep s) := by
  unfold execBar2Write
  simp

@[simp] theorem Keeps.hostConfigures {s u : State} (h : Keeps s u)  : Keeps s (u.hostConfigures) := by simp [State.hostConfigures, h]

@[simp] theorem execConfigRequest_advances (s : State) : Advances s (execConfigRequest s) := by
  unfold execConfigRequest
  split <;> simp

@[simp] theorem execHintLatency_advances (s : State) : Advances s (execHintLatency s) := by
  unfold execHintLatency
  split <;> simp

@[simp] theorem execSnapshot_advances (s : State) : Advances s (execSnapshot s) := by
  unfold execSnapshot
  split <;> simp

@[simp] theorem execSnapshotLatch_advances (s : State) : Advances s (execSnapshotLatch s) := by
  unfold execSnapshotLatch
  split <;> simp

@[simp] theorem execCfgCheck_advances (s : State) : Advances s (execCfgCheck s) := by
  unfold execCfgCheck
  split <;> simp

@[simp] theorem execCfgApply_advances (s : State) : Advances s (execCfgApply s) := by
  unfold execCfgApply
  split <;> simp

@[simp] theorem execCfgApplyDecision_advances (acked) (s : State) : Advances s (execCfgApplyDecision acked s) := by
  unfold execCfgApplyDecision
  split <;> simp

@[simp] theorem Keeps.applied {s u : State} (h : Keeps s u) (c) : Keeps s (u.applied c) := by
  unfold State.applied
  generalize hv : (if c.memMap = u.cfg.memMap then u else _) = v
  have hk : Keeps s v := by rw [← hv]; split <;> simp [h]
  dsimp only
  split <;> simp [hk]

@[simp] theorem execCfgApplyCommit_advances (s : State) : Advances s (execCfgApplyCommit s) := by
  unfold execCfgApplyCommit
  split <;> simp

/-! ### Memory -/

@[simp] theorem keeps_consume {s u : State} {t a ctx} : Keeps s (u.consume t a ctx) ↔ Keeps s u := by
  unfold State.consume
  split <;> simp

@[simp] theorem Keeps.readUnit {s u : State} (h : Keeps s u) (m addr nsym user) : Keeps s (u.readUnit m addr nsym user) := by
  unfold State.readUnit
  split <;> simp [h]

@[simp] theorem keeps_tilesOver {s u : State} {c uid exec} : Keeps s (u.tilesOver c uid exec) ↔ Keeps s u := by
  unfold State.tilesOver
  simp

@[simp] theorem keeps_tileHome {s u : State} {q} : Keeps s (u.tileHome q) ↔ Keeps s u := by
  unfold State.tileHome
  dsimp only
  split <;> simp

@[simp] theorem keeps_slotHome {s u : State} {q} : Keeps s (u.slotHome q) ↔ Keeps s u := by
  unfold State.slotHome
  split <;> simp

@[simp] theorem execMemoryWriteHome_advances (s : State) : Advances s (execMemoryWriteHome s) := by
  unfold execMemoryWriteHome
  split <;> simp

@[simp] theorem execScrubRead_advances (die nsym : Nat) (s : State) : Advances s (execScrubRead die nsym s) := by
  unfold execScrubRead
  simp only [advances_next, keeps_ite]
  split
  · simp
  generalize hv : State.count (s.setDie die _) _ 1 = v
  have hk : Keeps s v := by
    rw [← hv]
    exact keeps_count.mpr ((Keeps.refl s).setDie die (by simp))
  split
  · split
    · exact hk
    split
    · exact hk
    · refine Keeps.memError (keeps_count.mpr (Keeps.setDie ?_ _ ?_)) _ _ _ _ _ _ _
      · simpa using hk
      · exact (hk.die die)
    · exact Keeps.corrected (keeps_count.mpr (by simpa using hk)) _
  · split
    · exact hk
    split
    · exact hk
    · exact Keeps.corrected (keeps_count.mpr (by simpa using hk)) _
    · exact Keeps.memError (keeps_count.mpr (by simpa using hk)) _ _ _ _ _ _ _
    · exact Keeps.corrected (keeps_count.mpr (by simpa using hk)) _

@[simp] theorem execRefresh_advances (stack ch) (s : State) : Advances s (execRefresh stack ch s) := by
  unfold execRefresh
  simp

/-! ### Compute commands -/

@[simp] theorem Keeps.commit {s u : State} (h : Keeps s u) (m outs) : Keeps s (u.commit m outs) := by
  unfold State.commit
  split <;> simp [h]

@[simp] theorem keeps_putCmd {s u : State} {c m} : Keeps s (u.putCmd c m) ↔ Keeps s u := by
  unfold State.putCmd
  simp

@[simp] theorem Keeps.runWhole {s u : State} (h : Keeps s u) (c m w) : Keeps s (u.runWhole c m w) := by
  unfold State.runWhole
  dsimp only
  split <;> simp [h]

@[simp] theorem Keeps.runCmd {s u : State} (h : Keeps s u) (c i kind) : Keeps s (u.runCmd c i kind) := by
  unfold State.runCmd
  (repeat' split) <;> simp [h]

@[simp] theorem execMatmul_advances (c i) (s : State) : Advances s (execMatmul c i s) := by
  unfold execMatmul
  simp

@[simp] theorem execChain_advances (c i) (s : State) : Advances s (execChain c i s) := by
  unfold execChain
  simp

@[simp] theorem execAttend_advances (c i) (s : State) : Advances s (execAttend c i s) := by
  unfold execAttend
  simp

@[simp] theorem execConv_advances (c i) (s : State) : Advances s (execConv c i s) := by
  unfold execConv
  simp

@[simp] theorem execPool_advances (c i) (s : State) : Advances s (execPool c i s) := by
  unfold execPool
  simp

@[simp] theorem execPosy_advances (c i) (s : State) : Advances s (execPosy c i s) := by
  unfold execPosy
  simp

@[simp] theorem execReduceFold_advances (c i) (s : State) : Advances s (execReduceFold c i s) := by
  unfold execReduceFold
  simp

@[simp] theorem execReduceRowstat_advances (c i) (s : State) : Advances s (execReduceRowstat c i s) := by
  unfold execReduceRowstat
  simp

@[simp] theorem execReduceClover_advances (c i) (s : State) : Advances s (execReduceClover c i s) := by
  unfold execReduceClover
  simp

@[simp] theorem execReduceTranspose_advances (c i) (s : State) : Advances s (execReduceTranspose c i s) := by
  unfold execReduceTranspose
  simp

@[simp] theorem execFill_advances (c i) (s : State) : Advances s (execFill c i s) := by
  unfold execFill
  simp

@[simp] theorem execNoise_advances (c i) (s : State) : Advances s (execNoise c i s) := by
  unfold execNoise
  simp

@[simp] theorem execWupd_advances (c i) (s : State) : Advances s (execWupd c i s) := by
  unfold execWupd
  simp

/-! ### Sessions and media engines -/

@[simp] theorem execSessionOpen_advances (c i) (s : State) : Advances s (execSessionOpen c i s) := by
  unfold execSessionOpen
  dsimp only
  (repeat' split) <;> simp

@[simp] theorem execSessionClose_advances (c i) (s : State) : Advances s (execSessionClose c i s) := by
  unfold execSessionClose
  (repeat' split) <;> simp

@[simp] theorem keeps_queueUnit {s u : State} {c i op} : Keeps s (u.queueUnit c i op) ↔ Keeps s u := by
  unfold State.queueUnit
  (repeat' split) <;> simp

@[simp] theorem execDecode_advances (c i) (s : State) : Advances s (execDecode c i s) := by
  unfold execDecode
  simp

@[simp] theorem execEncode_advances (c i) (s : State) : Advances s (execEncode c i s) := by
  unfold execEncode
  simp

@[simp] theorem execJpegDec_advances (c i) (s : State) : Advances s (execJpegDec c i s) := by
  unfold execJpegDec
  simp

@[simp] theorem execJpegEnc_advances (c i) (s : State) : Advances s (execJpegEnc c i s) := by
  unfold execJpegEnc
  simp

@[simp] theorem execScale_advances (c i) (s : State) : Advances s (execScale c i s) := by
  unfold execScale
  simp

@[simp] theorem execCodecUnitStart_advances (e) (s : State) : Advances s (execCodecUnitStart e s) := by
  unfold execCodecUnitStart
  dsimp only
  (repeat' split) <;> simp

@[simp] theorem keeps_releaseEngine {s u : State} {e px lost} : Keeps s (u.releaseEngine e px lost) ↔ Keeps s u := by
  unfold State.releaseEngine
  simp

@[simp] theorem Keeps.endUnit {s u : State} (h : Keeps s u) (e c m b sc) : Keeps s (u.endUnit e c m b sc) := by
  unfold State.endUnit
  simp [h]

@[simp] theorem execCodecUnitDone_advances (e) (s : State) : Advances s (execCodecUnitDone e s) := by
  unfold execCodecUnitDone
  (repeat' split) <;> simp

/-! ### Slots and fills -/

@[simp] theorem Keeps.putTarget {s u : State} (h : Keeps s u) (t a bs) : Keeps s (u.putTarget t a bs) := by
  unfold State.putTarget
  split <;> simp [h]

@[simp] theorem keeps_markTarget {s u : State} {t a n bad} : Keeps s (u.markTarget t a n bad) ↔ Keeps s u := by
  unfold State.markTarget
  split <;> simp

@[simp] theorem Keeps.fillPart {s u : State} (h : Keeps s u) (t view r off i j0 p) : Keeps s (u.fillPart t view r off i j0 p) := by
  unfold State.fillPart
  simp [h]

@[simp] theorem Keeps.fillRegion {s u : State} (h : Keeps s u) (t v r o) : Keeps s (u.fillRegion t v r o) := Keeps.foldl h (fun w x => Keeps.foldl_fst (fun a p => by dsimp only; split <;> simp) _ _ (Keeps.refl w)) _

@[simp] theorem keeps_coreCount {s u : State} {k j n} : Keeps s (u.coreCount k j n) ↔ Keeps s u := by
  unfold State.coreCount
  simp

@[simp] theorem Keeps.settleFor {s u : State} (h : Keeps s u) (j die rs) : Keeps s (u.settleFor j die rs) := by
  unfold State.settleFor
  split <;> simp [h]

theorem Keeps.t3Fill {s u v : State} (h : Keeps s u) {t j f} (hv : u.t3Fill t j f = some v) : Keeps s v := by
  unfold State.t3Fill at hv
  split at hv
  · cases hv; exact h
  · dsimp only at hv
    split at hv
    · cases hv; exact h
    · split at hv
      · cases hv
      · cases hv; simp [h]

@[simp] theorem Keeps.fillSlot {s u : State} (h : Keeps s u) (k t w f off) : Keeps s (u.fillSlot k t w f off) := by
  unfold State.fillSlot
  split <;> simp [h]

@[simp] theorem execFerryFillDone_advances (k j : Nat) (s : State) : Advances s (execFerryFillDone k j s) := by
  unfold execFerryFillDone
  rw [advances_next]
  split
  · simp
  · dsimp only
    split
    · simp
    split
    · simp
    · rename_i v hv
      have hk : Keeps s v := (Keeps.refl s).t3Fill hv
      simp [hk]

@[simp] theorem Keeps.settleRefs {s u : State} (h : Keeps s u) (k w who rs victim) : Keeps s (u.settleRefs k w who rs victim) := by
  unfold State.settleRefs
  simp [h]

/-! ### The matrix unit -/

@[simp] theorem execWeightLoadDone_advances (k) (s : State) : Advances s (execWeightLoadDone k s) := by
  unfold execWeightLoadDone
  split <;> simp

@[simp] theorem keeps_stepEnded {s u : State} {c} : Keeps s (u.stepEnded c) ↔ Keeps s u := by
  unfold State.stepEnded
  simp

@[simp] theorem keeps_afterStep {s u : State} {k c} : Keeps s (u.afterStep k c) ↔ Keeps s u := by
  unfold State.afterStep
  simp

@[simp] theorem Keeps.issue {s u : State} (h : Keeps s u) (k y t w par) : Keeps s (u.issue k y t w par) := by
  unfold State.issue
  split
  · simp [h]
  · split
    · exact h
    · dsimp only
      split
      · have hs := h.settleRefs k w 1
        split
        · simp [hs]
        split
        · simp [hs]
        · simp only [keeps_afterStep, keeps_coreCount, keeps_setCore]
          refine Keeps.ofIte ?_ (hs _ _)
          simp [hs]
      · simp [h]

@[simp] theorem execMatrixIssue_advances (k par) (s : State) : Advances s (execMatrixIssue k par s) := by
  unfold execMatrixIssue
  dsimp only
  (repeat' split) <;> simp

@[simp] theorem execHoldExpiry_advances (k) (s : State) : Advances s (execHoldExpiry k s) := by
  unfold execHoldExpiry
  dsimp only
  split <;> simp

@[simp] theorem execRampPhaseEnd_advances (k) (s : State) : Advances s (execRampPhaseEnd k s) := by
  unfold execRampPhaseEnd
  dsimp only
  split <;> simp

@[simp] theorem Keeps.nanFor {s u : State} (h : Keeps s u) (c uid exec n) : Keeps s (u.nanFor c uid exec n) := by
  unfold State.nanFor
  (repeat' split) <;> simp [h]

@[simp] theorem Keeps.nanOf {s u : State} (h : Keeps s u) (t n) : Keeps s (u.nanOf t n) := by
  unfold State.nanOf
  simp [h]

@[simp] theorem keeps_noteSat {s u : State} {t sat} : Keeps s (u.noteSat t sat) ↔ Keeps s u := by
  unfold State.noteSat
  split <;> simp

@[simp] theorem execAccumulatorUpdate_advances (k par) (s : State) : Advances s (execAccumulatorUpdate k par s) := by
  unfold execAccumulatorUpdate
  dsimp only
  (repeat' split) <;> simp

@[simp] theorem execResultRowCopy_advances (k par) (s : State) : Advances s (execResultRowCopy k par s) := by
  unfold execResultRowCopy
  dsimp only
  (repeat' split) <;> simp

@[simp] theorem execLateDataMiss_advances (k wait) (s : State) : Advances s (execLateDataMiss k wait s) := by
  unfold execLateDataMiss
  (repeat' split) <;> simp

/-! ### Transfers and tables -/

@[simp] theorem Keeps.copyBytes {s u : State} (h : Keeps s u) (a b n) : Keeps s (u.copyBytes a b n) := by
  unfold State.copyBytes
  simp [keeps_foldl, h]

@[simp] theorem Keeps.moveRow {s u : State} (h : Keeps s u) (w t r row last slip) : Keeps s (u.moveRow w t r row last slip) := by
  unfold State.moveRow
  dsimp only
  (repeat' split) <;> simp [h]

@[simp] theorem Keeps.move {s u : State} (h : Keeps s u) (w t a b l) : Keeps s (u.move w t a b l) := by
  unfold State.move
  dsimp only
  generalize hv : List.foldl _ u _ = v
  have hk : Keeps s v := by rw [← hv]; exact h.foldl (by simp) _
  split
  · exact hk
  · split <;> simp [hk]

@[simp] theorem keeps_noteMoved {s u : State} {c uid e n} : Keeps s (u.noteMoved c uid e n) ↔ Keeps s u := by
  unfold State.noteMoved
  simp

@[simp] theorem Keeps.moves {s u : State} (h : Keeps s u) (w d e b l) : Keeps s (u.moves w d e b l) := by
  induction l generalizing u b with
  | nil => exact h
  | cons t r ih =>
    unfold State.moves
    simp only [keeps_ite]
    split
    · exact h
    split
    · exact ih h _
    · exact ih (by simp [h]) _

@[simp] theorem Keeps.ferryOn {s u : State} (h : Keeps s u) (w m ends ts) : Keeps s (u.ferryOn w m ends ts) := by
  unfold State.ferryOn
  simp [h]

@[simp] theorem keeps_phaseDebt {s u : State} {c phase} : Keeps s (u.phaseDebt c phase) ↔ Keeps s u := by
  unfold State.phaseDebt
  simp

@[simp] theorem execFerry_advances (c i) (s : State) : Advances s (execFerry c i s) := by
  unfold execFerry
  dsimp only
  (repeat' split) <;> simp

@[simp] theorem execTableLoad_advances (c i) (s : State) : Advances s (execTableLoad c i s) := by
  unfold execTableLoad
  dsimp only
  (repeat' split) <;> simp

/-! ### Step lists -/

@[simp] theorem keeps_prog {s u : State} {c uid f} : Keeps s (u.prog c uid f) ↔ Keeps s u := by
  unfold State.prog
  simp

@[simp] theorem keeps_atStage {s u : State} {c uid x} : Keeps s (u.atStage c uid x) ↔ Keeps s u := by
  unfold State.atStage
  simp

@[simp] theorem Keeps.signalStage {s u : State} (h : Keeps s u) (w addr inc) : Keeps s (u.signalStage w addr inc) := by
  unfold State.signalStage
  simp [h]

@[simp] theorem Keeps.copyPins {s u : State} (h : Keeps s u) (l) : Keeps s (u.copyPins l) := by
  refine h.foldl (fun v p => (Keeps.refl v).foldl (fun w d => ?_) _) _
  split
  · simp
  · dsimp only
    generalize hv : State.count _ _ _ = v'
    have hk : Keeps w v' := by rw [← hv]; simp
    split <;> simp [hk]

@[simp] theorem Keeps.pinCopy {s u : State} (h : Keeps s u) (c i) : Keeps s (u.pinCopy c i) := by
  unfold State.pinCopy
  dsimp only
  (repeat' split) <;> simp [h]

@[simp] theorem keeps_stageStart {s u : State} {c i e} : Keeps s (u.stageStart c i e) ↔ Keeps s u := by
  unfold State.stageStart
  dsimp only
  (repeat' split) <;> simp

@[simp] theorem Keeps.settlePins {s u : State} (h : Keeps s u) (l m c rs) : Keeps s (u.settlePins l m c rs) := by
  unfold State.settlePins
  simp [h]

@[simp] theorem Keeps.runStage {s u : State} (h : Keeps s u) (c m l g x w) : Keeps s ((u.runStage c m l g x w).1) := by
  unfold State.runStage
  dsimp only
  generalize hv : State.settlePins _ l m c w.ins = v
  have hk : Keeps s v := by rw [← hv]; simp [h]
  split <;> simp [hk]

theorem Keeps.onceStage {s u : State} (h : Keeps s u) (w m) {act : State → State} (hact : ∀ t, Keeps s t → Keeps s (act t)) :
    Keeps s (u.onceStage w m act).1 := by
  unfold State.onceStage
  dsimp only
  split
  · exact hact _ (by simpa using h)
  · exact h

@[simp] theorem Keeps.stampStage {s u : State} (h : Keeps s u) (w addr host) : Keeps s (u.stampStage w addr host) := by
  unfold State.stampStage
  (repeat' split) <;> simp [h]

@[simp] theorem Keeps.doStage {s u : State} (h : Keeps s u) (c m l e g x) : Keeps s ((u.doStage c m l e g x).1) := by
  unfold State.doStage
  refine Keeps.ite_fst h ?_
  split
  · simp [h]
  · exact h.onceStage _ _ (fun t ht => ht.signalStage _ _ _)
  · exact h.onceStage _ _ (fun t ht => ht.stampStage _ _ _)
  · split
    · dsimp only
      split <;> simp [h]
    · exact h
  · simp [h]

@[simp] theorem Keeps.stageEnd {s u : State} (h : Keeps s u) (c i e) : Keeps s (u.stageEnd c i e) := by
  unfold State.stageEnd
  dsimp only
  (repeat' split) <;> simp [h]

@[simp] theorem Keeps.stepEnd {s u : State} (h : Keeps s u) (c i t) : Keeps s (u.stepEnd c i t) := by
  unfold State.stepEnd
  (repeat' split) <;> simp [h]

@[simp] theorem execStageExecutionStart_advances (c i e) (s : State) : Advances s (execStageExecutionStart c i e s) := by
  unfold execStageExecutionStart
  simp

@[simp] theorem execStageExecutionDone_advances (c i e) (s : State) : Advances s (execStageExecutionDone c i e s) := by
  unfold execStageExecutionDone
  simp

@[simp] theorem execPinCopyDone_advances (c i) (s : State) : Advances s (execPinCopyDone c i s) := by
  unfold execPinCopyDone
  simp

@[simp] theorem execStepComplete_advances (c i st) (s : State) : Advances s (execStepComplete c i st s) := by
  unfold execStepComplete
  simp

@[simp] theorem execStepBudgetCheck_advances (c i st) (s : State) : Advances s (execStepBudgetCheck c i st s) := by
  unfold execStepBudgetCheck
  dsimp only
  (repeat' split) <;> simp

@[simp] theorem execDeadlineCheck_advances (c i) (s : State) : Advances s (execDeadlineCheck c i s) := by
  unfold execDeadlineCheck
  dsimp only
  (repeat' split) <;> simp

@[simp] theorem Keeps.listSpan {s u : State} (h : Keeps s u) (c i a n) : Keeps s (u.listSpan c i a n) := by
  unfold State.listSpan
  simp [h]

@[simp] theorem Keeps.runList {s u : State} (h : Keeps s u) (c i l) : Keeps s (u.runList c i l) := by
  unfold State.runList
  refine Keeps.listSpan (Keeps.foldl ?_ (fun _ _ => by simp) _) _ _ _ _
  simp [h]

@[simp] theorem execSteplist_advances (c i) (s : State) : Advances s (execSteplist c i s) := by
  unfold execSteplist
  (repeat' split) <;> simp

/-! ### The vector engine -/

@[simp] theorem keeps_sendWrites {s u : State} {x ws out final bad} : Keeps s (u.sendWrites x ws out final bad) ↔ Keeps s u := by
  unfold State.sendWrites
  simp

@[simp] theorem Keeps.l1Puts {s u : State} (h : Keeps s u) (k ws) : Keeps s (u.l1Puts k ws) := by
  unfold State.l1Puts
  simp [h]

@[simp] theorem keeps_runOver {s u : State} {x} : Keeps s (u.runOver x) ↔ Keeps s u := by
  unfold State.runOver
  dsimp only
  split <;> simp

@[simp] theorem Keeps.fillOut {s u : State} (h : Keeps s u) (x y q t) : Keeps s ((u.fillOut x y q t).1) := by
  unfold State.fillOut
  dsimp only
  simp only [keeps_setCore]
  exact Keeps.settleIn (h.foldl (by simp) _) _ _ _

@[simp] theorem Keeps.endRun {s u : State} (h : Keeps s u) (x) : Keeps s (u.endRun x) := by
  unfold State.endRun
  dsimp only
  split
  · split
    · exact h
    · simp only [keeps_runOver, keeps_setCore]
      exact h.foldl (fun v r => (Keeps.refl v).foldl (by simp) _) _
  · simp only [keeps_runOver, keeps_sendWrites]
    split
    case' h_1 => refine Keeps.fillOut ?_ _ _ _ _
    all_goals
      split
      case' h_1 => refine Keeps.foldl ?_ (fun v r => (Keeps.refl v).foldl (by simp) _) _
      all_goals
        split
        · exact h.foldl (by simp) _
        · exact h

@[simp] theorem execPosyRunStart_advances (k : Nat) (s : State) : Advances s (execPosyRunStart k s) := by
  unfold execPosyRunStart
  dsimp only
  simp only [advances_next, keeps_ite]
  split
  · simp
  split
  · simp
  split
  · simp
  split
  · split <;> simp
  · generalize hv : State.settleIn _ (MemTarget.core k) _ _ = v
    have hk : Keeps s v := by
      rw [← hv]
      refine Keeps.settleIn (Keeps.ofIte ?_ (Keeps.settle ?_ _ _)) _ _ _ <;> simp
    clear hv
    split
    · simpa using hk
    · refine Keeps.nanOf (Keeps.ofIte ?_ ?_) _ _ <;> simpa using hk

theorem Keeps.endIf {s u : State} (h : Keeps s u) (x : Running) {p : Prop} [Decidable p] : Keeps s (if p then u.endRun x else u) :=
  .ofIte (h.endRun x) h

@[simp] theorem Keeps.runningStep {s u : State} (h : Keeps s u) (x : Running) : Keeps s (x.step u).1 := by
  unfold Running.step
  dsimp only
  split
  · simpa using h
  · split <;> simpa using h
  · simpa using h
  · simpa using h

@[simp] theorem execPosyInstruction_advances (k : Nat) (par : Bool) (s : State) : Advances s (execPosyInstruction k par s) := by
  unfold execPosyInstruction
  rw [advances_next]
  split
  · simp
  · dsimp only
    refine Keeps.ofIte (by simp) (Keeps.ofIte (by simp) (Keeps.ofIte (by simp) (Keeps.ofIte (by simp) ?_)))
    generalize hv : State.settleIn _ (MemTarget.core k) _ _ = v
    have hk : Keeps s v := by
      rw [← hv]
      exact Keeps.settleIn (Keeps.settle (by simp) _ _) _ _ _
    clear hv
    refine Keeps.ofIte (by simp [hk]) ?_
    refine Keeps.nanOf (Keeps.endIf (keeps_setCore.mpr (Keeps.ofIte ?_ ?_)) _) _ _
    · split <;> simp [hk]
    · simp [hk]

/-! ### Placement -/

@[simp] theorem keeps_grantSlice {s u : State} {c} : Keeps s (u.grantSlice c).1 ↔ Keeps s u := by
  unfold State.grantSlice
  dsimp only
  split <;> simp

@[simp] theorem keeps_placeTile {s u : State} {c k uid exec num} : Keeps s (u.placeTile c k uid exec num) ↔ Keeps s u := by
  unfold State.placeTile
  split <;> simp

@[simp] theorem Keeps.restore {s u : State} (h : Keeps s u) (c k q) : Keeps s (u.restore c k q) := by
  unfold State.restore
  simp [h]

@[simp] theorem keeps_goOn {s u : State} {c} : Keeps s (u.goOn c) ↔ Keeps s u := by
  unfold State.goOn
  simp

@[simp] theorem execTilePlace_advances (c) (s : State) : Advances s (execTilePlace c s) := by
  unfold execTilePlace
  (repeat' split) <;> simp

@[simp] theorem execPreemptSaveDone_advances (e) (s : State) : Advances s (execPreemptSaveDone e s) := by
  unfold execPreemptSaveDone
  dsimp only
  (repeat' split) <;> simp

@[simp] theorem execSliceExpiry_advances (c) (s : State) : Advances s (execSliceExpiry c s) := by
  unfold execSliceExpiry
  dsimp only
  split <;> simp

/-! ### Power and time -/

@[simp] theorem keeps_powerMsgs {s u : State} : Keeps s (u.powerMsgs) ↔ Keeps s u := by
  unfold State.powerMsgs
  dsimp only
  split <;> simp

@[simp] theorem keeps_noteCap {s u : State} {old} : Keeps s (u.noteCap old) ↔ Keeps s u := by
  unfold State.noteCap
  simp

@[simp] theorem execPowerSample_advances (rails) (s : State) : Advances s (execPowerSample rails s) := by
  unfold execPowerSample
  simp

@[simp] theorem Keeps.trip {s u : State} (h : Keeps s u) : Keeps s (u.trip) := by
  unfold State.trip
  simp [h]

@[simp] theorem execThermalUpdate_advances (junc stack hub) (s : State) : Advances s (execThermalUpdate junc stack hub s) := by
  unfold execThermalUpdate
  simp

@[simp] theorem keeps_avsRail {s u : State} {i a} : Keeps s (u.avsRail i a) ↔ Keeps s u := by
  unfold State.avsRail
  split <;> simp

@[simp] theorem execAvsUpdate_advances (ans) (s : State) : Advances s (execAvsUpdate ans s) := by
  unfold execAvsUpdate
  simp

@[simp] theorem execAvsFaultClear_advances (s : State) : Advances s (execAvsFaultClear s) := by
  unfold execAvsFaultClear
  split <;> simp

@[simp] theorem keeps_setLock {s u : State} {lock} : Keeps s (u.setLock lock) ↔ Keeps s u := by
  unfold State.setLock
  simp

@[simp] theorem keeps_stepTime {s u : State} {d} : Keeps s (u.stepTime d) ↔ Keeps s u := by
  unfold State.stepTime
  simp

@[simp] theorem execPtmDialogue_advances (offset) (s : State) : Advances s (execPtmDialogue offset s) := by
  unfold execPtmDialogue
  (repeat' split) <;> simp

@[simp] theorem keeps_gateCores {s u : State} : Keeps s (u.gateCores) ↔ Keeps s u := by
  unfold State.gateCores
  simp

@[simp] theorem keeps_gateMemory {s u : State} : Keeps s (u.gateMemory) ↔ Keeps s u := by
  unfold State.gateMemory
  simp

@[simp] theorem keeps_enter {s u : State} {d} : Keeps s (u.enter d) ↔ Keeps s u := by
  unfold State.enter
  simp

@[simp] theorem execIdleEntry_advances (s : State) : Advances s (execIdleEntry s) := by
  unfold execIdleEntry
  simp

@[simp] theorem execWakeEvent_advances (s : State) : Advances s (execWakeEvent s) := by
  unfold execWakeEvent
  simp

@[simp] theorem execStateExitDone_advances (s : State) : Advances s (execStateExitDone s) := by
  unfold execStateExitDone
  simp

/-! ### Boot, resets, trust -/

@[simp] theorem modesKept_cleared (s u : State) (b : Boot) : ModesKept s u.cleared.dbg b := modesKept_reset s b

@[simp] theorem keeps_cleared (s u : State) : Keeps s u.cleared where
  modesKept := modesKept_reset s _
  countsKept := by
    intro _ y hy
    have hd : y = {} := List.eq_of_mem_replicate (n := 4) hy
    simp [hd]
  ctxsKept := fun _ => List.length_replicate
  coresKept := fun _ => List.length_replicate
  diesKept := fun _ => rfl
  dieBufKept := fun _ => rfl
  enginesKept := fun _ => List.length_replicate
  portsKept := fun _ => List.length_replicate
  routesKept := fun _ => List.length_replicate

@[simp] theorem execPerstDeassert_advances (s : State) : Advances s (execPerstDeassert s) := by
  simp [execPerstDeassert, State.runRom]

@[simp] theorem execDeviceReady_advances (s : State) : Advances s (execDeviceReady s) := by
  unfold execDeviceReady
  split <;> simp

@[simp] theorem execReset_advances (a : ResetCause) (s : State) : Advances s (execReset a s) := by
  unfold execReset
  rw [advances_next]
  split
  · simp
  · simp [State.runRom]

@[simp] theorem execFunctionLevelReset_advances (s : State) : Advances s (execFunctionLevelReset s) := by
  simp [execFunctionLevelReset]

@[simp] theorem execPwrgdDeassert_advances (s : State) : Advances s (execPwrgdDeassert s) := by
  simp [execPwrgdDeassert]

@[simp] theorem execHeartbeat_advances (s : State) : Advances s (execHeartbeat s) := by
  unfold execHeartbeat
  simp

@[simp] theorem execWatchdogFire_advances (fatal) (s : State) : Advances s (execWatchdogFire fatal s) := by
  unfold execWatchdogFire
  simp

@[simp] theorem execSvnCommitDone_advances (s : State) : Advances s (execSvnCommitDone s) := by
  unfold execSvnCommitDone
  rw [advances_next]
  split
  · simp
  · split
    · simp
    · rename_i t _ _
      have hm := (Keeps.refl s).modes.of_permits (b' := s.boot.raise (min t s.boot.imageSvn)) (by simp [Boot.raise]) (by simp [Boot.raise])
      simp [hm]

@[simp] theorem execRecoveryLoadDone_advances (img) (s : State) : Advances s (execRecoveryLoadDone img s) := by
  unfold execRecoveryLoadDone
  (repeat' split) <;> simp

@[simp] theorem keeps_spdmErr {s u : State} {t code ext} : Keeps s (u.spdmErr t code ext) ↔ Keeps s u := by
  unfold State.spdmErr
  simp

@[simp] theorem keeps_signRequest {s u : State} {t k} : Keeps s (u.signRequest t k) ↔ Keeps s u := by
  unfold State.signRequest
  simp

@[simp] theorem execChallenge_advances (t) (s : State) : Advances s (execChallenge t s) := by
  unfold execChallenge
  simp

@[simp] theorem execKeyExchange_advances (t) (s : State) : Advances s (execKeyExchange t s) := by
  unfold execKeyExchange
  simp

@[simp] theorem execGetMeasurements_advances (t index signed) (s : State) : Advances s (execGetMeasurements t index signed s) := by
  unfold execGetMeasurements
  simp

@[simp] theorem execSlhDsaSignDone_advances (s : State) : Advances s (execSlhDsaSignDone s) := by
  unfold execSlhDsaSignDone
  split <;> simp

@[simp] theorem execRespondIfReady_advances (t) (s : State) : Advances s (execRespondIfReady t s) := by
  unfold execRespondIfReady
  (repeat' split) <;> simp

@[simp] theorem execChunkGet_advances (t) (s : State) : Advances s (execChunkGet t s) := by
  unfold execChunkGet
  (repeat' split) <;> simp

@[simp] theorem execIdeKm_advances (stream coversHost) (s : State) : Advances s (execIdeKm stream coversHost s) := by
  unfold execIdeKm
  simp

@[simp] theorem Keeps.refuseHost {s u : State} (h : Keeps s u) : Keeps s (u.refuseHost) := by
  unfold State.refuseHost
  simp [h]

@[simp] theorem execIdeLeaveSecure_advances (stream) (s : State) : Advances s (execIdeLeaveSecure stream s) := by
  unfold execIdeLeaveSecure
  simp

@[simp] theorem execAtsInvalidation_advances (s : State) : Advances s (execAtsInvalidation s) := by
  unfold execAtsInvalidation
  simp

@[simp] theorem execSidebandRequest_advances (r) (s : State) : Advances s (execSidebandRequest r s) := by
  unfold execSidebandRequest
  (repeat' split) <;> simp

@[simp] theorem execJtagInstruction_advances (x) (s : State) : Advances s (execJtagInstruction x s) := by
  unfold execJtagInstruction
  simp

/-! ### Rolig -/

@[simp] theorem keeps_setPort {s u : State} {p y} : Keeps s (u.setPort p y) ↔ Keeps s u := by
  unfold State.setPort
  simp

@[simp] theorem Keeps.routesNow {s u : State} (h : Keeps s u)  : Keeps s (u.routesNow) := by simp [State.routesNow, h]

@[simp] theorem Keeps.portDown {s u : State} (h : Keeps s u) (p) : Keeps s (u.portDown p) := by
  unfold State.portDown
  simp [h]

@[simp] theorem execPortTrain_advances (p lanes peer peerPort) (s : State) : Advances s (execPortTrain p lanes peer peerPort s) := by
  unfold execPortTrain
  simp

@[simp] theorem execPortRetry_advances (p) (s : State) : Advances s (execPortRetry p s) := by
  unfold execPortRetry
  simp

@[simp] theorem execFlitReceive_advances (p symErrs crcOk) (s : State) : Advances s (execFlitReceive p symErrs crcOk s) := by
  unfold execFlitReceive
  simp

@[simp] theorem execAckTimeout_advances (p) (s : State) : Advances s (execAckTimeout p s) := by
  unfold execAckTimeout
  simp

@[simp] theorem execBoardConfigure_advances (s : State) : Advances s (execBoardConfigure s) := by
  unfold execBoardConfigure
  simp

@[simp] theorem execTimeExchange_advances (offset) (s : State) : Advances s (execTimeExchange offset s) := by
  unfold execTimeExchange
  simp

@[simp] theorem execRoligInboundRequest_advances (src r) (s : State) : Advances s (execRoligInboundRequest src r s) := by
  unfold execRoligInboundRequest
  (repeat' split) <;> simp

@[simp] theorem Keeps.answered {s u : State} (h : Keeps s u) (q) : Keeps s (u.answered q) := by
  unfold State.answered
  split <;> simp [h]

@[simp] theorem Keeps.readData {s u : State} (h : Keeps s u) (q data pz) : Keeps s (u.readData q data pz) := by
  unfold State.readData
  simp [h]

@[simp] theorem execRemoteAck_advances (data poison refused) (s : State) : Advances s (execRemoteAck data poison refused s) := by
  unfold execRemoteAck
  (repeat' split) <;> simp

@[simp] theorem execRemoteTimeout_advances (s : State) : Advances s (execRemoteTimeout s) := by
  unfold execRemoteTimeout
  split <;> simp

@[simp] theorem execHostReadCompletion_advances (d) (s : State) : Advances s (execHostReadCompletion d s) := by
  unfold execHostReadCompletion
  (repeat' split) <;> simp

@[simp] theorem execHostReadTimeout_advances (s : State) : Advances s (execHostReadTimeout s) := by
  unfold execHostReadTimeout
  split <;> simp

/-! ### Validation -/

@[simp] theorem keeps_reject {s u : State} {c m f stage} : Keeps s (u.reject c m f stage) ↔ Keeps s u := by
  unfold State.reject
  simp

@[simp] theorem keeps_accept {s u : State} {c m j copy} : Keeps s (u.accept c m j copy) ↔ Keeps s u := by
  unfold State.accept
  simp

@[simp] theorem keeps_validate {s u : State} {c m bs} : Keeps s (u.validate c m bs) ↔ Keeps s u := by
  unfold State.validate
  dsimp only
  (repeat' split) <;> simp

@[simp] theorem Keeps.askChains {s u : State} (h : Keeps s u) (c d chain) : Keeps s (u.askChains c d chain) := by
  unfold State.askChains
  simp [h]

@[simp] theorem execCommandValidate_advances (c i chain) (s : State) : Advances s (execCommandValidate c i chain s) := by
  unfold execCommandValidate
  dsimp only
  (repeat' split) <;> simp

/-! ### Every command -/

/-- A read of a unit that its memory has completes. -/
theorem execMemoryRead_advances {m : MemTarget} {a : Nat} (n : Nat) (u : Option Nat) (s : State) (hm : memHas m a = true) :
    Advances s (execMemoryRead m a n u s) := by
  simp [execMemoryRead, hm]

theorem execMemoryRead_absent {m : MemTarget} {a : Nat} (n : Nat) (u : Option Nat) (s : State) (hm : memHas m a = false) :
    execMemoryRead m a n u s = .fault .absentAddress := by
  simp [execMemoryRead, hm]

/-- A command completes and keeps every invariant; a read of an absent address alone stops. -/
theorem exec_advances (c : Instr) (s : State) :
    Advances s (exec c s) ∨ ∃ m a n u, c = .memoryRead m a n u ∧ memHas m a = false ∧ exec c s = .fault .absentAddress := by
  cases c
  case memoryRead m a n u =>
    cases hm : memHas m a
    · exact .inr ⟨m, a, n, u, rfl, hm, execMemoryRead_absent n u s hm⟩
    · exact .inl (execMemoryRead_advances n u s hm)
  all_goals exact .inl (by simp [exec])

theorem Keeps.exec {s t : State} {c : Instr} (h : Sys2Proof.Machine.exec c s = .next t) : Keeps s t := by
  rcases exec_advances c s with ⟨u, hu, hk⟩ | ⟨m, a, n, u, -, -, hf⟩
  · obtain rfl : u = t := by simpa [hu] using h
    exact hk
  · simp [hf] at h

theorem Keeps.step {s t : State} (h : Sys2Proof.Machine.step s = .next t) : Keeps s t := by
  unfold Sys2Proof.Machine.step at h
  split at h
  · cases h
    simp
  · exact Keeps.trans (by simp) (Keeps.exec h)

end Sys2Proof.Machine

open Sys2Proof Sys2Proof.Machine

/-- Settles O5: debug and test mode go on where they are permitted, and a new boot state comes with both off. -/
theorem permitsKept : Obligations.PermitsKept :=
  fun _ _ hs h => (Keeps.step h).permitted hs

/-- Settles O6: the test registers change in test mode alone, whose end returns all of them to their reset values. -/
theorem testQuietKept : Obligations.TestQuietKept :=
  fun _ _ hs h => (Keeps.step h).testQuiet hs

/-- Settles O7: every operation keeps the lengths of the groups; an error count changes by a saturating addition or to 0. -/
theorem sizesAndCountsKept : Obligations.SizesAndCountsKept :=
  ⟨fun _ _ hs h => (Keeps.step h).shaped hs, fun _ _ hs h => (Keeps.step h).countsFit hs⟩

/-- Settles O9: by what each command does, one by one. -/
theorem onlyAbsentAddressStops : Obligations.OnlyAbsentAddressStops := by
  intro c s
  rcases exec_advances c s with ⟨t, ht, _⟩ | h
  · exact .inl ⟨t, ht⟩
  · exact .inr h

end

section
/-! PROOFS. Canonical memories: the refutation of O8. -/

namespace Sys2Proof.Machine

/-! ### Device memory takes over the form of core memory -/

/-- A list whose first two keys, below a bound, fall: it is in no canonical form. -/
def FallsBelow (b : Nat) (l : List (Nat × Byte)) : Prop := ∃ j v w r, l = (j + 1, v) :: (j, w) :: r ∧ j + 1 < b

theorem FallsBelow.not_wf {b : Nat} {l : List (Nat × Byte)} (h : FallsBelow b l) : Cells.wf unlisted l = false := by
  obtain ⟨j, v, w, r, rfl, -⟩ := h
  simp [Cells.wf, Cells.wfFrom]

theorem FallsBelow.set {b k : Nat} {l : List (Nat × Byte)} (h : FallsBelow b l) (hk : b ≤ k) (d v : Byte) : FallsBelow b (Cells.set d k v l) := by
  obtain ⟨j, x, y, r, rfl, hj⟩ := h
  have h1 : j + 1 < k := by omega
  have h2 : j < k := by omega
  exact ⟨j, x, y, Cells.set d k v r, by simp [Cells.set, h1, h2], hj⟩

theorem FallsBelow.setRun {b : Nat} (d : Byte) : ∀ (vs : List Byte) {k : Nat} {l : List (Nat × Byte)}, FallsBelow b l → b ≤ k →
    FallsBelow b (Cells.setRun d k vs l)
  | [], _, _, h, _ => h
  | v :: vs, _, _, h, hk => FallsBelow.setRun d vs (h.set hk d v) (by omega)

theorem FallsBelow.spread {b a : Nat} (w : Nat) (hb : b ≤ a) (ws : List (Nat × Nat)) {l : List (Nat × Byte)} (h : FallsBelow b l) :
    FallsBelow b (spread w a ws l) := by
  induction ws generalizing l with
  | nil => exact h
  | cons e r ih => exact ih (h.setRun 0 _ (by omega))

/-- What the save writes into a slot keeps the order in which core memory lists its bytes. -/
theorem FallsBelow.slotImage {y : Core} (h : FallsBelow 0x200000 (y.mem.listed 0 0x200000)) (k : Nat) : FallsBelow 0x200000 (y.slotImage k).cells := by
  simp only [Core.slotImage]
  refine .spread 4 ?_ _ (.spread 4 ?_ _ (.spread 1 ?_ _ (.spread 1 ?_ _ (.spread 16 ?_ _ (.spread 16 ?_ _ h))))) <;> omega

/-- A copy of the first bytes of a memory into an empty one. -/
theorem FallsBelow.graft_empty {src : Mem} {n : Nat} (h : FallsBelow n src.cells) (hf : src.fill = none) (u a : Nat) :
    FallsBelow (a + n) (Mem.graft {} src u a 0 n).cells := by
  obtain ⟨j, v, w, r, hc, hj⟩ := h
  have hj' : j < n := by omega
  refine ⟨a + j, v, w, (r.filter fun e => decide (e.1 < n)).map (fun e => (e.1 + a, e.2)), ?_, by omega⟩
  simp [Mem.graft, hf, splice, hc, hj, hj']
  omega

/-- A copy to higher addresses. -/
theorem FallsBelow.graft {dst src : Mem} {b u a c n : Nat} (h : FallsBelow b dst.cells) (hb : b ≤ a) (hd : dst.fill = none) (hs : src.fill = none) :
    FallsBelow b (dst.graft src u a c n).cells := by
  obtain ⟨j, v, w, r, hc, hj⟩ := h
  have h1 : j + 1 < a := by omega
  have h2 : j < a := by omega
  simp [Mem.graft, hd, hs, splice, hc, h1, h2]
  exact ⟨j, v, w, _, rfl, hj⟩

/-- A core that runs a tile command of context 0 and whose memory lists byte 1 before byte 0. -/
def unsortedCore : Core :=
  { run := some { ctx := 0, uid := 0, exec := none, num := 0, box := [], part := 0, home := 0, regions := [(0, 2)] }
    mem := { cells := [(1, 1), (0, 1)] } }

/-- PREEMPT of context 0, which that core runs; device memory is empty. -/
def unsortedState : State :=
  { State.reset with pending := [.preempt 0], opBusy := true, opHeld := some 3, cores := [unsortedCore], ctxs := [{ live := true }] }

/-- The core as its save lands. -/
def unsortedImage : Core := (unsortedCore.only 0).drained.1.saveImage 0

theorem unsortedState_canonical : unsortedState.Canonical := ⟨by decide, by decide⟩

theorem step_unsortedState : ∃ t, step unsortedState = .next t ∧ t.mem = Mem.landed {} unsortedImage 0 0x400000 := ⟨_, rfl, rfl⟩

theorem landed_unsortedImage : FallsBelow 0x600000 (Mem.landed {} unsortedImage 0 0x400000).cells := by
  have hl : FallsBelow 0x200000 (unsortedImage.mem.listed 0 0x200000) := ⟨0, 1, 1, [], by decide, by decide⟩
  have hp : unsortedImage.slotParts = [(0, 0x200000), (0x310000, 0x48000)] := by decide
  have hfirst : FallsBelow 0x600000 (Mem.graft {} (unsortedImage.slotImage 0) 64 0x400000 0 0x200000).cells :=
    (hl.slotImage 0).graft_empty (by rw [Core.slotImage]) 64 0x400000
  rw [Mem.landed, hp]
  simp only [List.foldl_cons, List.foldl_nil, Nat.add_zero]
  exact hfirst.graft (by omega) (by rw [Mem.graft]) (by rw [Core.slotImage])

end Sys2Proof.Machine

open Sys2Proof Sys2Proof.Machine

/-- Refutes O8: no invariant holds core memory in canonical form, and the save of a context lands it in device memory as it stands. -/
theorem not_memoryCanonicalKept : ¬ Obligations.MemoryCanonicalKept := by
  intro h
  obtain ⟨t, ht, hm⟩ := step_unsortedState
  obtain ⟨hw, -⟩ := h unsortedState t unsortedState_canonical ht
  rw [Memory.wf, hm, landed_unsortedImage.not_wf] at hw
  cases hw
end

section
/-! PROOFS. The queue, the idle tick, and the state after reset. -/

namespace Sys2Proof.Machine

theorem step_nil {s : State} (h : s.pending = []) : step s = .next s.idleTick := by
  unfold step
  rw [h]

theorem step_cons {s : State} {c : Instr} {r : List Instr} (h : s.pending = c :: r) : step s = exec c { s with pending := r } := by
  unfold step
  rw [h]

/-- A state that differs in its counters at most. -/
def CountsOnly (s t : State) : Prop := ∃ k, t = { s with counters := k }

theorem CountsOnly.refl (s : State) : CountsOnly s s := ⟨s.counters, rfl⟩

theorem CountsOnly.trans {s t u : State} (h : CountsOnly s t) (h' : CountsOnly t u) : CountsOnly s u := by
  obtain ⟨k, rfl⟩ := h
  obtain ⟨j, rfl⟩ := h'
  exact ⟨j, rfl⟩

theorem countsOnly_count (s : State) (i n : Nat) : CountsOnly s (s.count i n) := ⟨_, rfl⟩

theorem CountsOnly.ite {s t u : State} (p : Prop) [Decidable p] (h : CountsOnly s t) (h' : CountsOnly s u) :
    CountsOnly s (if p then t else u) := by
  split
  exacts [h, h']

theorem countsOnly_foldl {α : Type} {f : State → α → State} (h : ∀ s x, CountsOnly s (f s x)) (l : List α) (s : State) :
    CountsOnly s (l.foldl f s) := State.foldl_counters f h l s

/-- While the control section is down, or in A4, no time passes. -/
theorem State.idleTick_of_stopped {s : State} (h : s.up = false ∨ s.power.cur = 4) : s.idleTick = s := by
  unfold State.idleTick
  rcases h with h | h <;> simp [h]

/-- A tick moves the timebase, and counts. -/
theorem State.idleTick_of_running {s : State} (hup : s.up = true) (hcur : s.power.cur ≠ 4) :
    ∃ k, s.idleTick = { s with now := s.now + 1, counters := k } := by
  have hgate : (!s.up || s.power.cur == 4) = false := by simp [hup, hcur]
  have hgated (t : State) (d : Nat) : CountsOnly t (if max t.power.powerCap (t.power.thermalCap.getD d 0) = 0 && !t.power.avsHeld then t
      else t.count (9973 + d) 1) := .ite _ (.refl t) (countsOnly_count ..)
  have hcap (t : State) : CountsOnly t (if t.power.powerCap = 0 then t else t.count 9977 1) := .ite _ (.refl t) (countsOnly_count ..)
  have hhot (t : State) : CountsOnly t (if t.power.hot then t.count 9978 1 else t) := .ite _ (countsOnly_count ..) (.refl t)
  have htiles (t : State) (c : Nat) : CountsOnly t (t.count (9584 + 6 * c + 2) 1) := countsOnly_count ..
  have htick (t : State) (h : CountsOnly s t) : ∃ k, { t with now := t.now + 1 } = { s with now := s.now + 1, counters := k } := by
    obtain ⟨k, rfl⟩ := h
    exact ⟨k, rfl⟩
  unfold State.idleTick
  rw [hgate, if_neg Bool.false_ne_true]
  exact htick _ ((countsOnly_count s (9968 + s.power.cur) 1).trans <| (countsOnly_foldl hgated (List.range 4) _).trans <|
    (hcap _).trans <| (hhot _).trans <| countsOnly_foldl htiles _ _)

end Sys2Proof.Machine

open Sys2Proof Sys2Proof.Machine

/-- Settles O1: the second case of a step. -/
theorem stepRunsFrontCommand : Obligations.StepRunsFrontCommand :=
  fun _ _ _ h => step_cons h

/-- Settles O2: the first case of a step, by what an idle tick does. -/
theorem idleStepIsOneTick : Obligations.IdleStepIsOneTick := by
  intro s h
  rw [step_nil h]
  refine ⟨fun hup hcur => ?_, fun hstop => by rw [State.idleTick_of_stopped hstop]⟩
  obtain ⟨k, hk⟩ := State.idleTick_of_running hup hcur
  exact ⟨k, by rw [hk]⟩

/-- Settles O4: every group of the reset state has its size by its length, and the rest is what its fields say. -/
theorem resetMeetsInvariants : Obligations.ResetMeetsInvariants := by
  have hdies : ∀ y ∈ List.replicate 4 ({} : Die), y.corr ≤ 0xFFFF ∧ y.uncorr ≤ 0xFFFF := by decide
  have hbuffers : ∀ b ∈ List.replicate 4 ({} : Mem), Memory.wf b = true := by decide
  exact ⟨⟨nofun, nofun⟩, fun _ => by decide,
    ⟨List.length_replicate, List.length_replicate, rfl, rfl, List.length_replicate, List.length_replicate, List.length_replicate⟩,
    hdies, by decide, hbuffers⟩

/-- Settles O3: the registers of the reset state, evaluated. -/
theorem resetRegisters : Obligations.ResetRegisters := by
  refine ⟨?_, ?_, ?_, ?_, ?_, ?_, ?_, ?_, ?_, ?_⟩
  all_goals decide
end

section
/-! PROOFS. Fields of a word under a mask. -/

namespace Sys2Proof.Machine

/-- A mask of m bits from bit k keeps that field in its place. -/
theorem nat_and_field (n k m : Nat) : n &&& ((2 ^ m - 1) * 2 ^ k) = n / 2 ^ k % 2 ^ m * 2 ^ k := by
  apply Nat.eq_of_testBit_eq
  intro i
  rw [Nat.testBit_and, Nat.testBit_mul_two_pow, Nat.testBit_mul_two_pow, Nat.testBit_two_pow_sub_one, Nat.testBit_mod_two_pow,
    Nat.testBit_div_two_pow]
  by_cases h : k ≤ i
  · rw [Nat.sub_add_cancel h, Bool.and_comm, Bool.and_assoc]
  · simp [h]

theorem ofNat_field_eq_and (w : Word) (k m : Nat) (h : 2 ^ (m + k) ≤ 2 ^ 32) :
    BitVec.ofNat 32 (w.toNat / 2 ^ k % 2 ^ m * 2 ^ k) = w &&& BitVec.ofNat 32 ((2 ^ m - 1) * 2 ^ k) := by
  have hmask : (2 ^ m - 1) * 2 ^ k < 2 ^ 32 := by
    have hk : 0 < 2 ^ k := Nat.two_pow_pos k
    have hm : 0 < 2 ^ m := Nat.two_pow_pos m
    calc (2 ^ m - 1) * 2 ^ k < 2 ^ m * 2 ^ k := Nat.mul_lt_mul_of_pos_right (by omega) hk
      _ ≤ 2 ^ 32 := by rw [← Nat.pow_add]; exact h
  apply BitVec.eq_of_toNat_eq
  rw [BitVec.toNat_and, BitVec.toNat_ofNat, BitVec.toNat_ofNat, Nat.mod_eq_of_lt hmask, nat_and_field, ← nat_and_field]
  exact Nat.mod_eq_of_lt (Nat.lt_of_le_of_lt Nat.and_le_right hmask)

/-- The bits of a word from bit k on. -/
theorem ofNat_high_eq_and (w : Word) {k : Nat} (h : k ≤ 32) :
    BitVec.ofNat 32 (w.toNat / 2 ^ k * 2 ^ k) = w &&& BitVec.ofNat 32 ((2 ^ (32 - k) - 1) * 2 ^ k) := by
  have hfit : w.toNat / 2 ^ k < 2 ^ (32 - k) := by
    rw [Nat.div_lt_iff_lt_mul (Nat.two_pow_pos k), ← Nat.pow_add, Nat.sub_add_cancel h]
    exact w.isLt
  rw [← ofNat_field_eq_and w k (32 - k) (by rw [Nat.sub_add_cancel h]), Nat.mod_eq_of_lt hfit]

/-! ### The arrival of a packet -/

/-- An access of the host wakes the device and is counted. -/
theorem State.arrival_shape (s : State) (n : Nat) : ∃ p k, s.wake.received n = { s with power := p, counters := k } := by
  obtain ⟨p, k, h⟩ := s.wake_shape
  obtain ⟨j, h'⟩ := s.wake.received_shape n
  exact ⟨p, j, by rw [h', h]⟩

@[simp] theorem State.up_wake (s : State) : s.wake.up = s.up := by
  obtain ⟨p, k, h⟩ := s.wake_shape
  rw [h]
  rfl

@[simp] theorem State.hostUp_wake (s : State) : s.wake.hostUp = s.hostUp := by
  obtain ⟨p, k, h⟩ := s.wake_shape
  rw [h]
  rfl

@[simp] theorem State.hostUp_received (s : State) (n : Nat) : (s.received n).hostUp = s.hostUp := by
  obtain ⟨k, h⟩ := s.received_shape n
  rw [h]
  rfl

theorem State.up_of_hostUp {s : State} (h : s.hostUp = true) : s.up = true := by
  simp only [State.hostUp, Bool.and_eq_true] at h
  exact h.1.1

/-- The control section of a device that is up is ready, and has not fired. -/
theorem State.up_iff (s : State) : s.up = true ↔ s.boot.life = .ready ∧ s.boot.fired = false := by
  simp [State.up]

theorem State.answers_of_up {s : State} (h : s.up = true) (off : Nat) : s.answers off = true := by
  obtain ⟨hl, hf⟩ := s.up_iff.mp h
  simp [State.answers, hl, hf]

/-- A register write by its branches, on a device that is up. -/
theorem exec_registerWrite_of_up {s : State} (h : s.up = true) (off width : Nat) (v : Tick) :
    exec (.registerWrite off width v) s = .next (
      if bar0Access off width = false then (s.wake.received width).send .unsupported
      else if 0x18000 ≤ off ∧ off < 0x20000 then
        if width = 8 then ((s.wake.received width).msixWrite ((off - 0x18000) / 4) (BitVec.ofNat 32 (v.toNat % 2 ^ 32))).msixWrite
          ((off - 0x18000) / 4 + 1) (BitVec.ofNat 32 (v.toNat / 2 ^ 32))
        else (s.wake.received width).msixWrite ((off - 0x18000) / 4) (BitVec.ofNat 32 (v.toNat % 2 ^ 32))
      else (s.wake.received width).writeReg off (BitVec.ofNat 32 (v.toNat % 2 ^ 32))) := by
  obtain ⟨hl, -⟩ := s.up_iff.mp h
  have ha : (s.wake.received width).answers off = true := State.answers_of_up (by simpa using h) off
  simp [exec, execRegisterWrite, hl, h, ha]

/-- An aligned write of a register outside the MSI-X table. -/
theorem exec_registerWrite_reg {s : State} (h : s.up = true) {off : Nat} (v : Tick) (ha : off % 4 = 0) (hx : off < 0x18000 ∨ 0x20000 ≤ off) :
    exec (.registerWrite off 4 v) s = .next ((s.wake.received 4).writeReg off (BitVec.ofNat 32 (v.toNat % 2 ^ 32))) := by
  have hacc : bar0Access off 4 = true := by simp [bar0Access, ha]
  rw [exec_registerWrite_of_up h, if_neg (by simp [hacc]), if_neg (by omega)]

end Sys2Proof.Machine
end

section
/-! PROOFS. Wake events, configuration requests, the register block. -/

namespace Sys2Proof.Machine

theorem State.wake_of_active {s : State} (h : s.power.cur = 0) : s.wake = { s with power := { s.power with idleFrom := s.now } } := by
  simp [State.wake, h]

theorem State.wake_of_deep {s : State} (h : s.power.cur ≠ 0) (hx : s.power.exiting = false) :
    s.wake.power = { s.power with exiting := true, idleFrom := s.now } := by
  simp [State.wake, h, hx]

theorem State.wake_of_exiting {s : State} (h : s.power.cur ≠ 0) (hx : s.power.exiting = true) : s.wake = s := by
  simp [State.wake, h, hx]

theorem linkWord_speed (n : Nat) : (linkWord n).toNat % 16 = 1 + n % 7 := by
  simp only [linkWord, BitVec.toNat_ofNat]
  omega

/-! ### Writes of registers -/

/-- An offset outside every range of the index. -/
theorem off_of_unlisted {off : Nat} (h : listedOffset off = false) : ∀ r ∈ listedRegisters, off < r.1 ∨ r.1 + r.2 ≤ off := by
  simpa only [listedOffset, inRegions, List.any_eq_false, Bool.and_eq_true, decide_eq_true_eq, not_and_or, Nat.not_le, Nat.not_lt] using h

/-- A listed offset is none that the index does not list. -/
theorem ne_of_unlisted {off : Nat} (h : listedOffset off = false) (k : Nat) (hk : listedOffset k = true) : off ≠ k := by
  rintro rfl
  simp [h] at hk

/-- Of the registers of a die the index lists the first word at 0x1000 and four at 0x2000. -/
theorem die_off_of_unlisted {off : Nat} (h : listedOffset off = false) (hlo : 0x400000 ≤ off) (hhi : off < 0x800000) :
    off % 0x100000 ≠ 0x1000 ∧ off % 0x100000 ≠ 0x2000 ∧ off % 0x100000 ≠ 0x2004 ∧ off % 0x100000 ≠ 0x2008 ∧ off % 0x100000 ≠ 0x200C := by
  have hmem (d : Nat) (hd : d < 4) : (0x401000 + d * 0x100000, 4) ∈ listedRegisters ∧ (0x402000 + d * 0x100000, 16) ∈ listedRegisters := by
    simp only [listedRegisters, List.mem_append, List.mem_flatMap, List.mem_range]
    exact ⟨.inr ⟨d, hd, by simp⟩, .inr ⟨d, hd, by simp⟩⟩
  obtain ⟨h1, h2⟩ := hmem (off / 0x100000 - 4) (by omega)
  have h1 := off_of_unlisted h _ h1
  have h2 := off_of_unlisted h _ h2
  dsimp only at h1 h2
  omega

theorem State.writeReg_unlisted {s : State} {off : Nat} {v : Word} (h : listedOffset off = false) : s.writeReg off v = s := by
  have hne := ne_of_unlisted h
  unfold State.writeReg
  dsimp only
  split
  all_goals try exact absurd rfl (hne _ rfl)
  split
  case isTrue hdie =>
    simp only [Bool.and_eq_true, decide_eq_true_eq] at hdie
    obtain ⟨h1, h2, h3, h4, h5⟩ := die_off_of_unlisted h hdie.1 hdie.2
    split <;> first | contradiction | rfl
  case isFalse => rfl

theorem State.regFixed_unlisted {s : State} {off : Nat} (h : listedOffset off = false) : s.regFixed off = 0 := by
  have hne := ne_of_unlisted h
  unfold State.regFixed
  dsimp only
  split
  all_goals try exact absurd rfl (hne _ rfl)
  rfl

/-- Offsets of a range that the index lists whole. -/
theorem not_mem_of_unlisted {off lo hi : Nat} (h : listedOffset off = false) (hle : lo ≤ hi) (hr : (lo, hi - lo) ∈ listedRegisters) :
    ¬ (decide (lo ≤ off) && decide (off < hi)) = true := by
  have h := off_of_unlisted h _ hr
  simp
  omega

theorem State.reg_unlisted {s : State} {off : Nat} (h : listedOffset off = false) : s.reg off = 0 := by
  have hnot {lo hi : Nat} := not_mem_of_unlisted (lo := lo) (hi := hi) h
  unfold State.reg
  rw [State.regFixed_unlisted h, if_neg (hnot (by decide) (by decide)), if_neg (hnot (by decide) (by decide)), if_neg (hnot (by decide) (by decide)),
    if_neg (hnot (by decide) (by decide)), if_neg (hnot (by decide) (by decide)), if_neg (hnot (by decide) (by decide)), if_neg (hnot (by decide) (by decide))]
  split
  · rfl
  split
  case isTrue hdie =>
    simp only [Bool.and_eq_true, decide_eq_true_eq] at hdie
    obtain ⟨h1, h2, h3, h4, h5⟩ := die_off_of_unlisted h hdie.1 hdie.2
    dsimp only
    split <;> first | contradiction | rfl
  case isFalse => rfl

/-- An entry other than the default reads back in any list. -/
theorem Cells.get_set_listed {α : Type} [DecidableEq α] {d v : α} (h : v ≠ d) (k : Nat) : ∀ l : List (Nat × α), Cells.get d k (Cells.set d k v l) = v
  | [] => by simp [Cells.set, Cells.get, h]
  | (j, w) :: r => by
    by_cases h1 : j < k
    · simp [Cells.set, Cells.get, h1, Nat.ne_of_lt h1, Cells.get_set_listed h k r]
    · by_cases h2 : j = k <;> simp [Cells.set, Cells.get, h1, h2, h]

/-- An interrupt whose vector is not masked is sent. -/
theorem State.sendMsix_unmasked {s : State} {i : Nat} (hup : s.hostUp = true) (hm : (s.msixWord (i * 4 + 3)).toNat % 2 = 0) :
    s.sendMsix i = (s.send (.msix i)).count 9582 1 := by
  simp [State.sendMsix, hup, hm]

/-- Unmasking a vector with its bit pending. -/
theorem State.msixWrite_unmask {s : State} {i : Nat} (hup : s.hostUp = true) (hp : NatSet.mem i s.pba = true) :
    ∃ k m, s.msixWrite (4 * i + 3) 0 = { s with counters := k, msix := m, pba := NatSet.del i s.pba, tx := s.tx ++ [.msix i] } := by
  have hmod : (4 * i + 3) % 4 = 3 := by omega
  have hdiv : (4 * i + 3) / 4 = i := by omega
  let t : State := { s with msix := Cells.set 1 (4 * i + 3) 0 s.msix, pba := NatSet.del i s.pba }
  have hword : (t.msixWord (i * 4 + 3)).toNat % 2 = 0 := by
    have hget : Cells.get (1 : Word) (4 * i + 3) (Cells.set 1 (4 * i + 3) 0 s.msix) = 0 := Cells.get_set_listed (by decide) _ _
    rw [Nat.mul_comm, State.msixWord, if_pos hmod, hget]
    rfl
  have hwrite : s.msixWrite (4 * i + 3) 0 = t.sendMsix i := by
    simp [State.msixWrite, hmod, hdiv, hp, t]
  rw [hwrite, State.sendMsix_unmasked (s := t) hup hword]
  exact ⟨_, _, rfl⟩

/-- Masking sends nothing. -/
theorem State.msixWrite_mask (s : State) (i : Nat) : ∃ m, s.msixWrite (4 * i + 3) 1 = { s with msix := m } := by
  have hmod : (4 * i + 3) % 4 = 3 := by omega
  unfold State.msixWrite
  simp only [hmod, if_true]
  exact ⟨_, rfl⟩

theorem exec_registerWrite_msix {s : State} (h : s.up = true) {i : Nat} (hi : i < 2048) (v : Tick) :
    exec (.registerWrite (0x18000 + 16 * i + 12) 4 v) s = .next ((s.wake.received 4).msixWrite (4 * i + 3) (BitVec.ofNat 32 (v.toNat % 2 ^ 32))) := by
  have hacc : bar0Access (0x18000 + 16 * i + 12) 4 = true := by
    have ha : (0x18000 + 16 * i + 12) % 4 = 0 := by omega
    simp [bar0Access, ha]
  have hidx : (0x18000 + 16 * i + 12 - 0x18000) / 4 = 4 * i + 3 := by omega
  rw [exec_registerWrite_of_up h, if_neg (by simp [hacc]), if_pos (by omega), if_neg (by omega), hidx]

/-- A device whose watchdog has fired, or that is in recovery, answers in two blocks alone (R500). -/
theorem State.answers_of_silent {s : State} (h : (s.boot.life = .ready ∧ s.boot.fired = true) ∨ s.boot.life = .recovery) {off : Nat}
    (hs : secBlock off = false) : s.answers off = false := by
  rcases h with ⟨hl, hf⟩ | hl <;> simp [State.answers, *]

theorem exec_registerWrite_of_silent {s : State} (h : (s.boot.life = .ready ∧ s.boot.fired = true) ∨ s.boot.life = .recovery) {off : Nat}
    (hs : secBlock off = false) (ha : off % 4 = 0) (v : Tick) : exec (.registerWrite off 4 v) s = .next s := by
  have hans := State.answers_of_silent h hs
  have hdown : s.up = false := by rcases h with ⟨hl, hf⟩ | hl <;> simp [State.up, *]
  have hlife : (s.boot.life == .held || s.boot.life == .stopped) = false := by rcases h with ⟨hl, -⟩ | hl <;> simp [hl]
  simp [exec, execRegisterWrite, hlife, hdown, bar0Access, ha, hans]

end Sys2Proof.Machine

open Sys2Proof Sys2Proof.Machine

/-- Settles O10: the branches of a wake event, and the device's life for a configuration request. -/
theorem configAndWake : Obligations.ConfigAndWake := by
  refine ⟨fun s => ⟨s.wake_shape, State.wake_of_active, State.wake_of_deep, State.wake_of_exiting⟩, fun s => ⟨fun v hup => ⟨?_, ?_⟩, fun hup => ?_, ?_, ?_⟩⟩
  · simp [exec, execWakeEvent, hup]
  · simp [exec, execPwrWake, State.pwrWake, hup]
  · obtain ⟨hl, -⟩ := s.up_iff.mp hup
    obtain ⟨p, k, h⟩ := s.arrival_shape 0
    refine ⟨linkWord (Config.freeNat s.free), Config.freeNat (s.free + 1) % 6, ?_, by omega, ?_, ?_⟩
    · simp only [exec, execConfigRequest, hl, hup, if_true, h, State.hostConfigures, State.send]
    all_goals
      rw [linkWord_speed]
      omega
  · intro hl
    simp only [exec, execConfigRequest, hl]
    rfl
  · intro hl
    rcases hl with hl | hl <;> simp only [exec, execConfigRequest, hl] <;> rfl


/-- Settles O11: the branches of a register write, and the offsets that the index lists. -/
theorem registerBlock : Obligations.RegisterBlock := by
  refine ⟨?width, ?unlisted, ?held, ?msix, ?silent⟩
  case width =>
    intro s off width v hup h4 h8
    have hacc : bar0Access off width = false := by
      refine Bool.eq_false_iff.mpr fun h => ?_
      simp only [bar0Access, Bool.or_eq_true, Bool.and_eq_true, beq_iff_eq] at h
      rcases h with ⟨⟨hm, h1⟩, h2⟩ | h
      exacts [h8 ⟨hm, h1, h2⟩, h4 h]
    obtain ⟨p, k, h⟩ := s.arrival_shape width
    rw [exec_registerWrite_of_up hup, if_pos hacc, h]
    rfl
  case unlisted =>
    intro s off v hl ha
    refine ⟨State.reg_unlisted hl, fun hup => ?_⟩
    have hx : off < 0x18000 ∨ 0x20000 ≤ off := off_of_unlisted hl (0x18000, 0x8000) (by decide)
    rw [exec_registerWrite_reg hup v ha hx, State.writeReg_unlisted hl]
  case held =>
    intro s v hup
    have hw (off : Nat) := exec_registerWrite_reg hup (off := off) v
    have h64 := ofNat_high_eq_and (BitVec.ofNat 32 (v.toNat % 2 ^ 32)) (k := 6) (by decide)
    have h4096 := ofNat_high_eq_and (BitVec.ofNat 32 (v.toNat % 2 ^ 32)) (k := 12) (by decide)
    obtain ⟨p, k, h⟩ := s.arrival_shape 4
    refine ⟨?_, ?_, ?_, ?_, ?_, ?_, ?_⟩
    all_goals rw [hw _ (by decide) (by decide), h]
    all_goals unfold State.writeReg
    iterate 4 · rfl
    · rfl
    · exact congrArg (fun x => Host.Outcome.next { s with power := p, counters := k, cbLo := x }) h64
    · exact congrArg (fun x => Host.Outcome.next { s with power := p, counters := k, mgmtLo := x }) h4096
  case msix =>
    intro s i hup hi hp
    have hu := State.up_of_hostUp hup
    obtain ⟨p, k, h⟩ := s.wake_shape
    obtain ⟨j, h'⟩ := s.wake.received_shape 4
    have hup' : (s.wake.received 4).hostUp = true := by simpa using hup
    rw [exec_registerWrite_msix hu hi, exec_registerWrite_msix hu hi]
    obtain ⟨k', m', hm⟩ := State.msixWrite_unmask (s := s.wake.received 4) (i := i) hup' (by rw [h', h]; exact hp)
    obtain ⟨m, hm'⟩ := (s.wake.received 4).msixWrite_mask i
    refine ⟨⟨k', m', ?_⟩, m, congrArg _ hm'⟩
    refine congrArg _ (hm.trans ?_)
    rw [h', h]
  case silent =>
    intro s off v h hs ha
    refine ⟨?_, exec_registerWrite_of_silent h hs ha v⟩
    simp [State.reg, State.answers_of_silent h hs]

end

section
/-! PROOFS. Reads that clear or capture. -/

namespace Sys2Proof.Machine

section
variable {s : State} (hup : s.up = true)
include hup

/-- The error counts of a die as its register holds them. -/
theorem State.reg_eccCount {d : Nat} (hd : d < 4) : s.reg (0x402004 + d * 0x100000) = BitVec.ofNat 32 ((s.die d).uncorr * 2 ^ 16 + (s.die d).corr) := by
  have hdie : (0x402004 + d * 0x100000 - 0x400000) / 0x100000 = d := by omega
  have hoff : (0x402004 + d * 0x100000) % 0x100000 = 0x2004 := by omega
  have hin : (decide (0x400000 ≤ 0x402004 + d * 0x100000) && decide (0x402004 + d * 0x100000 < 0x800000)) = true := by
    simp only [Bool.and_eq_true, decide_eq_true_eq]
    omega
  unfold State.reg
  rw [State.answers_of_up hup]
  iterate 8 rw [if_neg (by simp; try omega)]
  rw [if_pos hin, hdie]
  dsimp only
  rw [hoff]
  rfl

/-- The registers of the two times. -/
theorem State.reg_fixed {off : Nat} (h : off ∈ [0x60008, 0x6000C, 0xA0008]) : s.reg off = BitVec.ofNat 32 (s.regFixed off) := by
  simp only [List.mem_cons, List.not_mem_nil, or_false] at h
  rcases h with rfl | rfl | rfl <;> simp [State.reg, State.answers_of_up hup]

end

theorem toNat_ofNat_word {n : Nat} (h : n < 2 ^ 32) : (BitVec.ofNat 32 n).toNat = n := by
  rw [BitVec.toNat_ofNat, Nat.mod_eq_of_lt h]

/-- The upper word of a time. -/
theorem Tick.high_mod (t : Tick) : t.toNat / 4294967296 % 4294967296 = t.toNat / 4294967296 := by
  have := t.isLt
  omega

/-- Clearing VALID of the error log. -/
theorem State.logClear_eq (s : State) (d : Nat) (v : Word) : s.logClear d v =
    { s with dies := if v.toNat % 2 = 1 then s.dies.set d { s.die d with logLo := (s.die d).logLo &&& 0xFFFFFFFE } else s.dies } := by
  have hbits := ofNat_high_eq_and (s.die d).logLo (k := 1) (by decide)
  unfold State.logClear
  split
  · exact congrArg (fun x => s.setDie d { s.die d with logLo := x }) hbits
  · rfl

end Sys2Proof.Machine

open Sys2Proof Sys2Proof.Machine

/-- Settles O12: what each of the registers holds, and the capture that its read leaves. -/
theorem readSideEffects : Obligations.ReadSideEffects := by
  refine ⟨fun s d v hup hd hfit hlen => ⟨?count, ?log⟩, fun s hup hvalid => ?times⟩
  case count =>
    obtain ⟨p, k, h⟩ := s.arrival_shape 0
    have hreg := State.reg_eccCount (s := s.wake.received 0) (by simpa using hup) hd
    have hget : s.die d = s.dies[d] := by simp [State.die, List.getD_eq_getElem?_getD, hlen]
    obtain ⟨hc, hu⟩ := hfit (s.die d) (hget ▸ List.getElem_mem hlen)
    have hn : (s.die d).uncorr * 2 ^ 16 + (s.die d).corr < 2 ^ 32 := by omega
    simp only [exec, execDieEccCountRead, hup, Nat.not_le.mpr hd, decide_false, Bool.not_true, Bool.or_self, Bool.false_eq_true, if_false, hreg]
    rw [h]
    simp only [State.cpl4, State.setDie, State.send, State.die] at hn ⊢
    rw [toNat_ofNat_word hn]
  case log =>
    obtain ⟨p, k, h⟩ := s.arrival_shape 4
    simp only [exec, execEccLogClear, hup, Nat.not_le.mpr hd, decide_false, Bool.not_true, Bool.or_self, Bool.false_eq_true, if_false,
      State.logClear_eq]
    rw [h]
    rfl
  case times =>
    obtain ⟨p, k, h⟩ := s.arrival_shape 0
    have hreg {off : Nat} := State.reg_fixed (s := s.wake.received 0) (by simpa using hup) (off := off)
    have hword {n : Nat} (hn : n < 2 ^ 32) := toNat_ofNat_word hn
    refine ⟨?_, ?_, ?_, ?_⟩
    · simp only [exec, execTelTimeLoRead, hup, Bool.not_true, Bool.false_eq_true, if_false]
      rw [h]
      simp only [hvalid, Bool.not_true, Bool.false_eq_true, if_false, State.cpl4, State.send, hword (Nat.mod_lt _ (by decide : 0 < 2 ^ 32))]
    · simp only [exec, execCfgApplyTimeLoRead, hup, Bool.not_true, Bool.false_eq_true, if_false]
      rw [hreg (by decide), h]
      simp only [State.regFixed, State.cpl4, State.send, hword (Nat.mod_lt _ (by decide : 0 < 2 ^ 32))]
    · simp only [exec, execTimeHiRead, hup, Bool.not_true, Bool.false_eq_true, if_false]
      rw [hreg (by decide), h]
      cases s.hiTel <;> simp [State.regFixed, State.cpl4, State.send, Tick.high_mod]
    · simp only [exec, execTimeHiRead, hup, Bool.not_true, Bool.false_eq_true, if_false]
      rw [hreg (by decide), h]
      cases s.hiApply <;> simp [State.regFixed, State.cpl4, State.send, Tick.high_mod]

end

section
/-! PROOFS. The BAR2 window. -/

namespace Sys2Proof.Machine

/-- The lines that n bytes from a touch, byte by byte. -/
theorem mem_unitsOf_iff_byte (a n x : Nat) : x ∈ unitsOf 64 a n ↔ ∃ i < n, (a + i) / 64 = x := by
  by_cases hn : n = 0
  · simp [hn, unitsOf]
  · rw [mem_unitsOf hn]
    constructor
    · intro hx
      exact ⟨max a (64 * x) - a, by omega, by omega⟩
    · rintro ⟨i, hi, rfl⟩
      omega

theorem Mem.poisoned_byte (m : Mem) (a : Nat) : m.poisoned 64 a 1 = NatSet.mem (a / 64) m.poison := by
  simp [Mem.poisoned, unitsOf]

/-- A range holds poison where one of its bytes does. -/
theorem Mem.poisoned_eq_any (m : Mem) (a n : Nat) : m.poisoned 64 a n = (List.range n).any fun i => m.poisoned 64 (a + i) 1 := by
  rw [Bool.eq_iff_iff]
  simp only [Mem.poisoned_byte, List.any_eq_true, List.mem_range]
  constructor
  · intro h
    obtain ⟨x, hx, hp⟩ := List.any_eq_true.mp h
    obtain ⟨i, hi, rfl⟩ := (mem_unitsOf_iff_byte a n x).mp hx
    exact ⟨i, hi, hp⟩
  · rintro ⟨i, hi, hp⟩
    exact List.any_eq_true.mpr ⟨_, (mem_unitsOf_iff_byte a n _).mpr ⟨i, hi, rfl⟩, hp⟩

/-- A byte of a range reads as the byte of what the range reads. -/
theorem Mem.byte_of_read {m : Mem} {a : Nat} {bs : List Byte} (h : m.read a bs.length = bs) {i : Nat} (hi : i < bs.length) :
    m.byte (a + i) = bs.getD i 0 := by
  have hget : (m.read a bs.length)[i]? = some (m.byte (a + i)) := by simp [Mem.read, hi]
  rw [h] at hget
  simp [List.getD_eq_getElem?_getD, hget]

section
variable {s : State} (hup : s.up = true)
include hup

/-- A BAR2 read by its branches. -/
theorem exec_bar2Read (off n : Nat) : exec (.bar2Read off n) s = .next (
    let r := s.wake.received 0
    let a := s.bar2Base + off
    let seen := if s.dbg.dbgEn then [(a, n)] else ((List.range n).filter fun i => (s.landingAt (a + i)).isNone).map fun i => (a + i, 1)
    if !s.bar2Up || devTop < a + n then r.send .unsupported
    else
      let t := (r.settle seen).carryFrom seen 4
      t.send (.cpl ((List.range n).map fun i => t.bar2Byte (a + i)) (seen.any fun q => t.mem.poisoned 64 q.1 q.2))) := by
  obtain ⟨p, k, h⟩ := s.arrival_shape 0
  simp only [exec, execBar2Read, hup, Bool.not_true, Bool.false_eq_true, if_false]
  rw [h]
  rfl

theorem exec_bar2Write (off : Nat) (data : List Byte) (ep : Bool) : exec (.bar2Write off data ep) s = .next (
    let r := s.wake.received data.length
    let a := s.bar2Base + off
    if !s.bar2Up || devTop < a + data.length || (((List.range data.length).any fun i => (s.landingAt (a + i)).isSome) && !s.dbg.dbgEn) then
      r.send .unsupported
    else (r.carryTo 4 a data.length).devWrite a data ep) := by
  obtain ⟨p, k, h⟩ := s.arrival_shape data.length
  simp only [exec, execBar2Write, hup, Bool.not_true, Bool.false_eq_true, if_false]
  rw [h]
  rfl

end

/-- A read outside every landing area. -/
theorem exec_bar2Read_memory {s : State} {off n : Nat} (hup : s.up = true) (hbar : s.bar2Up = true) (hfit : s.bar2Base + off + n ≤ devTop)
    (hland : ∀ i < n, s.landingAt (s.bar2Base + off + i) = none) (hlat : s.mem.latent = []) :
    ∃ k, exec (.bar2Read off n) s = .next { s.wake with
      counters := k
      tx := s.tx ++ [.cpl (s.mem.read (s.bar2Base + off) n) (s.mem.poisoned 64 (s.bar2Base + off) n)] } := by
  obtain ⟨p, k, h⟩ := s.wake_shape
  obtain ⟨k', h'⟩ := s.wake.received_shape 0
  have hall : ((List.range n).filter fun i => (s.landingAt (s.bar2Base + off + i)).isNone) = List.range n := by
    refine List.filter_eq_self.mpr fun i hi => ?_
    rw [hland i (List.mem_range.mp hi)]
    rfl
  rw [exec_bar2Read hup, if_neg (by simp [hbar, hfit]), hall, h', h]
  dsimp only
  rw [State.settle_clean { s with power := p, counters := k' } _ none hlat]
  generalize hseen : (if s.dbg.dbgEn = true then [(s.bar2Base + off, n)] else (List.range n).map fun i => (s.bar2Base + off + i, 1)) = seen
  obtain ⟨j, hj⟩ := State.carryFrom_shape { s with power := p, counters := k' } seen 4
  have hbytes : ((List.range n).map fun i => s.bar2Byte (s.bar2Base + off + i)) = s.mem.read (s.bar2Base + off) n := by
    refine List.map_congr_left fun i hi => ?_
    simp only [State.bar2Byte, hland i (List.mem_range.mp hi)]
  have hpoison : (seen.any fun q => s.mem.poisoned 64 q.1 q.2) = s.mem.poisoned 64 (s.bar2Base + off) n := by
    subst hseen
    split
    · simp
    · rw [List.any_map, Mem.poisoned_eq_any _ _ n]
      rfl
  refine ⟨j, ?_⟩
  rw [hj, ← hbytes, ← hpoison]
  rfl

end Sys2Proof.Machine

open Sys2Proof Sys2Proof.Machine

/-- Settles O13: the branches of both accesses, and what a write of clean device memory stores. -/
theorem bar2Window : Obligations.Bar2Window := by
  refine ⟨fun s off data ep hup hbar hcan hlat hfit hland => ?write, fun s off n hup hbar =>
    ⟨fun hfit hland hlat => exec_bar2Read_memory hup hbar hfit hland hlat, fun habove => ?above, fun data ep i hi hland hdbg => ?landing⟩⟩
  case write =>
    obtain ⟨p, k, h⟩ := s.wake_shape
    obtain ⟨k', h'⟩ := s.wake.received_shape data.length
    have hopen : (((List.range data.length).any fun i => (s.landingAt (s.bar2Base + off + i)).isSome) && !s.dbg.dbgEn) = false := by
      rcases hland with hdbg | hnone
      · simp [hdbg]
      · have hany := List.any_eq_false.mpr fun i (hi : i ∈ List.range data.length) =>
          show ¬ (s.landingAt (s.bar2Base + off + i)).isSome = true by simp [hnone i (List.mem_range.mp hi)]
        rw [hany, Bool.false_and]
    rw [exec_bar2Write hup, if_neg (by simp [hbar, hfit, hopen]), h', h]
    obtain ⟨j, hj⟩ := State.carryTo_shape { s with power := p, counters := k' } 4 (s.bar2Base + off) data.length
    obtain ⟨m, e, hm, hread, hsame, -⟩ := State.devWrite_spec { s with power := p, counters := j } (s.bar2Base + off) data ep hlat hcan.1
    exact ⟨m, { s.dbg with eccArmed := e }, j, congrArg _ ((congrArg (State.devWrite · _ _ _) hj).trans hm),
      fun i hi => Mem.byte_of_read hread hi, hsame, rfl⟩
  case above =>
    obtain ⟨p, k, h⟩ := s.arrival_shape 0
    rw [exec_bar2Read hup, if_pos (by simp [habove]), h]
    rfl
  case landing =>
    obtain ⟨p, k, h⟩ := s.arrival_shape data.length
    have hhit : ((List.range data.length).any fun i => (s.landingAt (s.bar2Base + off + i)).isSome) = true :=
      List.any_eq_true.mpr ⟨i, List.mem_range.mpr hi, hland⟩
    rw [exec_bar2Write hup, if_pos (by simp [hhit, hdbg]), h]
    rfl

end

section
/-! PROOFS. Debug mode, the arming of injections, and the debug window. -/

namespace Sys2Proof.Machine

theorem leNat_lt (l : List Byte) : leNat l < 256 ^ l.length := by
  induction l with
  | nil => simp [leNat]
  | cons b r ih =>
    have hb := b.isLt
    simp only [leNat, List.length_cons, Nat.pow_succ]
    omega

/-- A list of bytes from its little-endian number. -/
theorem leBytes_leNat (l : List Byte) : leBytes l.length (leNat l) = l := by
  induction l with
  | nil => rfl
  | cons b r ih =>
    have htail : leBytes r.length ((b.toNat + 256 * leNat r) / 256) = r := by
      rw [show (b.toNat + 256 * leNat r) / 256 = leNat r by have := b.isLt; omega]
      exact ih
    rw [leBytes, List.length_cons, List.range_succ_eq_map, List.map_cons, List.map_map]
    congr 1
    · apply BitVec.eq_of_toNat_eq
      have := b.isLt
      simp only [leNat, Nat.pow_zero, Nat.div_one, BitVec.toNat_ofNat]
      omega
    · rw [leBytes] at htail
      refine Eq.trans (List.map_congr_left fun i _ => ?_) htail
      simp only [Function.comp_apply, leNat, Nat.pow_succ', ← Nat.div_div_eq_div_mul]

/-- The four bytes of a word. -/
theorem State.cpl4_bytes (s : State) {l : List Byte} (h : l.length = 4) :
    s.cpl4 (BitVec.ofNat 32 (leNat l)) = s.send (.cpl l false) := by
  have hlt := leNat_lt l
  rw [h] at hlt
  rw [State.cpl4, BitVec.toNat_ofNat, Nat.mod_eq_of_lt (show leNat l < 2 ^ 32 from hlt)]
  exact congrArg (fun b => s.send (.cpl b false)) (h ▸ leBytes_leNat l)

/-! ### Writes of DEBUG_EN -/

theorem State.setDebug_true_of_not_permitted {s : State} (hperm : s.boot.debugPermit = false) : s.setDebug true = s := by
  simp [State.setDebug, hperm]

theorem State.setDebug_same (s : State) : s.setDebug s.dbg.dbgEn = s := by
  simp [State.setDebug]

theorem State.setDebug_true_of_permitted {s : State} (hup : s.up = true) (hoff : s.dbg.dbgEn = false) (hperm : s.boot.debugPermit = true) :
    s.setDebug true = State.modeMsg { s with dbg := { s.dbg with dbgEn := true } } := by
  simp [State.setDebug, hup, hoff, hperm]

theorem State.setDebug_false_of_on {s : State} (hup : s.up = true) (hon : s.dbg.dbgEn = true) :
    s.setDebug false = State.modeMsg (State.resumeAll { s with dbg := { s.dbg with dbgEn := false } }) := by
  simp [State.setDebug, hup, hon]

/-- Every stopped context and core goes on. -/
theorem State.resumeAll_running (s : State) : (∀ x ∈ s.resumeAll.ctxs, x.dbgStopped = false) ∧ (∀ y ∈ s.resumeAll.cores, y.dbgStop = false) := by
  constructor
  · intro x hx
    obtain ⟨c, -, rfl⟩ := List.mem_map.mp hx
    dsimp only
    split
    · rfl
    · simp_all
  · intro y hy
    obtain ⟨z, -, rfl⟩ := List.mem_map.mp hy
    rfl

/-! ### Arming -/

section
variable {s : State} (hup : s.up = true) (hon : s.dbg.tstEn = true) (v : Word)
include hup hon

theorem State.setEcc_eq : s.setEcc v =
    if v.getLsbD 0 = true ∧ v &&& 0xF0 ≠ 0 then
      { s with dbg := { s.dbg with eccCtrl := v &&& 0x1FFF0, eccArmed := true, armLo := s.dbg.eccLo, armHi := s.dbg.eccHi } }
    else { s with dbg := { s.dbg with eccCtrl := v &&& 0x1FFF0 } } := by
  have hctrl : BitVec.ofNat 32 (bits v.toNat 16 4 * 16) = v &&& 0x1FFF0 := ofNat_field_eq_and v 4 13 (by decide)
  have hnsym : bits v.toNat 7 4 ≠ 0 ↔ v &&& 0xF0 ≠ 0 := by
    rw [← show BitVec.ofNat 32 (bits v.toNat 7 4 * 16) = v &&& 0xF0 from ofNat_field_eq_and v 4 4 (by decide), ne_eq, ne_eq, not_iff_not,
      ← BitVec.toNat_inj, BitVec.toNat_ofNat]
    have : bits v.toNat 7 4 < 16 := Nat.mod_lt _ (by decide)
    simp only [BitVec.ofNat_eq_ofNat, BitVec.toNat_ofNat]
    omega
  have hbit : v.toNat % 2 = 1 ↔ v.getLsbD 0 = true := by simp [BitVec.getLsbD, Nat.testBit_zero]
  unfold State.setEcc
  simp only [hup, hon, Bool.not_true, Bool.or_self, Bool.false_eq_true, if_false, hctrl, hnsym, hbit]
  split <;> rfl

theorem State.setNan_eq : s.setNan v = { s with dbg := { s.dbg with nan := v &&& 0x7FFFE, nanArmed := s.dbg.nanArmed || v.getLsbD 0 } } := by
  have hnan : BitVec.ofNat 32 (bits v.toNat 18 1 * 2) = v &&& 0x7FFFE := ofNat_field_eq_and v 1 18 (by decide)
  have hbit : (v.toNat % 2 == 1) = v.getLsbD 0 := by simp [BitVec.getLsbD, Nat.testBit_zero]; rfl
  unfold State.setNan
  simp only [hup, hon, Bool.not_true, Bool.or_self, Bool.false_eq_true, if_false, hnan, hbit]

end

theorem State.setEcc_off {s : State} (hoff : s.dbg.tstEn = false) (v : Word) : s.setEcc v = s := by
  simp [State.setEcc, hoff]

theorem State.setNan_off {s : State} (hoff : s.dbg.tstEn = false) (v : Word) : s.setNan v = s := by
  simp [State.setNan, hoff]

/-! ### Faults keep the context torn down through their messages -/

/-- A parity error tears down its context, where that is alive. -/
theorem State.parityFault_torn (s : State) (k c uid code source a : Nat) (h : (s.ctx c).alive = true) :
    ((s.parityFault k c uid code source a).ctx c).torn = true := by
  obtain ⟨e, t, g, j, p, he⟩ := State.memError_shape (s.faultCtx c code (some uid)) (k / 64) source a 0 0 k (some c)
  rw [State.parityFault, he]
  exact State.faultCtx_torn s c code (some uid) h

/-! ### The debug window -/

/-- The fields of DBG_SEL: core, item, index. -/
theorem sel_fields (v : Word) : bits v.toNat 31 24 = v.toNat / 2 ^ 24 ∧ bits v.toNat 23 20 = v.toNat / 2 ^ 20 % 16 ∧ bits v.toNat 7 0 = v.toNat % 256 := by
  have := v.isLt
  simp only [bits]
  omega

section
variable {s : State} {off : Nat} (hup : s.up = true) (hlt : off < 4096) (hal : off % 4 = 0)
include hup hlt hal

theorem exec_dbgWindowRead_running (par : Bool) (hstop : (s.core (s.dbg.sel.toNat / 2 ^ 24)).dbgStop = false) :
    exec (.dbgWindowRead off par) s = .next { (s.wake.received 0).cpl4 0 with dbg := { s.dbg with err := true } } := by
  obtain ⟨p, j, h⟩ := s.arrival_shape 0
  obtain ⟨hk, -, -⟩ := sel_fields s.dbg.sel
  rw [← hk] at hstop
  have hstop' : (State.core { s with power := p, counters := j } (bits s.dbg.sel.toNat 31 24)).dbgStop = false := hstop
  simp only [exec, execDbgWindowRead, hup, Nat.not_le.mpr hlt, h, hstop', hal]
  rfl

theorem exec_dbgWindowRead_stopped (hstop : (s.core (s.dbg.sel.toNat / 2 ^ 24)).dbgStop = true) :
    exec (.dbgWindowRead off false) s = .next ((s.wake.received 0).cpl4 (BitVec.ofNat 32 (leNat ((List.range 4).map fun i =>
      (s.core (s.dbg.sel.toNat / 2 ^ 24)).drained.1.itemByte (s.dbg.sel.toNat / 2 ^ 24) (s.dbg.sel.toNat / 2 ^ 20 % 16) (s.dbg.sel.toNat % 256)
        (off + i))))) := by
  obtain ⟨p, j, h⟩ := s.arrival_shape 0
  obtain ⟨hk, hi, hx⟩ := sel_fields s.dbg.sel
  rw [← hk] at hstop ⊢
  rw [← hi, ← hx]
  have hstop' : (State.core { s with power := p, counters := j } (bits s.dbg.sel.toNat 31 24)).dbgStop = true := hstop
  simp only [exec, execDbgWindowRead, hup, Nat.not_le.mpr hlt, h, hstop', hal]
  rfl

/-- A parity error of a register with an owner. -/
theorem exec_dbgWindowRead_parity {o : Nat × Nat} (hstop : (s.core (s.dbg.sel.toNat / 2 ^ 24)).dbgStop = true)
    (hitem : s.dbg.sel.toNat / 2 ^ 20 % 16 ≤ 4)
    (ho : (s.core (s.dbg.sel.toNat / 2 ^ 24)).itemOwner (s.dbg.sel.toNat / 2 ^ 20 % 16) (s.dbg.sel.toNat % 256) = some o) :
    ∃ u k code source a, u.ctxs = s.ctxs ∧ exec (.dbgWindowRead off true) s = .next (State.parityFault u k o.1 o.2 code source a) := by
  obtain ⟨p, j, h⟩ := s.arrival_shape 0
  obtain ⟨hk, hi, hx⟩ := sel_fields s.dbg.sel
  rw [← hk] at hstop ho
  rw [← hi] at hitem ho
  rw [← hx] at ho
  have hstop' : (State.core { s with power := p, counters := j } (bits s.dbg.sel.toNat 31 24)).dbgStop = true := hstop
  have ho' : (State.core { s with power := p, counters := j } (bits s.dbg.sel.toNat 31 24)).itemOwner (bits s.dbg.sel.toNat 23 20)
    (bits s.dbg.sel.toNat 7 0) = some o := ho
  simp only [exec, execDbgWindowRead, hup, Nat.not_le.mpr hlt, h, hstop', hal, hitem, ho']
  refine ⟨_, _, _, _, _, ?_, rfl⟩
  split <;> rfl

end

end Sys2Proof.Machine

open Sys2Proof Sys2Proof.Machine

/-- Settles O15: the writes of DEBUG_EN, of the two injections, and the branches of the window. -/
theorem debugEnableArmWindow : Obligations.DebugEnableArmWindow := by
  refine ⟨fun s hup => ?enable, fun s v hup => ?arm, fun s off par hup hlt hal => ?window⟩
  case enable =>
    have hup' : (s.received 4).up = true := by simpa using hup
    refine ⟨fun hoff hperm => ?_, fun hoff hperm => ?_, fun hon => ?_, fun v hv => ?_⟩
    · exact congrArg _ (State.setDebug_true_of_not_permitted (by simpa using hperm))
    · have h := State.setDebug_true_of_permitted hup' (by simpa using hoff) (by simpa using hperm)
      rw [State.dbg_received] at h
      exact congrArg _ h
    · obtain ⟨k, h⟩ := s.received_shape 4
      refine ⟨_, congrArg Host.Outcome.next (State.setDebug_false_of_on hup' (by simpa using hon)), ?_⟩
      obtain ⟨hx, hy⟩ := State.resumeAll_running { s.received 4 with dbg := { (s.received 4).dbg with dbgEn := false } }
      refine ⟨by rw [h]; rfl, hx, hy, by rw [h]; rfl, by rw [h]; simp [State.resumeAll]⟩
    · have h := (s.received 4).setDebug_same
      rw [State.dbg_received, hv] at h
      exact congrArg _ h
  case arm =>
    have hup' : (s.received 4).up = true := by simpa using hup
    refine ⟨fun hon => ?_, fun hoff => ⟨congrArg _ (State.setEcc_off (by simpa using hoff) v), congrArg _ (State.setNan_off (by simpa using hoff) v)⟩⟩
    have hecc := State.setEcc_eq hup' (by simpa using hon) v
    have hnan := State.setNan_eq hup' (by simpa using hon) v
    rw [State.dbg_received] at hecc hnan
    refine ⟨fun hb hn => ?_, fun hne => ?_, congrArg _ hnan⟩
    · rw [if_pos ⟨hb, hn⟩] at hecc
      exact congrArg _ hecc
    · rw [if_neg fun hc => hne.elim (fun h => absurd hc.1 (h ▸ Bool.false_ne_true)) hc.2] at hecc
      exact congrArg _ hecc
  case window =>
    obtain ⟨p, j, h⟩ := s.arrival_shape 0
    refine ⟨fun hstop => ?_, fun hstop => ?_, fun o hstop hitem ho halive hlen => ?_⟩
    · rw [exec_dbgWindowRead_running hup hlt hal par hstop, h]
      rfl
    · rw [exec_dbgWindowRead_stopped hup hlt hal hstop, State.cpl4_bytes _ (by simp), h]
      rfl
    · obtain ⟨u, k, code, source, a, hctx, hrow⟩ := exec_dbgWindowRead_parity hup hlt hal hstop hitem ho
      have hu : u.ctx o.1 = s.ctx o.1 := by rw [State.ctx, hctx, State.ctx]
      exact ⟨_, hrow, State.parityFault_torn u k o.1 o.2 code source a (hu ▸ halive)⟩

end

section
/-! PROOFS. The boot ROM and the resets. -/

namespace Sys2Proof.Machine

/-! ### What the boot ROM changes -/

/-- Programming changes the OTP alone. -/
theorem Boot.programRun_shape (b : Boot) (n : Nat) (vs : List Byte) : ∃ o, b.programRun n vs = { b with otp := o } := by
  unfold Boot.programRun
  generalize vs.zip (List.range vs.length) = l
  induction l generalizing b with
  | nil => exact ⟨b.otp, rfl⟩
  | cons x r ih =>
    obtain ⟨o, h⟩ := ih (b.program (n + x.2) x.1)
    exact ⟨o, by rw [List.foldl_cons, h]; rfl⟩

theorem Boot.keyPackage_shape {b b' : Boot} {base index : Nat} {payload : List Byte} (h : b.keyPackage base index payload = some b') :
    ∃ o, b' = { b with otp := o } := by
  unfold Boot.keyPackage at h
  split at h
  · obtain ⟨o, ho⟩ := b.programRun_shape (base + 64 * (index + 1)) (payload.take 48)
    simp only [ho, Option.some.injEq] at h
    exact ⟨_, h.symm.trans rfl⟩
  · cases h

/-- A package entry changes the OTP and PKG. -/
theorem Boot.package_shape (b : Boot) (draw e : Nat) : ∃ o p, b.package draw e = { b with otp := o, pkg := p } := by
  unfold Boot.package
  dsimp only
  split
  · exact ⟨b.otp, b.pkg, rfl⟩
  split
  · exact ⟨b.otp, 2, rfl⟩
  split
  case h_1 b' hdone =>
    suffices hs : ∃ o, b' = { b with otp := o } by
      obtain ⟨o, rfl⟩ := hs
      exact ⟨o, 1, rfl⟩
    split at hdone
    · cases hdone
    split at hdone
    · split at hdone
      · obtain ⟨o, ho⟩ := b.programRun_shape _ _
        exact ⟨o, by rw [← ho]; exact (Option.some.inj hdone).symm⟩
      · cases hdone
    · exact Boot.keyPackage_shape hdone
    · exact Boot.keyPackage_shape hdone
    · cases hdone
  case h_2 => exact ⟨b.otp, 3, rfl⟩

/-- The packages of a boot, one after another. -/
theorem Boot.packages_shape (draw : Nat) (l : List Nat) (b : Boot) :
    ∃ o p, l.foldl (fun b e => b.package (draw + 2 + e) e) b = { b with otp := o, pkg := p } := by
  induction l generalizing b with
  | nil => exact ⟨b.otp, b.pkg, rfl⟩
  | cons e r ih =>
    obtain ⟨o, p, h⟩ := b.package_shape (draw + 2 + e) e
    obtain ⟨o', p', h'⟩ := ih (b.package (draw + 2 + e) e)
    exact ⟨o', p', by rw [List.foldl_cons, h', h]⟩

/-- The choice of a slot changes FAIL_A and FAIL_B. -/
theorem Boot.trySlots_shape (b : Boot) (draw : Nat) : ∃ x y k, b.trySlots draw = ({ b with failA := x, failB := y }, k) := by
  unfold Boot.trySlots
  cases b.firstSlot
  all_goals
    simp only [Bool.false_eq_true, if_true, if_false, List.getD_cons_zero, List.getD_cons_succ, Nat.one_ne_zero]
    split
    · exact ⟨_, _, _, rfl⟩
    · split <;> exact ⟨_, _, _, rfl⟩

/-- The ROM ends booting or in recovery, and leaves PERST_N. -/
theorem Boot.rom_spec (b : Boot) (draw : Nat) :
    ((b.rom draw).life = .booting ∨ (b.rom draw).life = .recovery) ∧ (b.rom draw).perstN = b.perstN ∧ (b.rom draw).fired = false := by
  have hcfg : b.configure.perstN = b.perstN := by unfold Boot.configure; split <;> rfl
  unfold Boot.rom
  generalize hb : ({ b.configure with
    pkg := 0, svnTarget := none, recLo := 0, recHi := 0, fired := false, heartbeat := 0
    rsaSlot := (b.activeSlot 2048).getD 0, slhSlot := (b.activeSlot 2304).getD 0 } : Boot) = b'
  have hperst : b'.perstN = b.perstN := by rw [← hb, ← hcfg]
  have hfired : b'.fired = false := by rw [← hb]
  obtain ⟨x, y, k, h⟩ := b'.trySlots_shape draw
  dsimp only
  rw [h]
  cases k with
  | none => exact ⟨.inr rfl, hperst, hfired⟩
  | some k =>
    dsimp only
    obtain ⟨o, p, h'⟩ := Boot.packages_shape draw (List.range 4) { b' with failA := x, failB := y }
    rw [h']
    exact ⟨.inl rfl, hperst, hfired⟩

/-! ### A cleared state -/

/-- No context of a device that was reset exists. -/
theorem State.ctx_live_of_reset {s : State} (h : s.ctxs = List.replicate 64 {}) (c : Nat) : (s.ctx c).live = false := by
  rw [State.ctx, h, List.getD_eq_getElem?_getD, List.getElem?_replicate]
  split <;> rfl

/-- The ROM of a device that was cleared. -/
theorem State.runRom_cleared (s : State) (b : Boot) :
    let t : State := State.runRom { s.cleared with boot := b }
    (t.boot.life = .booting ∨ t.boot.life = .recovery) ∧ t.boot.perstN = b.perstN ∧ t.boot.fired = false ∧ t.hostToken = 0 ∧ t.shadow = none ∧
      t.sessions = [] ∧ ∀ c, (t.ctx c).live = false := by
  obtain ⟨hlife, hperst, hfired⟩ := b.rom_spec (s.free + 1)
  exact ⟨hlife, hperst, hfired, rfl, rfl, rfl, State.ctx_live_of_reset rfl⟩

end Sys2Proof.Machine

open Sys2Proof Sys2Proof.Machine

/-- Settles O17: the fields of a cleared state, and what the ROM leaves of the boot state. -/
theorem resetsAndReady : Obligations.ResetsAndReady := by
  refine ⟨fun s => ⟨?perst, fun hp => ?pwrgd, fun hp => ?deassert, fun hl k hk => ?hot⟩, fun s => ⟨fun hup => ?flr, fun hl => ?afterFlr, fun hl => ?ready⟩⟩
  case perst =>
    exact ⟨_, rfl, rfl, rfl, rfl, rfl, rfl, State.ctx_live_of_reset rfl, rfl, rfl, rfl, s.free, rfl⟩
  case pwrgd =>
    simp only [exec, execPwrgdDeassert, hp, Bool.not_true, Bool.false_eq_true, if_false]
    exact ⟨_, rfl, rfl, rfl, rfl, rfl, rfl, State.ctx_live_of_reset rfl, s.free, rfl⟩
  case deassert =>
    simp only [exec, execPerstDeassert, hp, Bool.false_eq_true, if_false]
    obtain ⟨hlife, hperst, hfired, htoken, -, -, hctx⟩ := s.runRom_cleared { s.boot with perstN := true, pwrgd := true, thermtripN := true }
    exact ⟨_, rfl, hlife, hperst, hfired, htoken, hctx⟩
  case hot =>
    obtain ⟨hlife, -, -, htoken, hshadow, hsessions, hctx⟩ := s.runRom_cleared s.boot.spoil
    refine ⟨_, ?_, hlife, htoken, hshadow, hsessions, hctx⟩
    cases k with
    | perst => exact absurd rfl hk
    | _ => simp [exec, execReset, hl]
  case flr =>
    simp only [exec, execFunctionLevelReset, hup, Bool.not_true, Bool.false_eq_true, if_false]
    exact ⟨_, rfl, rfl, rfl, State.ctx_live_of_reset rfl, rfl, rfl, rfl, rfl, rfl⟩
  case afterFlr => simp only [exec, execDeviceReady, hl]
  case ready => simp only [exec, execDeviceReady, hl]

end

section
/-! PROOFS. The watchdog, the anti-rollback count, the recovery load. -/

namespace Sys2Proof.Machine

/-! ### The count of consecutive 1 bits -/

/-- A count of at least k says that the k lowest bits are 1. -/
theorem le_countOnes_iff (f v k : Nat) : k ≤ countOnes f v ↔ k ≤ f ∧ ∀ i < k, v.testBit i = true := by
  induction f generalizing v k with
  | zero => 
    simp only [countOnes, Nat.le_zero]
    exact ⟨fun h => ⟨h, by omega⟩, fun h => h.1⟩
  | succ f ih =>
    cases k with
    | zero => simp
    | succ k =>
      have hstep : (∀ i < k + 1, v.testBit i = true) ↔ v % 2 = 1 ∧ ∀ i < k, (v / 2).testBit i = true := by
        constructor
        · intro h
          have h0 := h 0 (by omega)
          rw [Nat.testBit_zero] at h0
          exact ⟨by simpa using h0, fun i hi => by rw [← Nat.testBit_succ]; exact h (i + 1) (by omega)⟩
        · rintro ⟨h0, h⟩ i hi
          cases i with
          | zero => simp [h0]
          | succ i => rw [Nat.testBit_succ]; exact h i (by omega)
      rw [countOnes, hstep]
      split
      case isTrue h1 =>
        have := ih (v / 2) k
        constructor
        · intro h
          obtain ⟨hk, hb⟩ := this.mp (by omega)
          exact ⟨by omega, h1, hb⟩
        · rintro ⟨hk, -, hb⟩
          have := this.mpr ⟨by omega, hb⟩
          omega
      case isFalse h1 =>
        constructor
        · intro h
          omega
        · rintro ⟨-, h, -⟩
          exact absurd h h1

theorem countOnes_le (f v : Nat) : countOnes f v ≤ f := ((le_countOnes_iff f v _).mp (Nat.le_refl _)).1

theorem testBit_of_lt_countOnes {f v i : Nat} (h : i < countOnes f v) : v.testBit i = true :=
  ((le_countOnes_iff f v _).mp (Nat.le_refl _)).2 i h

/-- The count after the lowest n bits are set. -/
theorem countOnes_or {f v n : Nat} (hn : n ≤ f) :
    n ≤ countOnes f (v ||| (2 ^ n - 1)) ∧ countOnes f v ≤ countOnes f (v ||| (2 ^ n - 1)) := by
  constructor
  · refine (le_countOnes_iff ..).mpr ⟨hn, fun i hi => ?_⟩
    rw [Nat.testBit_or, Nat.testBit_two_pow_sub_one]
    simp [hi]
  · refine (le_countOnes_iff ..).mpr ⟨countOnes_le f v, fun i hi => ?_⟩
    rw [Nat.testBit_or, testBit_of_lt_countOnes hi, Bool.true_or]

/-- Where no bit above the count is 1, the count becomes the larger of the two. -/
theorem countOnes_or_eq {f v n : Nat} (hn : n ≤ f) (hv : v = 2 ^ countOnes f v - 1) :
    countOnes f (v ||| (2 ^ n - 1)) = max (countOnes f v) n := by
  obtain ⟨h1, h2⟩ := countOnes_or (v := v) hn
  refine Nat.le_antisymm (Nat.le_of_not_lt fun hlt => ?_) (Nat.max_le.mpr ⟨h2, h1⟩)
  have hbit := testBit_of_lt_countOnes hlt
  have hvbit := (congrArg (Nat.testBit · (max (countOnes f v) n)) hv).trans (Nat.testBit_two_pow_sub_one ..)
  rw [Nat.testBit_or, Nat.testBit_two_pow_sub_one, hvbit] at hbit
  simp at hbit

/-! ### The bytes of the counter -/

theorem leNat_testBit_or (a b : List Byte) (h : a.length = b.length) : leNat (List.zipWith (· ||| ·) a b) = leNat a ||| leNat b := by
  induction a generalizing b with
  | nil =>
    cases b with
    | nil => rfl
    | cons y t => simp at h
  | cons x r ih =>
    cases b with
    | nil => simp at h
    | cons y t =>
      have hr := ih t (by simpa using h)
      have hx := x.isLt
      have hy := y.isLt
      apply Nat.eq_of_testBit_eq
      intro i
      simp only [List.zipWith_cons_cons, leNat, hr, Nat.testBit_or]
      have hor : (x ||| y).toNat < 2 ^ 8 := (x ||| y).isLt
      rw [show (256 : Nat) = 2 ^ 8 from rfl]
      simp only [Nat.add_comm _ (2 ^ 8 * _), Nat.testBit_two_pow_mul_add _ hx, Nat.testBit_two_pow_mul_add _ hy, Nat.testBit_two_pow_mul_add _ hor]
      split <;> simp

/-- A byte of the OTP after some bytes are programmed. -/
theorem Boot.otpByte_program {b : Boot} (h : Cells.wf 0 b.otp = true) (n m : Nat) (v : Byte) :
    (b.program n v).otpByte m = if m = n then b.otpByte m ||| v else b.otpByte m := by
  rw [Boot.otpByte, Boot.program, Cells.get_set _ _ _ _ _ h]
  split
  case isTrue hm => rw [hm]
  case isFalse => rfl

theorem Boot.program_wf {b : Boot} (h : Cells.wf 0 b.otp = true) (n : Nat) (v : Byte) : Cells.wf 0 (b.program n v).otp = true :=
  Cells.wf_set _ _ _ _ h

/-- Programming bytes one after another reaches no other byte. -/
theorem Boot.otpByte_programs_other (n m : Nat) (l : List (Byte × Nat)) {b : Boot} (h : Cells.wf 0 b.otp = true) (hm : ∀ x ∈ l, n + x.2 ≠ m) :
    (l.foldl (fun b x => b.program (n + x.2) x.1) b).otpByte m = b.otpByte m := by
  induction l generalizing b with
  | nil => rfl
  | cons x r ih =>
    rw [List.foldl_cons, ih (Boot.program_wf h _ _) fun y hy => hm y (List.mem_cons_of_mem _ hy), Boot.otpByte_program h,
      if_neg (hm x List.mem_cons_self).symm]

/-- Each of them is programmed over what the OTP held. -/
theorem Boot.otpByte_programs (n : Nat) (l : List (Byte × Nat)) {b : Boot} (h : Cells.wf 0 b.otp = true) (hd : (l.map Prod.snd).Nodup)
    {x : Byte × Nat} (hx : x ∈ l) : (l.foldl (fun b x => b.program (n + x.2) x.1) b).otpByte (n + x.2) = b.otpByte (n + x.2) ||| x.1 := by
  induction l generalizing b with
  | nil => cases hx
  | cons y r ih =>
    rw [List.map_cons, List.nodup_cons] at hd
    obtain ⟨hy, hr⟩ := hd
    have hne (z : Byte × Nat) (hz : z ∈ r) : n + z.2 ≠ n + y.2 := fun he =>
      hy (List.mem_map.mpr ⟨z, hz, Nat.add_left_cancel he⟩)
    rw [List.foldl_cons]
    rcases List.mem_cons.mp hx with rfl | hx
    · rw [Boot.otpByte_programs_other n _ r (Boot.program_wf h _ _) hne, Boot.otpByte_program h, if_pos rfl]
    · rw [ih (Boot.program_wf h _ _) hr hx, Boot.otpByte_program h, if_neg (hne x hx)]

theorem Boot.otpByte_programRun {b : Boot} (h : Cells.wf 0 b.otp = true) (n : Nat) (vs : List Byte) {i : Nat} (hi : i < vs.length) :
    (b.programRun n vs).otpByte (n + i) = b.otpByte (n + i) ||| vs[i] := by
  have hsnd : (vs.zip (List.range vs.length)).map Prod.snd = List.range vs.length := List.map_snd_zip (by simp)
  refine Boot.otpByte_programs n (vs.zip (List.range vs.length)) h (by rw [hsnd]; exact List.nodup_range) (x := (vs[i], i)) ?_
  exact List.mem_iff_getElem.mpr ⟨i, by simpa using hi, by simp⟩

/-- The counter with its lowest n bits programmed. -/
theorem Boot.otpNat_raise {b : Boot} (h : Cells.wf 0 b.otp = true) {n : Nat} (hn : n ≤ 128) :
    (b.raise n).otpNat 2560 16 = b.otpNat 2560 16 ||| (2 ^ n - 1) := by
  have hval : leNat (leBytes 16 (2 ^ n - 1)) = 2 ^ n - 1 := by
    rw [leNat_leBytes, Nat.mod_eq_of_lt]
    have : 2 ^ n ≤ 2 ^ 128 := Nat.pow_le_pow_right (by decide) hn
    have : 0 < 2 ^ n := Nat.two_pow_pos n
    omega
  rw [← hval, Boot.otpNat, Boot.otpNat, ← leNat_testBit_or _ _ (by simp)]
  refine congrArg leNat (List.ext_getElem (by simp) fun i hi _ => ?_)
  have hi16 : i < 16 := by simpa using hi
  simp only [List.getElem_map, List.getElem_range, List.getElem_zipWith]
  exact Boot.otpByte_programRun h 2560 (leBytes 16 (2 ^ n - 1)) (by simpa using hi16)

/-! ### Rows -/

theorem exec_svnCommit (v : Word) (s : State) : exec (.svnCommit v) s = .next ((s.received 4).svnCommit v) := rfl

theorem svnKey_eq (v : Word) : bits v.toNat 31 16 = v.toNat / 65536 := by
  have := v.isLt
  simp only [bits]
  omega

theorem State.up_false_of_recovery {s : State} (h : s.boot.life = .recovery) : s.up = false := by
  simp [State.up, h]

theorem State.recoveryLo_go {s : State} {v : Word} (hl : s.boot.life = .recovery) (hs : s.boot.stage = 2) (hv : v.getLsbD 0 = true) :
    s.recoveryLo v = { s with
      boot := { s.boot with recLo := v &&& 0xFFFFF000, stage := 3 }
      tx := s.tx ++ [.hostRead (s.boot.recHi.toNat * 2 ^ 32 + (v &&& 0xFFFFF000).toNat) 0x8000 none] } := by
  have hbit : v.toNat % 2 = 1 := by simpa [BitVec.getLsbD, Nat.testBit_zero] using hv
  have hlo : BitVec.ofNat 32 (v.toNat / 4096 * 4096) = v &&& 0xFFFFF000 := ofNat_high_eq_and v (k := 12) (by decide)
  unfold State.recoveryLo
  dsimp only
  rw [hlo, if_pos (by simp [hbit, hl, hs])]
  rfl

theorem State.recoveryLo_address {s : State} {v : Word} (h : s.boot.stage ≠ 2 ∨ v.getLsbD 0 = false) :
    s.recoveryLo v = { s with boot := { s.boot with recLo := v &&& 0xFFFFF000 } } := by
  have hlo : BitVec.ofNat 32 (v.toNat / 4096 * 4096) = v &&& 0xFFFFF000 := ofNat_high_eq_and v (k := 12) (by decide)
  unfold State.recoveryLo
  dsimp only
  rw [hlo, if_neg]
  intro hc
  simp only [Bool.and_eq_true, decide_eq_true_eq, beq_iff_eq] at hc
  rcases h with h | h
  · exact h hc.2
  · simp [BitVec.getLsbD, Nat.testBit_zero, hc.1.1] at h

/-- The end of a load whose data came whole. -/
theorem exec_recoveryLoadDone_clean {s : State} (bs : List Byte) (h : ¬ (s.boot.life != .recovery || s.boot.stage != 3) = true) :
    exec (.recoveryLoadDone (.ok bs false)) s = .next (
      if Boot.checkSlot { s.boot with imageGood := [true, true] } s.free 0 = 0 then
        { s with free := s.free + 1, boot := { s.boot with stage := 4, failA := 0, imageGood := s.boot.imageGood.set 0 true } }
      else { s with free := s.free + 1, boot := { s.boot with
        stage := 2, failA := Boot.checkSlot { s.boot with imageGood := [true, true] } s.free 0 } }) := by
  simp only [exec, execRecoveryLoadDone]
  rw [if_neg h]
  rfl

end Sys2Proof.Machine

open Sys2Proof Sys2Proof.Machine

/-- Settles O18: the rows of the heartbeat, the watchdog, the commit and the recovery load; the count by the bits of the counter. -/
theorem watchdogSvnRecovery : Obligations.WatchdogSvnRecovery := by
  refine ⟨fun s hup => ⟨?beat, fun hlt => ?early, fun fatal hf => ?fire⟩, fun s v hl => ⟨fun hkey hnone => ?commit, fun hbad => ?noCommit,
    fun n hn himg hwf => ?done⟩, fun s v => ⟨fun hl hs hv => ?go, fun h => ?address, fun hl hs => ⟨fun bs => ?image, ?failed, fun bs => ?poisoned⟩⟩⟩
  case beat => simp [exec, execHeartbeat, hup]
  case early => simp [exec, execWatchdogFire, hup, State.since, hlt]
  case fire =>
    have hdown : State.up { s with boot := { s.boot with fired := true }, tx := s.tx ++ [.aer] } = false := by simp [State.up]
    have hasleep : State.awake { s with boot := { s.boot with fired := true }, tx := s.tx ++ [.aer] } = false := by simp [State.awake, hdown]
    refine ⟨?_, fun p => ?_, hasleep, fun c => ?_⟩
    · have hdue : (!s.up || (!fatal && decide (s.since s.boot.lastBeat < 50000000))) = false := by
        rcases hf with h | h
        · simp [hup, h]
        · rw [hup, State.since, decide_eq_false (Nat.not_lt.mpr h)]
          simp
      simp only [exec, execWatchdogFire, hdue]
      rfl
    · simp [State.toHost, State.hostUp, hdown]
    · simp only [State.ready, hasleep, Bool.false_and]
  case commit =>
    have hlife : (s.boot.life == .ready || s.boot.life == .recovery) = true := by simpa using hl
    simp [exec_svnCommit, State.svnCommit, hkey, hnone, hlife, bits]
  case noCommit =>
    rw [exec_svnCommit, State.svnCommit, if_pos]
    rcases hbad with h | h
    · simp [svnKey_eq, h]
    · simp [Option.isSome_iff_ne_none, h]
  case done =>
    obtain ⟨otp, hotp⟩ := s.boot.programRun_shape 2560 (leBytes 16 (2 ^ min n s.boot.imageSvn - 1))
    have hlife : (s.boot.life == .held || s.boot.life == .stopped) = false := by rcases hl with h | h <;> simp [h]
    have hfit : min n s.boot.imageSvn ≤ 128 := by omega
    have hnat := Boot.otpNat_raise hwf hfit
    have hcount : Boot.svnCount { s.boot with otp := otp, svnTarget := none } =
        countOnes 128 (s.boot.otpNat 2560 16 ||| (2 ^ min n s.boot.imageSvn - 1)) := by
      rw [← hnat, Boot.raise, hotp]
      rfl
    obtain ⟨h1, h2⟩ := countOnes_or (v := s.boot.otpNat 2560 16) hfit
    refine ⟨otp, ?_, ?_, ?_, fun hv => ?_⟩
    · simp only [exec, execSvnCommitDone, hn, hlife, Boot.raise, hotp]
      rfl
    · rw [hcount]; exact h1
    · rw [hcount]; exact h2
    · rw [hcount]; exact countOnes_or_eq hfit hv
  case go =>
    have hr : s.received 4 = s := by simp [State.received, State.up_false_of_recovery hl]
    rw [← State.recoveryLo_go hl hs hv]
    simp only [exec, execRecoveryGo, hr]
  case address =>
    have h' := State.recoveryLo_address (s := s.received 4) (v := v) (by simpa using h)
    rw [State.boot_received] at h'
    exact congrArg _ h'
  case image =>
    have hgate : ¬ (s.boot.life != .recovery || s.boot.stage != 3) = true := by simp [hl, hs]
    refine if hr : Boot.checkSlot { s.boot with imageGood := [true, true] } s.free 0 = 0 then ⟨_, ?_, .inl rfl⟩ else ⟨_, ?_, .inr ⟨_, hr, rfl⟩⟩
    all_goals
      rw [exec_recoveryLoadDone_clean bs hgate]
    · rw [if_pos hr]
    · rw [if_neg hr]
  case failed => simp [exec, execRecoveryLoadDone, hl, hs]
  case poisoned => simp [exec, execRecoveryLoadDone, hl, hs]

end

section
/-! PROOFS. The management ring. -/

namespace Sys2Proof.Machine

theorem word_odd_iff (v : Word) : v.toNat % 2 = 1 ↔ v.getLsbD 0 = true := by
  simp [BitVec.getLsbD, Nat.testBit_zero]

theorem word_even_iff (v : Word) : v.toNat % 2 = 0 ↔ v.getLsbD 0 = false := by
  have h := word_odd_iff v
  rw [← Bool.not_eq_true, ← h]
  omega

/-- CTX_MGMT_CTRL as a write leaves it. -/
def mgmtCtrlOf (v : Word) : Word := BitVec.ofNat 32 (bits v.toNat 18 8 * 256 + bits v.toNat 7 4 * 16 + v.toNat % 2)

/-- The windows of a table that was read. -/
def windowsOf : HostData → List HWin
  | .ok bs _ => hwinsOf bs
  | .failed => []

section
variable {s : State} {v : Word} (wins : HostData) (hup : s.up = true)
include hup

theorem exec_mgmtEnableWrite_rise (hv : v.getLsbD 0 = true) (hc : s.mgmtCtrl.getLsbD 0 = false) (hlo : 4 ≤ bits v.toNat 7 4) (hhi : bits v.toNat 7 4 ≤ 12) :
    ∃ k x, exec (.mgmtEnableWrite v wins) s = .next { s.wake with
        mgmtCtrl := mgmtCtrlOf v
        mgmt := { active := true, base := s.mgmtHi.toNat * 2 ^ 32 + s.mgmtLo.toNat / 4096 * 4096, logN := bits v.toNat 7 4, wins := windowsOf wins, lineDirty := true }
        counters := k, tx := x } ∧
      (s.hostUp = true → x = s.tx ++ [.hostRead (s.mgmtHi.toNat * 2 ^ 32 + s.mgmtLo.toNat / 4096 * 4096 + 512) 512 none]) := by
  have hodd : v.toNat % 2 = 1 := (word_odd_iff v).mpr hv
  have heven : s.mgmtCtrl.toNat % 2 = 0 := (word_even_iff s.mgmtCtrl).mpr hc
  have hhost : s.wake.hostUp = s.hostUp := s.hostUp_wake
  obtain ⟨p, k, h⟩ := s.wake_shape
  obtain ⟨k', h'⟩ := s.wake.received_shape 4
  rw [h] at h' hhost ⊢
  let t : State := { s with power := p, counters := k', mgmtCtrl := mgmtCtrlOf v }
  let q : Tx := .hostRead (s.mgmtHi.toNat * 2 ^ 32 + s.mgmtLo.toNat / 4096 * 4096 + 512) 512 none
  obtain ⟨x, hx⟩ := t.toHost_shape q
  obtain ⟨j, hj⟩ := (t.toHost q).fetched_shape wins
  have hctrl : BitVec.ofNat 32 (bits v.toNat 18 8 * 256 + bits v.toNat 7 4 * 16 + 1) = mgmtCtrlOf v := by rw [mgmtCtrlOf, hodd]
  refine ⟨j, x, ?_, fun hh => ?_⟩
  · simp only [exec, execMgmtEnableWrite, hup, h, h', hodd, heven, hlo, hhi, hctrl, decide_true, Bool.and_self, beq_self_eq_true, if_true, Bool.not_true,
      Bool.false_eq_true, if_false]
    rw [show (State.fetched (State.toHost { s with power := p, counters := k', mgmtCtrl := mgmtCtrlOf v } q) wins) = _ from
      hj.trans (congrArg (fun u : State => { u with counters := j }) hx)]
    cases wins <;> rfl
  · have := congrArg State.tx hx
    rw [State.toHost, if_pos (show t.hostUp = true from hhost.trans hh)] at this
    exact this.symm

theorem exec_mgmtEnableWrite_range (hv : v.getLsbD 0 = true) (hc : s.mgmtCtrl.getLsbD 0 = false)
    (hr : 12 < bits v.toNat 7 4 ∨ bits v.toNat 7 4 < 4) :
    exec (.mgmtEnableWrite v wins) s = .next { s.wake.received 4 with mgmtCtrl := mgmtCtrlOf v } := by
  have hodd : v.toNat % 2 = 1 := (word_odd_iff v).mpr hv
  have heven : s.mgmtCtrl.toNat % 2 = 0 := (word_even_iff s.mgmtCtrl).mpr hc
  have hrange : ¬ (decide (4 ≤ bits v.toNat 7 4) && decide (bits v.toNat 7 4 ≤ 12)) = true := by simp; omega
  obtain ⟨p, k, h⟩ := s.arrival_shape 4
  simp only [exec, execMgmtEnableWrite, hup, h, hodd, heven, decide_true, Bool.and_self, beq_self_eq_true, if_true, Bool.not_true,
      Bool.false_eq_true, if_false, mgmtCtrlOf]
  rw [if_neg hrange]

theorem exec_mgmtEnableWrite_fall (hv : v.getLsbD 0 = false) :
    exec (.mgmtEnableWrite v wins) s = .next { s.wake.received 4 with mgmtCtrl := mgmtCtrlOf v, mgmt := { s.mgmt with
      active := false, fetched := none, reserved := b2n s.mgmt.running.isSome } } := by
  have heven : v.toNat % 2 = 0 := (word_even_iff v).mpr hv
  obtain ⟨p, k, h⟩ := s.arrival_shape 4
  simp [exec, execMgmtEnableWrite, hup, h, heven, mgmtCtrlOf]

end

/-! ### Descriptors -/

theorem exec_mgmtDescriptorStart_idle {s : State} (h : s.mgmt.running ≠ none ∨ s.mgmt.fetched = none) : exec .mgmtDescriptorStart s = .next s := by
  simp only [exec, execMgmtDescriptorStart]
  split
  · rfl
  case h_2 d hd =>
    rw [if_pos]
    rcases h with h | h
    · simp [Option.isSome_iff_ne_none, h]
    · simp [h] at hd

theorem exec_mgmtDescriptorStart_start {s : State} {d : MgmtDesc} (ha : s.awake = true) (hf : s.mgmt.fetched = some d) (hr : s.mgmt.running = none) :
    exec .mgmtDescriptorStart s = .next (
      let u : State := { s with mgmt := { s.mgmt with fetched := none, running := some { d with start := s.now } } }
      if u.mgmtCheck { d with start := s.now } = 0 then u else u.mgmtDone (u.mgmtCheck { d with start := s.now }) 0) := by
  simp only [exec, execMgmtDescriptorStart, hf, ha, hr]
  rfl

theorem State.mgmtRun_some {s : State} {op : Nat} {d : MgmtDesc} (ha : s.awake = true) (hr : s.mgmt.running = some d) (ho : d.opcode = op)
    (hw : d.waiting = false) : s.mgmtRun op = some d := by
  simp [State.mgmtRun, hr, ha, ho, hw]

/-- The record of a management descriptor, the status line and the interrupt. -/
theorem State.mgmtDone_sent {s : State} {d : MgmtDesc} (code detail : Nat) (hr : s.mgmt.running = some d) (hup : s.hostUp = true)
    (hm : (s.msixWord (bits s.mgmtCtrl.toNat 18 8 * 4 + 3)).toNat % 2 = 0) :
    ∃ line k, s.mgmtDone code detail = { s with
      counters := k
      mgmt := { s.mgmt with running := none, reserved := s.mgmt.reserved - 1, mseq := s.mgmt.mseq + 1, dropped := 0, lineDirty := false }
      tx := s.tx ++ [
        .hostWrite (s.mgmt.base + 4096 + 64 * 2 ^ s.mgmt.logN + 32 * (s.mgmt.mseq.toNat % 2 ^ s.mgmt.logN))
          (leBytes 32 (msgBits s.mgmt.mseq.toNat d.seq.toNat s.now.toNat 0x01 0 0 false (min s.mgmt.dropped 16383) code (detail % 2 ^ 64)))
          false false none,
        .hostWrite (s.mgmt.base + 64) line false false none, .msix (bits s.mgmtCtrl.toNat 18 8)] } := by
  have hseq : d.seq.toNat % 2 ^ 32 = d.seq.toNat := Nat.mod_eq_of_lt d.seq.isLt
  have hsend {t : State} (p : Tx) (ht : t.hostUp = true) : t.toHost p = t.send p := by rw [State.toHost, if_pos ht]
  unfold State.mgmtDone
  simp only [hr]
  unfold State.putMessage
  dsimp only
  rw [hseq, State.hostStruct, hsend _ (by exact hup)]
  unfold State.mgmtLine
  dsimp only [State.send]
  rw [State.hostStruct, hsend _ (by exact hup)]
  rw [State.sendMsix_unmasked (by exact hup) (by exact hm)]
  simp only [State.send, State.count, List.append_assoc, List.cons_append, List.nil_append]
  exact ⟨_, _, rfl⟩

end Sys2Proof.Machine

open Sys2Proof Sys2Proof.Machine

/-- Settles O19: the branches of the enable write, of the start, and the packets of a completion. -/
theorem managementRing : Obligations.ManagementRing := by
  refine ⟨fun s v wins hup => ⟨fun hv hc hlo hhi => ?_, exec_mgmtEnableWrite_range wins hup, fun hv => ?_⟩,
    fun s d ha => ⟨exec_mgmtDescriptorStart_start ha, exec_mgmtDescriptorStart_idle, fun hr ho hw => ?_⟩,
    fun s d code detail hr hup hm => State.mgmtDone_sent code detail hr hup hm⟩
  · obtain ⟨k, x, hrow, hx⟩ := exec_mgmtEnableWrite_rise wins hup hv hc hlo hhi
    exact ⟨_, k, x, hrow, hx, rfl, rfl, rfl, rfl, rfl, rfl, rfl, rfl, rfl⟩
  · exact ⟨_, exec_mgmtEnableWrite_fall wins hup hv, rfl, rfl⟩
  · simp only [exec, execHintLatency, State.mgmtRun_some ha hr ho hw]

end

section
/-! PROOFS. Snapshots, and the staged configuration. -/

namespace Sys2Proof.Machine

theorem State.toHost_of_up {s : State} (h : s.hostUp = true) (p : Tx) : s.toHost p = s.send p := by
  rw [State.toHost, if_pos h]

/-! ### SNAPSHOT -/

section
variable {s : State} {d : MgmtDesc} (h : s.mgmtRun 0x18 = some d)
include h

/-- SNAPSHOT by its checks, in their order. -/
theorem exec_snapshot : exec .snapshot s = .next (
    let start := d.start.toNat
    let time := if bits d.desc 319 256 = 0 then start + 2000 else bits d.desc 319 256
    let groups := bits d.desc 255 240
    let addr := bits d.desc 383 320
    let n := 64 + 8 * (groupIndexes groups).length
    if time < start + 2000 ∨ start + 1000000000 < time then s.mgmtDone 0x420 0
    else if addr % 64 ≠ 0 ∨ (bit1 d.desc 239 = true ∧ winFor s.mgmt.wins addr n true = none) ∨ (bit1 d.desc 239 = false ∧ devTop < addr + n) then
      s.mgmtDone 0x421 0
    else if groups = 0 ∨ groups % 2 = 1 ∨ 4096 ≤ groups then s.mgmtDone 0x422 0
    else { s with
      snap := some { time := BitVec.ofNat 64 time, seq := d.seq, groups := groups, addr := addr, host := bit1 d.desc 239 }
      mgmt := { s.mgmt with running := some { d with waiting := true } } }) := by
  have haddr (addr n : Nat) : (addr % 64 != 0 || (if bit1 d.desc 239 then (winFor s.mgmt.wins addr n true).isNone else decide (devTop < addr + n))) = true ↔
      (addr % 64 ≠ 0 ∨ (bit1 d.desc 239 = true ∧ winFor s.mgmt.wins addr n true = none) ∨ (bit1 d.desc 239 = false ∧ devTop < addr + n)) := by
    cases bit1 d.desc 239 <;> simp
  simp only [exec, execSnapshot, h, haddr, Bool.or_eq_true, decide_eq_true_eq, beq_iff_eq, or_assoc]

end

/-! ### SNAPSHOT_LATCH -/

/-- What a snapshot writes. -/
def State.latched (s : State) (q : Snap) : List Byte :=
  leBytes 64 (q.time.toNat + q.seq.toNat * 2 ^ 64 + q.groups * 2 ^ 96 + (groupIndexes q.groups).length * 2 ^ 128) ++
    (groupIndexes q.groups).flatMap fun i => leBytes 8 (s.counterNow i)

section
variable {s : State} {q : Snap} (h : s.snap = some q) (ha : s.awake = true)
include h ha

theorem exec_snapshotLatch_early (ht : s.now.toNat < q.time.toNat) : exec .snapshotLatch s = .next s := by
  simp [exec, execSnapshotLatch, h, ht]

/-- At its tick a snapshot is written and its descriptor completes. -/
theorem exec_snapshotLatch_due (ht : q.time.toNat ≤ s.now.toNat) : exec .snapshotLatch s = .next (
    (if q.host = true then State.toHost { s with snap := none }
        (.hostWrite q.addr (s.latched q) false false ((winFor s.mgmt.wins q.addr (s.latched q).length true).bind HWin.tag))
      else State.hubWrite { s with snap := none } q.addr (s.latched q) false).mgmtDone 0 q.time.toNat) := by
  simp only [exec, execSnapshotLatch, h, ha, Nat.not_lt.mpr ht]
  rfl

end

/-! ### CFG_CHECK -/

/-- CFG_CHECK writes its conflict records where a list is asked for, and completes. -/
theorem exec_cfgCheck {s : State} {d : MgmtDesc} (h : s.mgmtRun 0x19 = some d) : exec .cfgCheck s = .next (
    let data := (s.conflicts.take (bits d.desc 319 304)).flatMap Conflict.bytes
    let u := if bits d.desc 383 320 = 0 ∨ data = [] then s
      else if bit1 d.desc 303 = true then
        s.toHost (.hostWrite (bits d.desc 383 320) data false false ((winFor s.mgmt.wins (bits d.desc 383 320) data.length true).bind HWin.tag))
      else s.hubWrite (bits d.desc 383 320) data false
    State.mgmtDone { u with cfgConflicts := s.conflicts.length, cfgClean := s.conflicts.isEmpty }
      (if s.conflicts = [] then 0 else 0x400) (s.conflicts.length % 2 ^ 32)) := by
  simp only [exec, execCfgCheck, h, Bool.or_eq_true, decide_eq_true_eq, List.isEmpty_iff]

end Sys2Proof.Machine

open Sys2Proof Sys2Proof.Machine

/-- Settles O20: the checks of SNAPSHOT in their order, and the write of the latch. -/
theorem snapshotRule : Obligations.SnapshotRule := by
  refine ⟨fun s d h => ⟨fun ht => ?_, fun h1 h2 hbad => ?_, fun h1 h2 hok hg => ?_, fun h1 h2 hok hg0 hg1 hg2 => ?_⟩,
    fun s q hq ha => ⟨exec_snapshotLatch_early hq ha, fun ht hh hcan hlat => ?device, fun ht hh hup => ?host⟩⟩
  · rw [exec_snapshot h]
    dsimp only
    rw [if_pos ht]
  · rw [exec_snapshot h]
    dsimp only
    rw [if_neg (by omega), if_pos hbad]
  · rw [exec_snapshot h]
    dsimp only
    rw [if_neg (by omega), if_neg hok, if_pos hg]
  · rw [exec_snapshot h]
    dsimp only
    rw [if_neg (by omega), if_neg hok, if_neg (by omega)]
  case device =>
    obtain ⟨m, e, k, hw, hread, hsame, -⟩ := State.hubWrite_spec { s with snap := none } q.addr (s.latched q) false hlat hcan.1
    refine ⟨{ s with snap := none, mem := m, counters := k, dbg := { s.dbg with eccArmed := e } }, ?_, rfl, rfl, hread, hsame, rfl, rfl⟩
    rw [exec_snapshotLatch_due hq ha ht, if_neg (by simp [hh]), hw]
  case host =>
    rw [exec_snapshotLatch_due hq ha ht, if_pos hh, State.toHost_of_up (by exact hup)]
    rfl

/-- Settles O21: writes of staged registers, and the branches of the check, the decision and the commit. -/
theorem stageCheckCommit : Obligations.StageCheckCommit := by
  refine ⟨fun s v d hup => ?_, fun s w hw hup => ⟨fun hd ht => ⟨?_, ?_⟩, fun hd ht => ?_, fun hn => ?_⟩⟩
  · have hfield (m : Nat) (hm : m ≤ 32) : BitVec.ofNat 32 ((BitVec.ofNat 32 (v.toNat % 2 ^ 32)).toNat % 2 ^ m) =
        BitVec.ofNat 32 (v.toNat % 2 ^ 32) &&& BitVec.ofNat 32 (2 ^ m - 1) := by
      have := ofNat_field_eq_and (BitVec.ofNat 32 (v.toNat % 2 ^ 32)) 0 m (Nat.pow_le_pow_right (by decide) hm)
      simpa using this
    obtain ⟨p, k, h⟩ := s.arrival_shape 4
    refine ⟨?_, ?_, ?_, fun x hx => ?_, fun hrun => ⟨fun hl => ?_, fun hl hb hcan hlat => ?_⟩⟩
    · rw [exec_registerWrite_reg hup v (by decide) (by decide), h]
      exact congrArg (fun x => Host.Outcome.next { s with power := p, counters := k, staged := { s.staged with pwrLimit := x }, cfgClean := false })
        (hfield 12 (by decide))
    · rw [exec_registerWrite_reg hup v (by decide) (by decide), h]
      exact congrArg (fun x => Host.Outcome.next { s with power := p, counters := k, staged := { s.staged with memMap := x }, cfgClean := false })
        (hfield 2 (by decide))
    · rw [exec_registerWrite_reg hup v (by decide) (by decide), h]
      exact congrArg (fun x => Host.Outcome.next { s with power := p, counters := k, staged := { s.staged with bound := x }, cfgClean := false })
        (hfield 1 (by decide))
    · rw [exec_registerWrite_reg hup v (by omega) (by omega), h, ← show _ = BitVec.ofNat 32 (v.toNat % 2 ^ 32) &&& 15 from hfield 4 (by decide)]
      have : x = 0 ∨ x = 1 ∨ x = 2 ∨ x = 3 := by omega
      rcases this with rfl | rfl | rfl | rfl <;> rfl
    · rw [exec_cfgCheck hrun]
      dsimp only
      rw [if_pos (.inl hl)]
    · rw [exec_cfgCheck hrun]
      dsimp only
      generalize (s.conflicts.take (bits d.desc 319 304)).flatMap Conflict.bytes = data
      by_cases hdata : data = []
      · subst hdata
        exact ⟨s, by rw [if_pos (.inr rfl)], rfl, rfl, rfl, SameOutside.refl _ _, rfl, rfl⟩
      · obtain ⟨m, e, k, hw, hread, hsame, -⟩ := s.hubWrite_spec (bits d.desc 383 320) data false hlat hcan.1
        refine ⟨{ s with mem := m, counters := k, dbg := { s.dbg with eccArmed := e } }, ?_, rfl, rfl, hread, hsame, rfl, rfl⟩
        rw [if_neg (by simp [hl, hdata]), if_neg (by simp [hb]), hw]
  · simp [exec, execCfgApplyDecision, hw, hup, hd, Nat.not_lt.mpr ht]
  · simp [exec, execCfgApplyDecision, hw, hup, hd, Nat.not_lt.mpr ht]
  · simp [exec, execCfgApplyCommit, hw, hup, hd, Nat.not_lt.mpr ht]
  · simp only [exec, execCfgApplyCommit, hw]
    rw [if_pos (by rcases hn with h | h <;> simp [h])]

end

section
/-! PROOFS. Entries of the groups: reads after updates. -/

namespace Sys2Proof.Machine

theorem list_set_getD_self {α : Type} (l : List α) (i : Nat) (d : α) : l.set i (l.getD i d) = l := by
  apply List.ext_getElem?
  intro j
  rw [List.getElem?_set]
  split
  case isTrue h =>
    subst h
    split
    case isTrue h => simp [List.getD_eq_getElem?_getD, h]
    case isFalse h => simp [Nat.le_of_not_lt h]
  case isFalse => rfl

theorem list_getD_set_self {α : Type} {l : List α} {i : Nat} (h : i < l.length) (x d : α) : (l.set i x).getD i d = x := by
  simp [List.getD_eq_getElem?_getD, h]

theorem list_getD_set_ne {α : Type} {i j : Nat} (h : j ≠ i) (l : List α) (x d : α) : (l.set i x).getD j d = l.getD j d := by
  simp [List.getD_eq_getElem?_getD, List.getElem?_set_ne (Ne.symm h)]

/-! ### Contexts -/

@[simp] theorem State.setCtx_ctx (s : State) (c : Nat) : s.setCtx c (s.ctx c) = s := by
  rw [State.setCtx, State.ctx, list_set_getD_self]

theorem State.ctx_setCtx_self {s : State} {c : Nat} (h : c < s.ctxs.length) (x : Ctx) : (s.setCtx c x).ctx c = x :=
  list_getD_set_self h x _

theorem State.ctx_setCtx_ne (s : State) {c d : Nat} (h : d ≠ c) (x : Ctx) : (s.setCtx c x).ctx d = s.ctx d :=
  list_getD_set_ne h s.ctxs x _

theorem State.ctx_of_ctxs {s t : State} (h : t.ctxs = s.ctxs) (c : Nat) : t.ctx c = s.ctx c := by
  rw [State.ctx, h, State.ctx]

theorem State.ctx_lt_of_live {s : State} {c : Nat} (h : (s.ctx c).live = true) : c < s.ctxs.length := by
  refine Nat.lt_of_not_le fun hn => ?_
  simp [State.ctx, List.getD_eq_getElem?_getD, List.getElem?_eq_none hn] at h

/-- A context that is beyond the last reads as one that does not exist. -/
theorem State.ctx_of_le {s : State} {c : Nat} (h : s.ctxs.length ≤ c) : s.ctx c = {} := by
  simp [State.ctx, List.getD_eq_getElem?_getD, List.getElem?_eq_none h]

/-! ### Cores -/

theorem State.core_setCore_self {s : State} {k : Nat} (h : k < s.cores.length) (y : Core) : (s.setCore k y).core k = y :=
  list_getD_set_self h y _

theorem State.core_setCore_ne (s : State) {k j : Nat} (h : j ≠ k) (y : Core) : (s.setCore k y).core j = s.core j :=
  list_getD_set_ne h s.cores y _

theorem State.core_of_cores {s t : State} (h : t.cores = s.cores) (k : Nat) : t.core k = s.core k := by
  rw [State.core, h, State.core]

end Sys2Proof.Machine
end

section
/-! PROOFS. Records, status lines and interrupts of one context. -/

namespace Sys2Proof.Machine

/-- A context with other sequence numbers and interrupt counts, and the same work. -/
def Ctx.Recorded (x y : Ctx) : Prop :=
  ∃ n r i o d, y = { x with nextCseq := n, reserved := r, irqCount := i, irqOldest := o, lineDirty := d }

theorem Ctx.Recorded.refl (x : Ctx) : x.Recorded x := ⟨_, _, _, _, _, rfl⟩

theorem Ctx.Recorded.trans {x y z : Ctx} (h : x.Recorded y) (h' : y.Recorded z) : x.Recorded z := by
  obtain ⟨n, r, i, o, d, rfl⟩ := h
  obtain ⟨n', r', i', o', d', rfl⟩ := h'
  exact ⟨n', r', i', o', d', rfl⟩

/-- A state after records of context c: packets, counts, pending interrupts and the numbers of c alone differ. -/
def RecordsOf (c : Nat) (s t : State) : Prop :=
  ∃ x k p y, t = { s with tx := x, counters := k, pba := p, ctxs := s.ctxs.set c y } ∧ (s.ctx c).Recorded y

theorem RecordsOf.refl (c : Nat) (s : State) : RecordsOf c s s :=
  ⟨s.tx, s.counters, s.pba, s.ctx c, by rw [State.ctx, list_set_getD_self], .refl _⟩

theorem RecordsOf.ctx_self {c : Nat} {s t : State} (h : RecordsOf c s t) : (s.ctx c).Recorded (t.ctx c) := by
  obtain ⟨x, k, p, y, rfl, hy⟩ := h
  by_cases hc : c < s.ctxs.length
  · have : State.ctx { s with tx := x, counters := k, pba := p, ctxs := s.ctxs.set c y } c = y := State.ctx_setCtx_self hc y
    rwa [this]
  · have : State.ctx { s with tx := x, counters := k, pba := p, ctxs := s.ctxs.set c y } c = s.ctx c := by
      rw [State.ctx_of_le (by simpa using hc), State.ctx_of_le (by simpa using hc)]
    rw [this]
    exact .refl _

theorem RecordsOf.ctx_ne {c d : Nat} {s t : State} (h : RecordsOf c s t) (hd : d ≠ c) : t.ctx d = s.ctx d := by
  obtain ⟨x, k, p, y, rfl, -⟩ := h
  exact State.ctx_setCtx_ne s hd y

theorem RecordsOf.trans {c : Nat} {s t u : State} (h : RecordsOf c s t) (h' : RecordsOf c t u) : RecordsOf c s u := by
  have hself := h.ctx_self
  obtain ⟨x, k, p, y, rfl, -⟩ := h
  obtain ⟨x', k', p', y', rfl, hy'⟩ := h'
  exact ⟨x', k', p', y', by simp, hself.trans hy'⟩

theorem recordsOf_writeLine (c : Nat) (s : State) : RecordsOf c s (s.writeLine c) := by
  unfold State.writeLine
  dsimp only
  split
  · exact .refl c s
  case h_2 b hb =>
    obtain ⟨t, h⟩ := s.hostStruct_shape b.cqBase (leBytes 64 ((s.ctx c).line s.now))
    rw [h]
    exact ⟨t, s.counters, s.pba, _, rfl, ⟨_, _, _, _, _, rfl⟩⟩

theorem recordsOf_considerIrq (c : Nat) (s : State) : RecordsOf c s (s.considerIrq c) := by
  unfold State.considerIrq
  dsimp only
  split
  case h_1 b t hb ht =>
    split
    · obtain ⟨x, k, p, h⟩ := State.sendMsix_shape (s.setCtx c { s.ctx c with irqCount := 0, irqOldest := none }) b.vector
      rw [h]
      exact ⟨x, k, p, _, rfl, ⟨_, _, _, _, _, rfl⟩⟩
    · exact .refl c s
  · exact .refl c s

theorem recordsOf_afterRecords (c : Nat) (s : State) : RecordsOf c s (s.afterRecords c) :=
  (recordsOf_writeLine c s).trans (recordsOf_considerIrq c _)

theorem recordsOf_putRecord (c : Nat) (m : Cmd) (status err item detail : Nat) (time : Tick) (s : State) :
    RecordsOf c s (s.putRecord c m status err item detail time) := by
  unfold State.putRecord
  dsimp only
  split
  · exact .refl c s
  case h_2 b hb =>
    generalize leBytes 32 _ = bs
    obtain ⟨t, h⟩ := s.hostStruct_shape (b.cqBase + 64 + 32 * ((s.ctx c).nextCseq.toNat % 2 ^ b.logNc)) bs
    rw [h]
    exact ⟨t, s.counters, s.pba, _, rfl, ⟨_, _, _, _, _, rfl⟩⟩

theorem recordsOf_count (c i n : Nat) (s : State) : RecordsOf c s (s.count i n) :=
  ⟨s.tx, _, s.pba, s.ctx c, by rw [State.ctx, list_set_getD_self]; rfl, .refl _⟩

theorem recordsOf_lastRecord (c : Nat) (m : Cmd) (status code : Nat) (s : State) : RecordsOf c s (s.lastRecord c m status code) :=
  (recordsOf_putRecord ..).trans (recordsOf_count ..)

theorem recordsOf_foldl {α : Type} {c : Nat} {f : State → α → State} (h : ∀ s x, RecordsOf c s (f s x)) (l : List α) (s : State) :
    RecordsOf c s (l.foldl f s) := by
  induction l generalizing s with
  | nil => exact .refl c s
  | cons x r ih => exact (h s x).trans (ih _)

/-- The records that the end of a teardown writes, before it drops the commands. -/
theorem State.teardownDone_eq {s : State} {c code status : Nat} {uid : Option Nat} (h : (s.ctx c).teardown = some (code, status, uid)) :
    ∃ u, RecordsOf c s u ∧ s.teardownDone c =
      ((u.setCtx c { u.ctx c with cmds := [], reserved := 0, teardown := none }).afterRecords c).message 0x03 0 c 0 false status 0 := by
  unfold State.teardownDone
  simp only [h]
  refine ⟨_, ?_, rfl⟩
  refine RecordsOf.trans ?_ (recordsOf_foldl (fun t m => ?_) _ _)
  · split
    · exact recordsOf_lastRecord ..
    · exact .refl c s
  · split
    · exact (recordsOf_putRecord ..).trans (recordsOf_count ..)
    · exact recordsOf_lastRecord ..

end Sys2Proof.Machine
end

section
/-! PROOFS. CREATE and DESTROY. -/

namespace Sys2Proof.Machine

/-! ### Teardown -/

/-- A context as a fault leaves it. -/
def Ctx.tornDown (x : Ctx) (code : Nat) (uid : Option Nat) : Ctx :=
  let kept := x.cmds.filter fun (m : Cmd) => m.active || uid == some m.uid
  { x with
    torn := true, halted := false, preempted := false, saving := false, dbgStopped := false, savedCores := [], lateNan := none, bufSlots := []
    sliceStart := none, armed := false, teardown := some (code, faultStatus code, uid)
    rings := (List.range x.rings.length).map fun r => x.rewind r
    cmds := kept, reserved := (kept.filter fun (m : Cmd) => m.phase != .trapped).length, lineDirty := true }

/-- A fault of a live context. -/
theorem State.faultCtx_eq {s : State} {c : Nat} (code : Nat) (uid : Option Nat) (h : (s.ctx c).alive = true) :
    ∃ m n q e r w, s.faultCtx c code uid = { s with
      mem := m, free := n, sessions := q, engines := e, reads := r, writes := w
      cores := s.cores.map (Core.leave c), ctxs := s.ctxs.set c ((s.ctx c).tornDown code uid) } := by
  unfold State.faultCtx
  dsimp only
  rw [h]
  simp only [Bool.not_true, Bool.false_eq_true, if_false]
  generalize (((s.ctx c).cmds.filter Cmd.active).flatMap _ ++ _ : List (Nat × Nat)) = outs
  obtain ⟨m, n, e, _, _⟩ := State.havoc_shape outs s
  rw [e]
  obtain ⟨m2, n2, q2, e2, _⟩ := State.dropSessions_shape { s with mem := m, free := n } fun q => q.ctx == c
  rw [e2]
  exact ⟨m2, n2, q2, _, _, _, rfl⟩

theorem State.faultCtx_ctx {s : State} {c : Nat} (code : Nat) (uid : Option Nat) (h : (s.ctx c).alive = true) :
    (s.faultCtx c code uid).ctx c = (s.ctx c).tornDown code uid := by
  have hlive : (s.ctx c).live = true := by simp only [Ctx.alive, Bool.and_eq_true] at h; exact h.1
  obtain ⟨m, n, q, e, r, w, he⟩ := State.faultCtx_eq code uid h
  rw [he]
  exact State.ctx_setCtx_self (State.ctx_lt_of_live hlive) _

/-- A context whose trapped command counts as started, with a slot for its record. -/
def Ctx.untrapped (x : Ctx) : Ctx :=
  { x with reserved := x.reserved + b2n x.halted
           cmds := x.cmds.map fun (m : Cmd) => if m.phase = .trapped then { m with phase := .started } else m }

theorem State.destroyFault_eq (s : State) (c : Nat) :
    s.destroyFault c = (s.setCtx c (s.ctx c).untrapped).faultCtx c 0x317 (s.ctx c).destroyedCmd := rfl

/-- DESTROY's fault: the trapped command counts as started. -/
theorem State.destroyFault_ctx {s : State} {c : Nat} (h : (s.ctx c).alive = true) :
    (((s.destroyFault c).ctx c).torn = true ∧ ((s.destroyFault c).ctx c).teardown = some (0x317, 3, (s.ctx c).destroyedCmd)) ∧
      (∀ m ∈ ((s.destroyFault c).ctx c).cmds, m.phase ≠ .trapped) ∧ (∀ e, e ≠ c → (s.destroyFault c).ctx e = s.ctx e) ∧
      (s.destroyFault c).ctxs.length = s.ctxs.length := by
  have hlive : (s.ctx c).live = true := by simp only [Ctx.alive, Bool.and_eq_true] at h; exact h.1
  have hc := State.ctx_lt_of_live hlive
  have hx := State.ctx_setCtx_self hc (s.ctx c).untrapped
  have halive : ((s.setCtx c (s.ctx c).untrapped).ctx c).alive = true := by
    rw [hx]
    exact h
  rw [State.destroyFault_eq, State.faultCtx_ctx _ _ halive, hx]
  refine ⟨⟨rfl, rfl⟩, fun m hm => ?_, fun e he => ?_, ?_⟩
  · obtain ⟨m', hm', rfl⟩ := List.mem_map.mp (List.mem_of_mem_filter hm)
    split
    case isTrue => exact nofun
    case isFalse ht => exact ht
  · rw [State.faultCtx_other _ _ _ _ _ he, State.ctx_setCtx_ne _ he]
  · obtain ⟨m, n, q, e, r, w, hf⟩ := State.faultCtx_eq 0x317 (s.ctx c).destroyedCmd halive
    rw [hf]
    simp

theorem State.destroyFault_shape (s : State) (c : Nat) :
    ∃ m n q y e r w x, s.destroyFault c =
      { s with mem := m, free := n, sessions := q, cores := y, engines := e, reads := r, writes := w, ctxs := x } := by
  obtain ⟨m, n, q, y, e, r, w, x, h, -⟩ := State.faultCtx_shape (s.setCtx c (s.ctx c).untrapped) c 0x317 (s.ctx c).destroyedCmd
  rw [State.destroyFault_eq, h]
  exact ⟨m, n, q, y, e, r, w, x, rfl⟩

/-! ### A core that a context has left -/

@[simp] theorem Core.strip_banks (y : Core) (who : Nat) : (y.strip who).banks = y.banks := by
  unfold Core.strip
  dsimp only
  split <;> rfl

@[simp] theorem Core.promote_banks (y : Core) : y.promote.banks = y.banks := by
  unfold Core.promote
  split <;> rfl

theorem Core.promote_spec (y : Core) (h : y.run = none) : y.promote.run = y.wait ∧ y.promote.wait = none ∧ y.promote.prev = y.prev := by
  unfold Core.promote
  cases hw : y.wait <;> simp [h, hw]

/-- No tile command and no bank of the context is left. -/
theorem Core.leave_spec (c : Nat) (y : Core) :
    (y.leave c).runsFor c = false ∧ (y.leave c).waitsFor c = false ∧ ∀ b ∈ (y.leave c).banks, b.owner ≠ some c := by
  have hbank (b : Bank) (hb : b ∈ y.banks.map (Bank.drop c)) : b.owner ≠ some c := by
    obtain ⟨b', -, rfl⟩ := List.mem_map.mp hb
    unfold Bank.drop
    split
    · exact nofun
    · assumption
  let y0 : Core := { y with banks := y.banks.map (Bank.drop c), slots := y.slots.filter fun q => q.who != 3 + c }
  let y1 : Core := if ofCtx c y0.prev then y0.strip 0 else y0
  let y2 : Core := if ofCtx c y1.wait then y1.strip 2 else y1
  have h1 : ofCtx c y1.prev = false ∧ y1.banks = y0.banks := by
    by_cases h : ofCtx c y0.prev = true
    · rw [show y1 = y0.strip 0 from if_pos h]
      exact ⟨rfl, rfl⟩
    · rw [show y1 = y0 from if_neg h]
      exact ⟨by simpa using h, rfl⟩
  have h2 : ofCtx c y2.wait = false ∧ y2.prev = y1.prev ∧ y2.banks = y1.banks := by
    by_cases h : ofCtx c y1.wait = true
    · rw [show y2 = y1.strip 2 from if_pos h]
      exact ⟨rfl, rfl, rfl⟩
    · rw [show y2 = y1 from if_neg h]
      exact ⟨by simpa using h, rfl, rfl⟩
  have hy : y.leave c = if ofCtx c y2.run then (y2.strip 1).promote else y2 := rfl
  rw [hy]
  split
  case isTrue h =>
    obtain ⟨hr, hw, hp⟩ := (y2.strip 1).promote_spec rfl
    refine ⟨?_, ?_, fun b hb => hbank b ?_⟩
    · rw [Core.runsFor, hr, hp, show (y2.strip 1).wait = y2.wait from rfl, show (y2.strip 1).prev = y2.prev from rfl, h2.1, h2.2.1, h1.1, Bool.or_self]
    · rw [Core.waitsFor, hw, ofCtx]
    · rw [Core.promote_banks, Core.strip_banks, h2.2.2, h1.2] at hb
      exact hb
  case isFalse h =>
    refine ⟨?_, h2.1, fun b hb => hbank b ?_⟩
    · rw [Core.runsFor, h2.2.1, h1.1, Bool.or_false]
      simpa using h
    · rw [h2.2.2, h1.2] at hb
      exact hb

/-! ### DESTROY -/

theorem State.opIs_up {s : State} {op c : Nat} (h : s.opIs op c = true) : s.up = true := by
  unfold State.opIs at h
  split at h
  · simp only [Bool.and_eq_true] at h
    exact h.1.1.1.1
  · cases h

/-- What is left of a DESTROY once no teardown is outstanding. -/
def State.released (s : State) (c : Nat) : State :=
  State.finishOp (State.setCtx (State.dropSessions { s with cores := s.cores.map (Core.leave c) } fun q => q.ctx == c) c {}) c 0

theorem State.released_spec {s : State} {c : Nat} (hc : c < s.ctxs.length) :
    (s.released c).opBusy = false ∧ (s.released c).opResult = 0 ∧ (s.released c).ctx c = {} ∧ (∀ e, e ≠ c → (s.released c).ctx e = s.ctx e) ∧
      (∀ y ∈ (s.released c).cores, y.runsFor c = false ∧ y.waitsFor c = false ∧ ∀ b ∈ y.banks, b.owner ≠ some c) ∧
      (∀ q ∈ (s.released c).sessions, q.ctx ≠ c) ∧ (s.released c).dbg = s.dbg ∧ (s.released c).boot = s.boot := by
  have hsess : (s.released c).sessions = s.sessions.filter fun q => !(q.ctx == c) := rfl
  obtain ⟨m, n, q, h, -⟩ := State.dropSessions_shape { s with cores := s.cores.map (Core.leave c) } fun q => q.ctx == c
  unfold State.released at hsess ⊢
  rw [h] at hsess ⊢
  refine ⟨rfl, rfl, State.ctx_setCtx_self hc {}, fun e he => State.ctx_setCtx_ne s he {}, fun y hy => ?_, fun q hq => ?_, rfl, rfl⟩
  · obtain ⟨y', -, rfl⟩ := List.mem_map.mp hy
    exact y'.leave_spec c
  · rw [hsess] at hq
    simpa using (List.mem_filter.mp hq).2

/-- DESTROY of a context that exists, with a slot for the record of its trapped command. -/
theorem exec_destroy {s : State} {c : Nat} (h : s.opIs 2 c = true) (hl : (s.ctx c).live = true)
    (hs : (s.ctx c).halted = false ∨ (s.ctx c).slotFree = true) :
    exec (.destroy c) s = .next (
      let u := if (s.ctx c).alive && (s.ctx c).anyActive then s.destroyFault c else s
      let w := if u.teardownReady c then u.teardownDone c else u
      if (w.ctx c).teardown.isSome then w else w.released c) := by
  have hwait : ((s.ctx c).halted && !(s.ctx c).slotFree) = false := by rcases hs with h | h <;> simp [h]
  simp only [exec, execDestroy, h, hl, hwait]
  rfl

/-- The end of a teardown changes of the contexts its own, and no debug register and no boot state. -/
theorem State.teardownDone_spec {s : State} {c code status : Nat} {uid : Option Nat} (h : (s.ctx c).teardown = some (code, status, uid))
    (hc : c < s.ctxs.length) :
    ((s.teardownDone c).ctx c).teardown = none ∧ (∀ e, e ≠ c → (s.teardownDone c).ctx e = s.ctx e) ∧
      (s.teardownDone c).ctxs.length = s.ctxs.length ∧ (s.teardownDone c).dbg = s.dbg ∧ (s.teardownDone c).boot = s.boot := by
  obtain ⟨u, hu, he⟩ := State.teardownDone_eq h
  let v := u.setCtx c { u.ctx c with cmds := [], reserved := 0, teardown := none }
  have hr : RecordsOf c v (v.afterRecords c) := recordsOf_afterRecords c v
  obtain ⟨t, g, k, p, hm⟩ := (v.afterRecords c).message_shape 0x03 0 c 0 false status 0
  have hlen : u.ctxs.length = s.ctxs.length := by
    obtain ⟨x, k, p, y, rfl, -⟩ := hu
    simp
  have hv : (v.ctx c).teardown = none := by
    rw [State.ctx_setCtx_self (hlen ▸ hc)]
  rw [he, hm]
  have hctx (e : Nat) : State.ctx { v.afterRecords c with tx := t, mgmt := g, counters := k, pba := p } e = (v.afterRecords c).ctx e := rfl
  refine ⟨?_, fun e hne => ?_, ?_, ?_, ?_⟩
  · rw [hctx]
    obtain ⟨n, r, i, o, d, hy⟩ := hr.ctx_self
    rw [hy]
    exact hv
  · rw [hctx, hr.ctx_ne hne, State.ctx_setCtx_ne _ hne, hu.ctx_ne hne]
  · obtain ⟨x, k, p, y, h', -⟩ := hr
    simp [h', v, hlen]
  · obtain ⟨x, k, p, y, h', -⟩ := hr
    obtain ⟨x', k', p', y', rfl, -⟩ := hu
    simp [h', v]
  · obtain ⟨x, k, p, y, h', -⟩ := hr
    obtain ⟨x', k', p', y', rfl, -⟩ := hu
    simp [h', v]

/-! ### CREATE -/

/-- A window table did not come whole. -/
def tableReadBad : HostData → Bool
  | .ok ws e => e || ws.length != 512
  | .failed => true


/-- The status line of a context goes to the start of its completion area. -/
theorem State.writeLine_sent {s : State} {c : Nat} {b : CtxBlock} (hb : (s.ctx c).blk = some b) (hup : s.hostUp = true) :
    s.writeLine c = { s with
      tx := s.tx ++ [.hostWrite b.cqBase (leBytes 64 ((s.ctx c).line s.now)) false false none]
      ctxs := s.ctxs.set c { s.ctx c with lineDirty := false } } := by
  unfold State.writeLine
  simp only [hb]
  rw [State.hostStruct, State.toHost_of_up hup]
  rfl

/-- The parts of a context block that CREATE read: header, rings, and the code of the first failed check. -/
def createRings (bs : List Byte) : List Nat := (List.range 8).map fun r => leNat ((bs.drop (128 + 16 * r)).take 16)

def State.createCodeOf (s : State) (bs : List Byte) : Nat :=
  s.createCode (leNat (bs.take 128)) (blockOf (leNat (bs.take 128))) ((createRings bs).map ringOf) (createRings bs)

section
variable {s : State} {c : Nat} {bs : List Byte} (wins : HostData) (h : s.opIs 1 c = true) (hup : s.hostUp = true) (hl : (s.ctx c).live = false)
include h hup hl

/-- The read of the block. -/
theorem exec_create_failed :
    exec (.create c .failed wins) s = .next (State.finishOp { s with tx := s.tx ++ [.hostRead s.opCb 256 none] } c 0x303) := by
  simp only [exec, execCreate, h, hup, hl, State.toHost_of_up hup, State.fetched]
  rfl

theorem exec_create_short {ep : Bool} (hbad : ep = true ∨ bs.length ≠ 256) :
    ∃ k, exec (.create c (.ok bs ep) wins) s =
      .next (State.finishOp { s with tx := s.tx ++ [.hostRead s.opCb 256 none], counters := k } c 0x303) := by
  have hcond : (ep || bs.length != 256) = true := by rcases hbad with h | h <;> simp [h]
  obtain ⟨k, hk⟩ := (s.send (.hostRead s.opCb 256 none)).received_shape bs.length
  refine ⟨k, ?_⟩
  simp only [exec, execCreate, h, hup, hl, State.toHost_of_up hup, State.fetched, hk, hcond]
  rfl

/-- The checks of a block of 256 bytes. -/
theorem exec_create_block (hlen : bs.length = 256) :
    exec (.create c (.ok bs false) wins) s = .next (
      let b := blockOf (leNat (bs.take 128))
      let u := (s.toHost (.hostRead s.opCb 256 none)).fetched (.ok bs false)
      let v := if b.hwinAddr = 0 then u else (u.toHost (.hostRead b.hwinAddr 512 none)).fetched wins
      if (b.hwinAddr != 0 && tableReadBad wins) = true then v.finishOp c 0x303
      else if (v.createCodeOf bs != 0) = true then v.finishOp c (v.createCodeOf bs)
      else State.finishOp (State.writeLine (v.setCtx c (newCtx b ((createRings bs).map ringOf) (if b.hwinAddr = 0 then [] else windowsOf wins))) c) c 0) := by
  simp only [exec, execCreate]
  rw [if_neg (by simp [h, hup]), if_neg (by simp [hl]), if_neg (by simp [hlen])]
  cases wins <;> rfl

end

/-- The state after the reads of a block and of its windows. -/
theorem State.create_reads {s : State} (hup : s.hostUp = true) (a b : Nat) (d wins : HostData) :
    ∃ k, (if b = 0 then (s.toHost (.hostRead a 256 none)).fetched d
        else (((s.toHost (.hostRead a 256 none)).fetched d).toHost (.hostRead b 512 none)).fetched wins) =
      { s with tx := s.tx ++ [.hostRead a 256 none] ++ (if b = 0 then [] else [.hostRead b 512 none]), counters := k } := by
  have hu : (s.toHost (.hostRead a 256 none)) = { s with tx := s.tx ++ [.hostRead a 256 none] } := State.toHost_of_up hup _
  obtain ⟨k, hk⟩ := State.fetched_shape { s with tx := s.tx ++ [.hostRead a 256 none] } d
  rw [hu, hk]
  split
  · exact ⟨k, by rw [List.append_nil]⟩
  · rw [State.toHost_of_up (by exact hup)]
    obtain ⟨k', hk'⟩ := State.fetched_shape (State.send { s with tx := s.tx ++ [.hostRead a 256 none], counters := k } (.hostRead b 512 none)) wins
    exact ⟨k', hk'⟩

end Sys2Proof.Machine

open Sys2Proof Sys2Proof.Machine

/-- Settles O23: CREATE by its reads and checks; DESTROY by the teardown of what has started and the release of the rest. -/
theorem createAndDestroy : Obligations.CreateAndDestroy := by
  refine ⟨fun s c bs wins h hup => ⟨fun hl => ?exists_, fun hl => ⟨exec_create_failed wins h hup hl, fun ep hbad => ?short, fun hlen => ?block⟩⟩,
    fun s c h hc => ⟨fun hl => ?absent, fun hl hh hs => ?wait, fun hl hs ht => ⟨fun hr => ?gone, fun hr hst => ?busy⟩⟩⟩
  case exists_ => simp [exec, execCreate, h, hup, hl]
  case short =>
    obtain ⟨k, hk⟩ := exec_create_short wins h hup hl hbad
    exact ⟨_, hk, rfl, rfl, rfl, rfl, rfl⟩
  case block =>
    obtain ⟨k, hk⟩ := State.create_reads hup s.opCb (blockOf (leNat (bs.take 128))).hwinAddr (.ok bs false) wins
    have hrow := exec_create_block wins h hup hl hlen
    dsimp only at hrow
    rw [hk] at hrow
    intro v b ringBits code
    refine ⟨fun hw hws => ⟨_, hrow.trans (congrArg _ (if_pos ?_)), rfl, rfl, rfl, rfl, rfl⟩, fun ws hws hw => ?_⟩
    · have hbad : tableReadBad wins = true := by
        cases wins with
        | failed => rfl
        | ok ws e =>
          cases e with
          | true => rfl
          | false => simpa [tableReadBad] using hws ws rfl
      simp [hw, hbad, b, v]
    · have hgood : ((blockOf (leNat (bs.take 128))).hwinAddr != 0 && tableReadBad wins) = false := by
        rcases hw with hw | rfl
        · simp [show (blockOf (leNat (bs.take 128))).hwinAddr = 0 from hw]
        · simp [tableReadBad, hws]
      have hwin : (if (blockOf (leNat (bs.take 128))).hwinAddr = 0 then [] else windowsOf wins) =
          if (blockOf (leNat (bs.take 128))).hwinAddr = 0 then [] else hwinsOf ws := by
        split
        · rfl
        case isFalse hz => rw [hw.resolve_left hz, windowsOf]
      rw [if_neg (by simp [hgood]), hwin] at hrow
      refine ⟨fun hcode => ⟨_, hrow.trans (congrArg _ (if_pos ?_)), rfl, rfl, rfl, rfl, rfl⟩, fun hcode hc => ?_⟩
      · exact bne_iff_ne.mpr hcode
      · rw [if_neg (by intro hn; exact bne_iff_ne.mp hn hcode)] at hrow
        let w : State := State.setCtx { s with
            tx := s.tx ++ [.hostRead s.opCb 256 none] ++ (if b.hwinAddr = 0 then [] else [.hostRead b.hwinAddr 512 none]), counters := k } c
          (newCtx b ((createRings bs).map ringOf) (if b.hwinAddr = 0 then [] else hwinsOf ws))
        have hself : w.ctx c = newCtx b ((createRings bs).map ringOf) (if b.hwinAddr = 0 then [] else hwinsOf ws) :=
          State.ctx_setCtx_self hc _
        have hline := State.writeLine_sent (s := w) (c := c) (b := b) (by rw [hself]; rfl) hup
        have hnew : ((w.writeLine c).finishOp c 0).ctx c = { newCtx b ((createRings bs).map ringOf) (if b.hwinAddr = 0 then [] else hwinsOf ws) with
            lineDirty := false } := by
          rw [hline, hself]
          exact State.ctx_setCtx_self (s := w) (by simpa [w] using hc) _
        refine ⟨(w.writeLine c).finishOp c 0, leBytes 64 ((w.ctx c).line w.now), hrow, rfl, rfl, ?_, ?_, ?_, ?_, ?_, ?_, ?_, ?_, fun e he => ?_, ?_, ?_, ?_⟩
        any_goals rw [hnew]; rfl
        · rw [hline]
          exact (State.ctx_setCtx_ne w he _).trans (State.ctx_setCtx_ne _ he _)
        all_goals
          rw [hline]
          rfl
  case absent => simp [exec, execDestroy, h, hl]
  case wait => simp [exec, execDestroy, h, hl, hh, hs]
  case gone =>
    by_cases hst : ((s.ctx c).alive && (s.ctx c).anyActive) = true
    · have hr' := hr.resolve_right (by simp [hst])
      obtain ⟨halive, -⟩ := Bool.and_eq_true_iff.mp hst
      obtain ⟨⟨-, htd⟩, htrap, hother, hlen⟩ := State.destroyFault_ctx halive
      obtain ⟨m, n, q, y, e, r, w, x, hsh⟩ := s.destroyFault_shape c
      have hready : (s.destroyFault c).teardownReady c = true := by
        have hup : (s.destroyFault c).up = true := by
          rw [hsh]
          exact State.opIs_up h
        have hremote : ((s.destroyFault c).remote.any fun q => q.ctx == c) = false := by rw [hsh]; exact hr'
        have hnone : (((s.destroyFault c).ctx c).cmds.any fun m => m.phase == .trapped) = false := by
          simpa [List.any_eq_false] using htrap
        simp only [State.teardownReady, hup, htd, hremote, hnone]
        simp
      obtain ⟨hnone, hkeep, hlen', hdbg, hboot⟩ := State.teardownDone_spec htd (hlen ▸ hc)
      obtain ⟨h1, h2, h3, h4, h5, h6, h7, h8⟩ := State.released_spec (s := (s.destroyFault c).teardownDone c) (hlen' ▸ hlen ▸ hc)
      refine ⟨_, ?_, h1, h2, h3, fun e he => ?_, h5, h6, ?_, ?_⟩
      · rw [exec_destroy h hl hs]
        simp only [hst, hready, hnone, if_true, Bool.false_eq_true, if_false, Option.isSome_none]
      · rw [h4 e he, hkeep e he, hother e he]
      · rw [h7, hdbg, hsh]
      · rw [h8, hboot, hsh]
    · have hready : s.teardownReady c = false := by simp [State.teardownReady, ht]
      refine ⟨s.released c, ?_, State.released_spec hc⟩
      rw [exec_destroy h hl hs]
      dsimp only
      simp only [hst, hready, ht, Bool.false_eq_true, if_false, Option.isSome_none]
  case busy =>
    obtain ⟨halive, -⟩ := Bool.and_eq_true_iff.mp hst
    obtain ⟨⟨htorn, htd⟩, -, hother, -⟩ := State.destroyFault_ctx halive
    obtain ⟨m, n, q, y, e, r, w, x, hsh⟩ := s.destroyFault_shape c
    have hready : (s.destroyFault c).teardownReady c = false := by
      simp only [State.teardownReady]
      rw [show (s.destroyFault c).remote = s.remote by rw [hsh], hr]
      simp
    refine ⟨s.destroyFault c, ?_, htorn, htd, by rw [hsh], hother⟩
    rw [exec_destroy h hl hs]
    dsimp only
    simp only [hst, hready, htd, if_true, Bool.false_eq_true, if_false, Option.isSome_some]

end

section
/-! PROOFS. Placement, slices, and the end of a teardown. -/

namespace Sys2Proof.Machine

/-! ### What placement reads of a context -/

section
variable {s t : State} {c : Nat} (hcmds : (t.ctx c).cmds = (s.ctx c).cmds)
include hcmds

theorem State.byUid_congr (u : Nat) : (t.ctx c).byUid u = (s.ctx c).byUid u := by
  rw [Ctx.byUid, hcmds, Ctx.byUid]

theorem State.jobOf_congr (u : Nat) (e : Option Nat) : t.jobOf c u e = s.jobOf c u e := by
  rw [State.jobOf, State.byUid_congr hcmds, State.jobOf]

theorem State.tileOf_congr (hblk : (t.ctx c).blk = (s.ctx c).blk) (u : Nat) (e : Option Nat) (n : Nat) : t.tileOf c u e n = s.tileOf c u e n := by
  rw [State.tileOf, State.jobOf_congr hcmds, Ctx.homeDie, hblk, State.tileOf, Ctx.homeDie]

end

/-- The context of a state whose list of contexts has this one entry replaced. -/
theorem State.ctx_of_set {s t : State} {c : Nat} {x : Ctx} (hc : c < s.ctxs.length) (h : t.ctxs = s.ctxs.set c x) :
    t.ctx c = x ∧ ∀ d, d ≠ c → t.ctx d = s.ctx d := by
  simp only [State.ctx, h]
  exact ⟨list_getD_set_self hc x _, fun d hd => list_getD_set_ne hd _ x _⟩

/-! ### The grant of a core -/

/-- A context that may hold a core: its slice may have begun. -/
theorem State.grantSlice_spec {s : State} {c : Nat} (h : (s.ctx c).bounded = true ∨ s.holds c = true ∨ (s.ctx c).debt < (s.ctx c).slice) :
    ∃ b l d, s.grantSlice c = ({ s with ctxs := s.ctxs.set c { s.ctx c with sliceStart := b, sliceLen := l, debt := d } }, true) := by
  have hself : s.ctxs.set c { s.ctx c with sliceStart := (s.ctx c).sliceStart, sliceLen := (s.ctx c).sliceLen, debt := (s.ctx c).debt } = s.ctxs :=
    list_set_getD_self s.ctxs c {}
  unfold State.grantSlice
  dsimp only
  split
  case isTrue => exact ⟨_, _, _, by rw [hself]⟩
  case isFalse hn =>
    simp only [Bool.or_eq_true, not_or] at hn
    have hlt : ¬ (s.ctx c).slice ≤ (s.ctx c).debt := by
      rcases h with h | h | h
      · exact absurd h hn.1
      · exact absurd h hn.2
      · omega
    rw [Ctx.beginSlice, if_neg hlt]
    exact ⟨_, _, _, rfl⟩

/-- A pre-empted context goes on; its status line tells. -/
theorem State.goOn_spec {s : State} {c : Nat} (hc : c < s.ctxs.length) :
    ∃ t d, s.goOn c = { s with tx := t, ctxs := s.ctxs.set c { s.ctx c with preempted := false, lineDirty := d } } := by
  unfold State.goOn
  dsimp only
  split
  case isTrue hp =>
    obtain ⟨x, k, p, y, h, hy⟩ := recordsOf_writeLine c (s.setCtx c { s.ctx c with preempted := false })
    unfold State.writeLine
    rw [State.ctx_setCtx_self hc]
    dsimp only
    split
    · exact ⟨_, _, rfl⟩
    case h_2 b hb =>
      obtain ⟨t, h⟩ := (s.setCtx c { s.ctx c with preempted := false }).hostStruct_shape b.cqBase
        (leBytes 64 (Ctx.line { s.ctx c with preempted := false } (s.setCtx c { s.ctx c with preempted := false }).now))
      rw [h]
      exact ⟨t, false, by simp [State.setCtx]⟩
  case isFalse hp =>
    have hx : { s.ctx c with preempted := false, lineDirty := (s.ctx c).lineDirty } = s.ctx c := by
      rw [← (Bool.not_eq_true _).mp hp]
    refine ⟨s.tx, (s.ctx c).lineDirty, ?_⟩
    rw [hx, State.ctx, list_set_getD_self]

/-- Both, of the winner of the dispatch. -/
theorem State.grant_spec {s : State} {c : Nat} (hc : c < s.ctxs.length)
    (h : (s.ctx c).bounded = true ∨ s.holds c = true ∨ (s.ctx c).debt < (s.ctx c).slice) :
    ((s.granted dispatchRes c).grantSlice c).2 = true ∧ ∃ t b l q d, ((s.granted dispatchRes c).grantSlice c).1.goOn c =
      { s with
        arb := (s.granted dispatchRes c).arb, tx := t
        ctxs := s.ctxs.set c { s.ctx c with sliceStart := b, sliceLen := l, debt := q, preempted := false, lineDirty := d } } := by
  obtain ⟨b, l, q, hg⟩ := State.grantSlice_spec (s := s.granted dispatchRes c) (c := c) h
  rw [hg]
  let u : State := { s.granted dispatchRes c with ctxs := s.ctxs.set c { s.ctx c with sliceStart := b, sliceLen := l, debt := q } }
  have hu : u.ctx c = { s.ctx c with sliceStart := b, sliceLen := l, debt := q } := list_getD_set_self hc _ _
  obtain ⟨t, d, h'⟩ := State.goOn_spec (s := u) (c := c) (by simpa [u] using hc)
  refine ⟨rfl, t, b, l, q, d, h'.trans ?_⟩
  rw [hu]
  simp [u, State.granted]

/-- A context that wins the dispatch with a core for what it has to place. -/
theorem exec_tilePlace_won {s : State} {c k : Nat} {r : Ready} (hr : s.toPlace c = some r)
    (hw : s.winner dispatchRes false ((List.range s.ctxs.length).filter s.competes) = some c) (hk : s.coreFor c r = some k)
    (hg : ((s.granted dispatchRes c).grantSlice c).2 = true) :
    exec (.tilePlace c) s = .next (match r with
      | .saved q => (((s.granted dispatchRes c).grantSlice c).1.goOn c).restore c k q
      | .tile u e n => (((s.granted dispatchRes c).grantSlice c).1.goOn c).placeTile c k u e n) := by
  simp only [exec, execTilePlace, hr, hw, hk, hg]
  cases r <;> simp

/-- What accepting a tile command does to a core. -/
theorem Core.accept_spec (y : Core) (t : TileCmd) :
    (y.run = none → (y.accept t).run = some t ∧ (y.accept t).wait = none) ∧
      (y.run ≠ none → y.accept t = { y with wait := some t, aheadFill := 0 }) := by
  unfold Core.accept
  constructor
  · intro h
    have hp := Core.promote_spec { y with wait := some t, aheadFill := 0 } h
    dsimp only
    rw [if_pos (by simp [h])]
    exact ⟨hp.1, hp.2.1⟩
  · intro h
    cases hr : y.run with
    | none => exact absurd hr h
    | some t' => rfl

/-- A state after a tile command went to core k. -/
def State.withTile (s : State) (c k : Nat) (m : Cmd) (t : TileCmd) : State :=
  ((s.setCore k ((s.core k).accept t)).putCmd c m).count (9584 + 6 * c + 1) 1

theorem State.placeTile_eq {s : State} {c k u : Nat} {e : Option Nat} {n : Nat} {m : Cmd} {t : TileCmd} (hm : (s.ctx c).byUid u = some m)
    (ht : s.tileOf c u e n = some t) : s.placeTile c k u e n = s.withTile c k (m.placed e n) t := by
  simp only [State.placeTile, hm, ht, State.withTile]

theorem State.withTile_spec {s : State} {c k : Nat} (m : Cmd) (t : TileCmd) (hc : c < s.ctxs.length) (hk : k < s.cores.length) :
    (s.withTile c k m t).core k = (s.core k).accept t ∧ OtherCoresKept s (s.withTile c k m t) k ∧ (s.withTile c k m t).mem = s.mem ∧
      (s.withTile c k m t).dieBuf = s.dieBuf ∧ (s.withTile c k m t).ctx c = (s.ctx c).putCmd m ∧
      ∀ d, d ≠ c → (s.withTile c k m t).ctx d = s.ctx d :=
  ⟨State.core_setCore_self hk _, fun _ hj => State.core_setCore_ne s hj _, rfl, rfl, State.ctx_setCtx_self hc _,
    fun _ hd => State.ctx_setCtx_ne s hd _⟩

/-- A saved core after its restore. -/
theorem State.restore_spec {s : State} {c k : Nat} (q : Saved) (hlat : s.mem.latent = []) (hc : c < s.ctxs.length) (hk : k < s.cores.length) :
    ((s.restore c k q).core k).run = q.state.run ∧ ((s.restore c k q).core k).prev = q.state.prev ∧
      ((s.restore c k q).core k).acc = (q.state.fromSlot s.mem ((s.ctx c).slotAddr q.core)).acc ∧
      (s.restore c k q).ctx c = { s.ctx c with savedCores := (s.ctx c).savedCores.erase q } ∧ OtherCoresKept s (s.restore c k q) k ∧
      (s.restore c k q).mem = s.mem ∧ (s.restore c k q).dieBuf = s.dieBuf ∧ ∀ d, d ≠ c → (s.restore c k q).ctx d = s.ctx d := by
  unfold State.restore
  dsimp only
  rw [State.settle_clean _ _ none hlat]
  obtain ⟨n, hn⟩ := s.carryFrom_shape [((s.ctx c).slotAddr q.core, slotBytes)] (k / 64)
  rw [hn]
  refine ⟨?_, ?_, ?_, State.ctx_setCtx_self (s := { s with counters := n }) hc _, fun j hj => State.core_setCore_ne s hj _, rfl, rfl,
    fun d hd => State.ctx_setCtx_ne s hd _⟩
  · exact (congrArg Core.run (list_getD_set_self hk _ _)).trans rfl
  · exact (congrArg Core.prev (list_getD_set_self hk _ _)).trans rfl
  · exact (congrArg Core.acc (list_getD_set_self hk _ _)).trans rfl

theorem Ctx.byUid_uid {x : Ctx} {u : Nat} {m : Cmd} (h : x.byUid u = some m) : m.uid = u := by
  simpa using List.find?_some h

theorem Cmd.placed_uid (m : Cmd) (e : Option Nat) (n : Nat) : (m.placed e n).uid = m.uid := by
  cases e <;> rfl

/-- Every command of that number is the one put. -/
theorem Ctx.eq_of_mem_putCmd {x : Ctx} {m y : Cmd} (h : y ∈ (x.putCmd m).cmds) (hu : y.uid = m.uid) : y = m := by
  obtain ⟨z, -, rfl⟩ := List.mem_map.mp h
  split
  · rfl
  case isFalse hn =>
    rw [if_neg hn] at hu
    exact absurd hu hn

/-! ### The end of a teardown -/

/-- The interrupt test changes of the context the interrupt counts alone, and may add a packet. -/
theorem State.considerIrq_spec (s : State) (c : Nat) : ∃ k p i o l, s.considerIrq c = { s with
    tx := s.tx ++ l, counters := k, pba := p, ctxs := s.ctxs.set c { s.ctx c with irqCount := i, irqOldest := o } } := by
  have hsame : ∃ k p i o l, s = { s with
      tx := s.tx ++ l, counters := k, pba := p, ctxs := s.ctxs.set c { s.ctx c with irqCount := i, irqOldest := o } } :=
    ⟨s.counters, s.pba, (s.ctx c).irqCount, (s.ctx c).irqOldest, [], by rw [List.append_nil, State.ctx, list_set_getD_self]⟩
  unfold State.considerIrq
  dsimp only
  split
  case h_1 b t hb ht =>
    split
    · unfold State.sendMsix
      split
      · exact ⟨s.counters, s.pba, 0, none, [], by rw [List.append_nil]; rfl⟩
      split
      · exact ⟨s.counters, _, 0, none, [], by rw [List.append_nil]; rfl⟩
      · exact ⟨_, s.pba, 0, none, _, rfl⟩
    · exact hsame
  · exact hsame

/-- After a group of records the status line is sent, and of the context the line and the interrupt counts alone differ. -/
theorem State.afterRecords_spec {s : State} {c : Nat} {b : CtxBlock} (hb : (s.ctx c).blk = some b) (hup : s.hostUp = true) :
    ∃ line, .hostWrite b.cqBase line false false none ∈ (s.afterRecords c).tx := by
  obtain ⟨k, p, i, o, l, h⟩ := (s.writeLine c).considerIrq_spec c
  refine ⟨leBytes 64 ((s.ctx c).line s.now), ?_⟩
  rw [State.afterRecords, h, State.writeLine_sent hb hup]
  simp

theorem State.afterRecords_reserved (s : State) {c : Nat} (hc : c < s.ctxs.length) :
    ((s.afterRecords c).ctx c).reserved = (s.ctx c).reserved := by
  have hline : ((s.writeLine c).ctx c).reserved = (s.ctx c).reserved ∧ (s.writeLine c).ctxs.length = s.ctxs.length := by
    unfold State.writeLine
    dsimp only
    split
    · exact ⟨rfl, rfl⟩
    case h_2 b hb =>
      obtain ⟨t, h⟩ := s.hostStruct_shape b.cqBase (leBytes 64 ((s.ctx c).line s.now))
      rw [h]
      refine ⟨?_, by simp⟩
      rw [State.ctx_setCtx_self (by exact hc)]
  obtain ⟨hres, hlen⟩ := hline
  obtain ⟨k, p, i, o, l, h⟩ := (s.writeLine c).considerIrq_spec c
  rw [State.afterRecords, h, (State.ctx_of_set (hlen ▸ hc) rfl).1]
  exact hres

/-! ### Slices -/

theorem exec_sliceExpiry_early {s : State} {c : Nat} {b : Tick} (hb : (s.ctx c).sliceStart = some b)
    (h : (s.ctx c).bounded = true ∨ s.now.toNat - b.toNat < (s.ctx c).sliceLen) : exec (.sliceExpiry c) s = .next s := by
  simp only [exec, execSliceExpiry, hb]
  rw [if_pos]
  rcases h with h | h <;> simp [h]

/-- The end of a slice. -/
theorem exec_sliceExpiry_due {s : State} {c : Nat} {b : Tick} (hb : (s.ctx c).sliceStart = some b) (hu : (s.ctx c).bounded = false) (hup : s.up = true)
    (hr : (s.ctx c).runs = true) (hh : s.holds c = true) (hl : (s.ctx c).sliceLen ≤ s.now.toNat - b.toNat) :
    exec (.sliceExpiry c) s = .next (
      if s.rival c then s.preemptCtx c
      else if (s.ctx c).slice ≤ (s.ctx c).debt then
        s.setCtx c { s.ctx c with sliceStart := some s.now, sliceLen := 0, debt := (s.ctx c).debt - (s.ctx c).slice }
      else s.setCtx c { s.ctx c with sliceStart := some s.now, sliceLen := (s.ctx c).slice - (s.ctx c).debt, debt := 0 }) := by
  simp only [exec, execSliceExpiry, hb]
  rw [if_neg (by simp [hu, hup, hr, hh, hl])]
  congr 2
  rw [Ctx.beginSlice]
  split <;> rfl

end Sys2Proof.Machine

open Sys2Proof Sys2Proof.Machine

/-- Settles O25: the grant of a core, then the placement of a tile command or the restore of a saved core. -/
theorem tilePlacement : Obligations.TilePlacement := by
  refine ⟨fun s c hr ha hruns hc => ?goOn, fun s c r hr hc => ⟨fun hw => ?loses, fun v hw hk hv => ?victim, fun k hw hk hlen hg => ?won⟩⟩
  case goOn =>
    obtain ⟨t, d, h⟩ := State.goOn_spec hc
    refine ⟨s.goOn c, by simp [exec, execTilePlace, hr, ha, hruns], ?_, by rw [h], by rw [h]⟩
    rw [h, (State.ctx_of_set hc rfl).1]
  case loses => simp [exec, execTilePlace, hr, hw]
  case victim => simp [exec, execTilePlace, hr, hw, hk, hv]
  case won =>
    obtain ⟨hgrant, t, b, l, q, d, hstate⟩ := State.grant_spec hc hg
    have hrow := exec_tilePlace_won hr hw hk hgrant
    refine ⟨fun u e n m tc hre hp hm ht => ?_, fun sv hre hlat => ?_⟩
    all_goals
      subst hre
      dsimp only at hrow
      rw [hstate] at hrow
      have hgo := State.ctx_of_set (t := { s with
        arb := (s.granted dispatchRes c).arb, tx := t
        ctxs := s.ctxs.set c { s.ctx c with sliceStart := b, sliceLen := l, debt := q, preempted := false, lineDirty := d } }) hc rfl
      generalize hu : ({ s with
        arb := (s.granted dispatchRes c).arb, tx := t
        ctxs := s.ctxs.set c { s.ctx c with sliceStart := b, sliceLen := l, debt := q, preempted := false, lineDirty := d } } : State) = w at hgo hrow
      obtain ⟨hself, hother⟩ := hgo
      have hcores : w.cores = s.cores := by rw [← hu]
      have hmem : w.mem = s.mem := by rw [← hu]
      have hbuf : w.dieBuf = s.dieBuf := by rw [← hu]
      have hcw : c < w.ctxs.length := by rw [← hu]; simpa using hc
      have hkw : k < w.cores.length := hcores ▸ hlen
    · have hcmds : (w.ctx c).cmds = (s.ctx c).cmds := by rw [hself]
      have hblk : (w.ctx c).blk = (s.ctx c).blk := by rw [hself]
      rw [State.placeTile_eq ((State.byUid_congr hcmds u).trans hm) ((State.tileOf_congr hcmds hblk u e n).trans ht)] at hrow
      obtain ⟨hcore, hcs, hm', hb', hctx, hcx⟩ := State.withTile_spec (m.placed e n) tc hcw hkw
      obtain ⟨hnone, hsome⟩ := (s.core k).accept_spec tc
      rw [State.core_of_cores hcores] at hcore
      refine ⟨_, hrow, fun h => ?_, fun h => ?_, fun j hj => ?_, hm'.trans hmem, hb'.trans hbuf, fun d hd => ?_, fun y hy hyu => ?_⟩
      · rw [hcore]
        exact hnone h
      · rw [hcore]
        exact hsome h
      · rw [hcs j hj, State.core_of_cores hcores]
      · rw [hcx d hd, hother d hd]
      · rw [hctx] at hy
        exact Ctx.eq_of_mem_putCmd hy (by rw [hyu, Cmd.placed_uid, Ctx.byUid_uid hm])
    · obtain ⟨hrun, hprev, hacc, hctx, hcs, hm', hb', hcx⟩ := State.restore_spec sv (hmem ▸ hlat) hcw hkw
      have hslot : (w.ctx c).slotAddr sv.core = (s.ctx c).slotAddr sv.core := by rw [hself]; rfl
      rw [hmem, hslot] at hacc
      refine ⟨_, hrow, hrun, hprev, hacc, ?_, ?_, fun j hj => ?_, hm'.trans hmem, hb'.trans hbuf, fun d hd => ?_⟩
      · rw [hctx, hself]
      · rw [hctx, hself]
      · rw [hcs j hj, State.core_of_cores hcores]
      · rw [hcx d hd, hother d hd]

/-- Settles O26: the branches of the end of a slice, and the records that end a teardown. -/
theorem sliceAndTeardown : Obligations.SliceAndTeardown := by
  refine ⟨fun s c b hb => ⟨exec_sliceExpiry_early hb, fun hu hup hr hh hl => ⟨fun hrv => ?_, fun hrv hd => ?_, fun hrv hd => ?_⟩⟩,
    fun s c => ⟨fun hn => ?early, fun code status uid b hready ht hb hc => ?ended⟩⟩
  · rw [exec_sliceExpiry_due hb hu hup hr hh hl, if_pos hrv]
  · rw [exec_sliceExpiry_due hb hu hup hr hh hl, if_neg (by simp [hrv]), if_neg (Nat.not_le.mpr hd)]
    rfl
  · rw [exec_sliceExpiry_due hb hu hup hr hh hl, if_neg (by simp [hrv]), if_pos hd]
    rfl
  case early => simp [exec, execTeardownComplete, hn]
  case ended =>
    obtain ⟨u, hu, he⟩ := State.teardownDone_eq ht
    obtain ⟨n, r, i, o, d, hself⟩ := hu.ctx_self
    have hlen : u.ctxs.length = s.ctxs.length := by
      obtain ⟨x, k, p, y, rfl, -⟩ := hu
      simp
    generalize hv : u.setCtx c { u.ctx c with cmds := [], reserved := 0, teardown := none } = v at he
    have hvlen : c < v.ctxs.length := by rw [← hv]; simpa [hlen] using hc
    have hvself : v.ctx c = { u.ctx c with cmds := [], reserved := 0, teardown := none } := by
      rw [← hv, State.ctx_setCtx_self (hlen ▸ hc)]
    have hr := recordsOf_afterRecords c v
    obtain ⟨n', r', i', o', d', hy⟩ := hr.ctx_self
    refine ⟨v.afterRecords c, by simp only [exec, execTeardownComplete, hready, if_true, he], ?_, ?_, ?_, ?_, fun e hne => ?_, ?_, ?_, fun hup => ?_⟩
    · rw [hy, hvself]
    · rw [State.afterRecords_reserved v hvlen, hvself]
    · rw [hy, hvself]
    · rw [hy, hvself, hself]
    · rw [hr.ctx_ne hne, ← hv, State.ctx_setCtx_ne _ hne, hu.ctx_ne hne]
    · obtain ⟨x, k, p, y, h', -⟩ := hr
      obtain ⟨x', k', p', y', rfl, -⟩ := hu
      rw [h', ← hv]
      rfl
    · obtain ⟨x, k, p, y, h', -⟩ := hr
      obtain ⟨x', k', p', y', rfl, -⟩ := hu
      rw [h', ← hv]
      rfl
    · refine State.afterRecords_spec (b := b) ?_ ?_
      · rw [hvself, hself]
        exact hb
      · obtain ⟨x', k', p', y', rfl, -⟩ := hu
        rw [← hv]
        exact hup

end

section
/-! PROOFS. Doorbells: polls, heads, tails, paused rings. -/

namespace Sys2Proof.Machine

/-! ### A poll -/

/-- The read of one context's doorbell line. -/
def State.pollLine (s : State) (c : Nat) : State :=
  match (s.ctx c).blk with
  | some b => if (s.ctx c).alive then (s.send (.hostRead b.dbAddr 64 none)).count 9581 1 else s
  | none => s

/-- The packets that the polls of some contexts send. -/
def State.pollReads (s : State) (cs : List Nat) : List Tx :=
  cs.filterMap fun c => if (s.ctx c).alive then (s.ctx c).blk.map fun b => .hostRead b.dbAddr 64 none else none

theorem State.pollLine_spec (s : State) (c : Nat) : ∃ k, s.pollLine c = { s with tx := s.tx ++ s.pollReads [c], counters := k } := by
  unfold State.pollLine
  cases hb : (s.ctx c).blk with
  | none => exact ⟨s.counters, by simp [State.pollReads, hb]⟩
  | some b =>
    by_cases ha : (s.ctx c).alive = true
    · exact ⟨_, by simp [State.pollReads, hb, ha, State.send, State.count]; rfl⟩
    · exact ⟨s.counters, by simp [State.pollReads, ha]⟩

theorem State.pollLines_spec (cs : List Nat) (s : State) :
    ∃ k, cs.foldl State.pollLine s = { s with tx := s.tx ++ s.pollReads cs, counters := k } := by
  induction cs generalizing s with
  | nil => exact ⟨s.counters, by simp [State.pollReads]⟩
  | cons c r ih =>
    obtain ⟨k, h⟩ := s.pollLine_spec c
    obtain ⟨k', h'⟩ := ih (s.pollLine c)
    refine ⟨k', ?_⟩
    rw [List.foldl_cons, h', h]
    have hsplit : s.pollReads (c :: r) = s.pollReads [c] ++ s.pollReads r := List.filterMap_append (l := [c]) (l' := r)
    rw [hsplit, ← List.append_assoc]
    rfl

/-- The read of the management line. -/
def State.mgmtReads (s : State) : List Tx := if s.mgmt.active then [.hostRead s.mgmt.base 64 none] else []

/-- The end of a poll, after the lines of the contexts. -/
def State.polled (s : State) : State :=
  let t := if s.mgmt.active then (s.send (.hostRead s.mgmt.base 64 none)).count 9581 1 else s
  { t.ltrUpdate with power := { t.ltrUpdate.power with polls := t.power.polls + 1 } }

theorem exec_doorbellPoll {s : State} (hup : s.hostUp = true) (hcur : s.power.cur ≠ 4) :
    ∃ l k p, exec .doorbellPoll s = .next { s with
      tx := s.tx ++ s.pollReads (List.range 64) ++ s.mgmtReads ++ l, counters := k, power := p } ∧
      p.polls = s.power.polls + 1 ∧ ∀ a n q, .hostRead a n q ∉ l := by
  obtain ⟨k, h⟩ := State.pollLines_spec (List.range 64) s
  let u : State := { s with tx := s.tx ++ s.pollReads (List.range 64), counters := k }
  have hm : ∃ k', (if u.mgmt.active then (u.send (.hostRead u.mgmt.base 64 none)).count 9581 1 else u) =
      { s with tx := s.tx ++ s.pollReads (List.range 64) ++ s.mgmtReads, counters := k' } := by
    unfold State.mgmtReads
    split
    · exact ⟨_, rfl⟩
    · exact ⟨k, by rw [List.append_nil]⟩
  obtain ⟨k', hm⟩ := hm
  generalize hv : ({ s with tx := s.tx ++ s.pollReads (List.range 64) ++ s.mgmtReads, counters := k' } : State) = v at hm
  have hltr : ∃ l w, v.ltrUpdate = { v with tx := v.tx ++ l, power := { v.power with ltrSent := w } } ∧ ∀ a n q, .hostRead a n q ∉ l := by
    unfold State.ltrUpdate
    split
    · exact ⟨[], v.power.ltrSent, by rw [List.append_nil], by simp⟩
    · exact ⟨_, _, rfl, by simp⟩
  obtain ⟨l, w, hl, hno⟩ := hltr
  have hrow : exec .doorbellPoll s = .next (if !s.hostUp || s.power.cur == 4 then s else State.polled
      ((List.range 64).foldl State.pollLine s)) := by
    show execDoorbellPoll s = _
    unfold execDoorbellPoll
    generalize List.range 64 = cs
    rfl
  refine ⟨l, k', { s.power with ltrSent := w, polls := s.power.polls + 1 }, ?_, rfl, hno⟩
  rw [hrow, if_neg (by simp [hup, hcur]), h]
  unfold State.polled
  rw [show (if u.mgmt.active then (u.send (.hostRead u.mgmt.base 64 none)).count 9581 1 else u) = v from hm]
  dsimp only
  rw [hl, ← hv]

/-! ### A line read -/

@[simp] theorem State.fetched_hostUp (s : State) (d : HostData) : (s.fetched d).hostUp = s.hostUp := by
  obtain ⟨k, h⟩ := s.fetched_shape d
  rw [h]
  rfl

@[simp] theorem State.fetched_ctx (s : State) (d : HostData) (c : Nat) : (s.fetched d).ctx c = s.ctx c := by
  obtain ⟨k, h⟩ := s.fetched_shape d
  rw [h]
  rfl

/-- What a line read at a poll leaves of ring r. -/
def Ring.polled (y : Ring) (line r : Nat) : Ring :=
  if y.en then (ringPoll y (lineTail line r) (bits line (288 + 8 * r + 7) (288 + 8 * r))).1 else y

theorem State.pollRing_spec {s : State} {c : Nat} (hc : c < s.ctxs.length) (line r : Nat) :
    ∃ p k t g q d, s.pollRing c line r = { s with
      power := p, counters := k, tx := t, mgmt := g, pba := q
      ctxs := s.ctxs.set c { (s.ctx c).setRing r (((s.ctx c).ring r).polled line r) with lineDirty := d } } := by
  unfold State.pollRing
  dsimp only
  split
  case isTrue hen =>
    refine ⟨s.power, s.counters, s.tx, s.mgmt, s.pba, (s.ctx c).lineDirty, ?_⟩
    have hself : ({ (s.ctx c).setRing r (((s.ctx c).ring r).polled line r) with lineDirty := (s.ctx c).lineDirty } : Ctx) = s.ctx c := by
      rw [Ring.polled, if_neg (by simpa using hen), Ctx.setRing, Ctx.ring, list_set_getD_self]
    rw [hself, State.ctx, list_set_getD_self]
  case isFalse hen =>
    have hy : ((s.ctx c).ring r).polled line r =
        (ringPoll ((s.ctx c).ring r) (lineTail line r) (bits line (288 + 8 * r + 7) (288 + 8 * r))).1 := if_pos (by simpa using hen)
    rw [hy]
    generalize ringPoll ((s.ctx c).ring r) (lineTail line r) (bits line (288 + 8 * r + 7) (288 + 8 * r)) = yb
    obtain ⟨y, bad⟩ := yb
    dsimp only
    generalize ((s.ctx c).lineDirty || y.paused != ((s.ctx c).ring r).paused || y.resumeByte != ((s.ctx c).ring r).resumeByte) = d
    have hw : ∃ p k, (if y.tail = ((s.ctx c).ring r).tail then s.setCtx c { (s.ctx c).setRing r y with lineDirty := d }
        else (s.setCtx c { (s.ctx c).setRing r y with lineDirty := d }).wake) =
        { s with power := p, counters := k, ctxs := s.ctxs.set c { (s.ctx c).setRing r y with lineDirty := d } } := by
      split
      · exact ⟨s.power, s.counters, rfl⟩
      · exact State.wake_shape _
    obtain ⟨p, k, hw⟩ := hw
    dsimp only at hw
    rw [hw]
    cases bad with
    | none => exact ⟨p, k, s.tx, s.mgmt, s.pba, d, rfl⟩
    | some t =>
      obtain ⟨t', g, k', q, hm⟩ := State.message_shape { s with power := p, counters := k, ctxs := s.ctxs.set c { (s.ctx c).setRing r y with lineDirty := d } }
        0x04 t.toNat c r false 0 0
      exact ⟨p, k', t', g, q, d, hm⟩

/-- A context whose rings of a list have been polled, in order. -/
def Ctx.polled (x : Ctx) (line : Nat) (rs : List Nat) : Ctx := rs.foldl (fun x r => x.setRing r ((x.ring r).polled line r)) x

theorem Ctx.polled_dirty (x : Ctx) (line : Nat) (d : Bool) (rs : List Nat) :
    ({ x with lineDirty := d } : Ctx).polled line rs = { x.polled line rs with lineDirty := d } := by
  induction rs generalizing x with
  | nil => rfl
  | cons r rs ih => exact ih (x.setRing r ((x.ring r).polled line r))

theorem Ctx.polled_keeps (x : Ctx) (line : Nat) (rs : List Nat) :
    ∃ l, l.length = x.rings.length ∧ x.polled line rs = { x with rings := l } := by
  induction rs generalizing x with
  | nil => exact ⟨x.rings, rfl, rfl⟩
  | cons r rs ih =>
    obtain ⟨l, hl, h⟩ := ih (x.setRing r ((x.ring r).polled line r))
    exact ⟨l, hl.trans (List.length_set ..), h⟩

theorem Ctx.ring_setRing_self {x : Ctx} {r : Nat} (h : r < x.rings.length) (y : Ring) : (x.setRing r y).ring r = y :=
  list_getD_set_self h y _

theorem Ctx.ring_setRing_ne (x : Ctx) {r q : Nat} (h : q ≠ r) (y : Ring) : (x.setRing r y).ring q = x.ring q :=
  list_getD_set_ne h x.rings y _

theorem Ctx.polled_ring_of_notMem (x : Ctx) (line : Nat) {r : Nat} {rs : List Nat} (hr : r ∉ rs) :
    (x.polled line rs).ring r = x.ring r := by
  induction rs generalizing x with
  | nil => rfl
  | cons q rs ih =>
    rw [List.mem_cons, not_or] at hr
    exact (ih _ hr.2).trans (Ctx.ring_setRing_ne x hr.1 _)

theorem Ctx.polled_ring {x : Ctx} (line : Nat) {r : Nat} {rs : List Nat} (hr : r ∈ rs) (hn : rs.Nodup) (hlen : r < x.rings.length) :
    (x.polled line rs).ring r = (x.ring r).polled line r := by
  induction rs generalizing x with
  | nil => cases hr
  | cons q rs ih =>
    rw [List.nodup_cons] at hn
    by_cases hq : r = q
    · subst hq
      exact (Ctx.polled_ring_of_notMem _ line hn.1).trans (Ctx.ring_setRing_self hlen _)
    · have hr' : r ∈ rs := (List.mem_cons.mp hr).resolve_left hq
      refine (ih hr' hn.2 (by simpa [Ctx.setRing] using hlen)).trans ?_
      rw [Ctx.ring_setRing_ne x hq]

theorem State.pollRings_spec {c : Nat} (line : Nat) (rs : List Nat) {s : State} (hc : c < s.ctxs.length) :
    ∃ p k t g q d, rs.foldl (fun s r => s.pollRing c line r) s = { s with
      power := p, counters := k, tx := t, mgmt := g, pba := q
      ctxs := s.ctxs.set c { (s.ctx c).polled line rs with lineDirty := d } } := by
  induction rs generalizing s with
  | nil => exact ⟨s.power, s.counters, s.tx, s.mgmt, s.pba, (s.ctx c).lineDirty, by
      rw [show ({ (s.ctx c).polled line [] with lineDirty := (s.ctx c).lineDirty } : Ctx) = s.ctx c from rfl, State.ctx, list_set_getD_self]; rfl⟩
  | cons r rs ih =>
    obtain ⟨p, k, t, g, q, d, h⟩ := State.pollRing_spec hc line r
    rw [List.foldl_cons, h]
    let u : State := { s with
      power := p, counters := k, tx := t, mgmt := g, pba := q
      ctxs := s.ctxs.set c { (s.ctx c).setRing r (((s.ctx c).ring r).polled line r) with lineDirty := d } }
    obtain ⟨p', k', t', g', q', d', h'⟩ := ih (s := u) (by simpa [u] using hc)
    refine ⟨p', k', t', g', q', d', h'.trans ?_⟩
    have hu : u.ctx c = { (s.ctx c).setRing r (((s.ctx c).ring r).polled line r) with lineDirty := d } := list_getD_set_self hc _ _
    rw [hu, Ctx.polled_dirty, show u.ctxs = s.ctxs.set c _ from rfl, List.set_set]
    rfl

/-- A doorbell line read for a context: its accepted head, and each of its rings polled. -/
theorem exec_doorbellRead_ctx {s : State} {c : Nat} {bs : List Byte} (hup : s.hostUp = true) (ha : (s.ctx c).alive = true)
    (hlen : bs.length = 64) (hc : c < s.ctxs.length) :
    ∃ p k t g q d, exec (.doorbellRead (.ctx c) (.ok bs false)) s = .next { s with
      power := p, counters := k, tx := t, mgmt := g, pba := q
      ctxs := s.ctxs.set c { (s.ctx c).polled (leNat bs) (List.range 8) with
        cqHead := headAccept (s.ctx c).cqHead (s.ctx c).nextCseq (BitVec.ofNat 32 (bits (leNat bs) 287 256)), lineDirty := d } } := by
  obtain ⟨k, hf⟩ := s.fetched_shape (.ok bs false)
  simp only [exec, execDoorbellRead]
  rw [if_neg (by simp [hup]), State.fetched_ctx, if_neg (by simp [ha, hlen]), hf]
  generalize headAccept (s.ctx c).cqHead (s.ctx c).nextCseq (BitVec.ofNat 32 (bits (leNat bs) 287 256)) = v
  generalize ((s.ctx c).lineDirty || v != (s.ctx c).cqHead) = d
  let u : State := { s with counters := k, ctxs := s.ctxs.set c { s.ctx c with cqHead := v, lineDirty := d } }
  obtain ⟨p', k', t', g', q', d', h⟩ := State.pollRings_spec (leNat bs) (List.range 8) (s := u) (c := c) (by simpa [u] using hc)
  refine ⟨p', k', t', g', q', d', congrArg _ (h.trans ?_)⟩
  have hu : u.ctx c = { s.ctx c with cqHead := v, lineDirty := d } := list_getD_set_self hc _ _
  rw [hu, show u.ctxs = s.ctxs.set c _ from rfl, List.set_set]
  obtain ⟨l, -, hl⟩ := Ctx.polled_keeps (s.ctx c) (leNat bs) (List.range 8)
  have hv : ({ s.ctx c with cqHead := v, lineDirty := d } : Ctx).polled (leNat bs) (List.range 8) = { s.ctx c with cqHead := v, lineDirty := d, rings := l } := by
    have hgen : ∀ (rs : List Nat) (x : Ctx), ({ x with cqHead := v, lineDirty := d } : Ctx).polled (leNat bs) rs =
        { x.polled (leNat bs) rs with cqHead := v, lineDirty := d } := by
      intro rs
      induction rs with
      | nil => exact fun x => rfl
      | cons r rs ih => exact fun x => ih (x.setRing r ((x.ring r).polled (leNat bs) r))
    rw [hgen, hl]
  rw [hv, hl]

/-- A paused ring goes on when its resume byte has changed since it was first read. -/
def Ring.resumed (y : Ring) (byte : Nat) : Ring :=
  if !y.paused then y
  else match y.resumeByte with
    | none => { y with resumeByte := some byte }
    | some b => if b = byte then y else { y with paused := false, resumeByte := none }

theorem Ring.resumed_spec (y : Ring) (byte : Nat) : ∃ p b, y.resumed byte = { y with paused := p, resumeByte := b } ∧
    (y.paused = true → p = match y.resumeByte with | none => true | some b => decide (b = byte)) := by
  unfold Ring.resumed
  split
  case isTrue hp => exact ⟨y.paused, y.resumeByte, rfl, fun h => by simp [h] at hp⟩
  case isFalse hp =>
    split
    · exact ⟨y.paused, some byte, rfl, fun h => h⟩
    next b hb =>
      split
      case isTrue hbb => exact ⟨y.paused, y.resumeByte, rfl, fun h => by simp [h, hbb]⟩
      case isFalse hbb => exact ⟨false, none, rfl, fun _ => by simp [hbb]⟩

theorem ringPoll_eq (y : Ring) (t : Word) (byte : Nat) : (ringPoll y t byte).1 =
    if (y.resumed byte).bad = some t then y.resumed byte
    else if tailOk (y.resumed byte).e t (y.resumed byte).logN then { y.resumed byte with tail := t, bad := none }
    else { y.resumed byte with bad := some t } := by
  unfold ringPoll
  rw [apply_ite Prod.fst, apply_ite Prod.fst]
  rfl

/-- What a poll leaves of an enabled ring: its tail, its bad value and its pause. -/
theorem Ring.polled_spec {y : Ring} (hen : y.en = true) (line r : Nat) :
    let v := lineTail line r
    (y.bad = some v → (y.polled line r).tail = y.tail ∧ (y.polled line r).bad = y.bad) ∧
    (y.bad ≠ some v → (v - y.e).toNat ≤ 2 ^ y.logN → (y.polled line r).tail = v ∧ (y.polled line r).bad = none) ∧
    (y.bad ≠ some v → 2 ^ y.logN < (v - y.e).toNat → (y.polled line r).tail = y.tail ∧ (y.polled line r).bad = some v) ∧
    (y.paused = true → (y.polled line r).paused =
      match y.resumeByte with | none => true | some b => decide (b = bits line (288 + 8 * r + 7) (288 + 8 * r))) ∧
    (y.polled line r).e = y.e := by
  intro v
  obtain ⟨p, b, hz, hpause⟩ := y.resumed_spec (bits line (288 + 8 * r + 7) (288 + 8 * r))
  rw [Ring.polled, if_pos hen, ringPoll_eq, hz]
  unfold tailOk
  dsimp only
  refine ⟨fun h => ?_, fun h h' => ?_, fun h h' => ?_, fun h => ?_, ?_⟩
  · rw [if_pos h]; exact ⟨rfl, rfl⟩
  · rw [if_neg h, if_pos (by simpa using h')]; exact ⟨rfl, rfl⟩
  · rw [if_neg h, if_neg (by simpa using h')]; exact ⟨rfl, rfl⟩
  · rw [← hpause h]
    split <;> [skip; split] <;> rfl
  · split <;> [skip; split] <;> rfl

/-! ### The management line -/

theorem State.sendMsix_mgmt (s : State) (v : Nat) : (s.sendMsix v).mgmt = s.mgmt := by
  obtain ⟨t, k, p, h⟩ := s.sendMsix_shape v
  rw [h]

theorem State.message_cqHead (s : State) (kind ref ctx ring : Nat) (mg : Bool) (code detail : Nat) :
    (s.message kind ref ctx ring mg code detail).mgmt.cqHead = s.mgmt.cqHead := by
  unfold State.message
  split
  · rfl
  · split
    · rw [State.putMessage]
      dsimp only
      rw [State.sendMsix_mgmt]
      rfl
    · rfl

theorem State.pollMgmt_cqHead (s : State) (line : Nat) :
    (s.pollMgmt line).mgmt.cqHead = headAccept s.mgmt.cqHead s.mgmt.mseq (BitVec.ofNat 32 (bits line 287 256)) := by
  unfold State.pollMgmt
  dsimp only
  generalize ringPoll _ _ _ = yb
  obtain ⟨y, bad⟩ := yb
  cases bad <;> dsimp only
  case none => split <;> [rfl; (obtain ⟨p, k, h⟩ := State.wake_shape _; rw [h])]
  case some t =>
    rw [State.message_cqHead]
    split <;> [rfl; (obtain ⟨p, k, h⟩ := State.wake_shape _; rw [h])]

end Sys2Proof.Machine
end

open Sys2Proof Sys2Proof.Machine

/-- Settles O27: what a poll reads, how a line read treats heads, tails and resume bytes, by `Ring.polled_spec`. -/
theorem doorbellRule : Obligations.DoorbellRule := by
  unfold Obligations.DoorbellRule
  refine ⟨fun s hup => ⟨fun h4 => ?_, fun h4 => ?_⟩, ⟨?_, ?_, fun b rings ws => rfl⟩, ?_⟩
  · simp only [exec, execDoorbellPoll]
    rw [if_pos (by simp [h4])]
  · obtain ⟨l, k, p, h, hp, hno⟩ := exec_doorbellPoll hup h4
    refine ⟨_, h, hp, rfl, rfl, rfl, fun c hc b hb ha => ?_, fun ht a n q hm => ?_⟩
    · have : (.hostRead b.dbAddr 64 none : Tx) ∈ s.pollReads (List.range 64) :=
        List.mem_filterMap.mpr ⟨c, List.mem_range.mpr hc, by simp [ha, hb]⟩
      simp [this]
    · simp only [ht, List.nil_append, List.mem_append, hno a n q, or_false] at hm
      rcases hm with hm | hm
      · obtain ⟨c, hc, hm⟩ := List.mem_filterMap.mp hm
        rw [List.mem_range] at hc
        split at hm
        case isTrue ha =>
          obtain ⟨b, hb, hm⟩ := Option.map_eq_some_iff.mp hm
          exact .inl ⟨c, hc, b, ha, hb, (Tx.hostRead.inj hm).1⟩
        case isFalse => cases hm
      · unfold State.mgmtReads at hm
        split at hm <;> simp_all
  · intro s c bs hup ha hlen hc h v
    obtain ⟨p, k, t, g, q, d, hx⟩ := exec_doorbellRead_ctx hup ha hlen hc
    obtain ⟨l, -, hl⟩ := Ctx.polled_keeps (s.ctx c) (leNat bs) (List.range 8)
    obtain ⟨hself, hother⟩ := State.ctx_of_set hc (t := { s with
      power := p, counters := k, tx := t, mgmt := g, pba := q
      ctxs := s.ctxs.set c { (s.ctx c).polled (leNat bs) (List.range 8) with
        cqHead := headAccept (s.ctx c).cqHead (s.ctx c).nextCseq (BitVec.ofNat 32 (bits (leNat bs) 287 256)), lineDirty := d } }) rfl
    refine ⟨_, hx, ?_, fun hv => ?_, fun hv => ?_, hother⟩
    · rw [hself, hl]
    · rw [hself]; exact if_pos hv
    · rw [hself]; exact if_neg (Nat.not_le_of_lt hv)
  · intro s bs hup hact hlen h v
    obtain ⟨k, hf⟩ := s.fetched_shape (.ok bs false)
    have hrow : exec (.doorbellRead .mgmt (.ok bs false)) s = .next (State.pollMgmt { s with counters := k } (leNat bs)) := by
      simp only [exec, execDoorbellRead]
      rw [if_neg (by simp [hup]), hf]
      dsimp only
      rw [if_pos (by simp [hact, hlen])]
    refine ⟨_, hrow, fun hv => ?_, fun hv => ?_⟩
    · rw [State.pollMgmt_cqHead]; exact if_pos hv
    · rw [State.pollMgmt_cqHead]; exact if_neg (Nat.not_le_of_lt hv)
  · intro s c r bs hup ha hlen hc hr hrl hen y v
    obtain ⟨p, k, t, g, q, d, hx⟩ := exec_doorbellRead_ctx hup ha hlen hc
    constructor
    · have hself := (State.ctx_of_set hc (t := { s with
        power := p, counters := k, tx := t, mgmt := g, pba := q
        ctxs := s.ctxs.set c { (s.ctx c).polled (leNat bs) (List.range 8) with
          cqHead := headAccept (s.ctx c).cqHead (s.ctx c).nextCseq (BitVec.ofNat 32 (bits (leNat bs) 287 256)), lineDirty := d } }) rfl).1
      have hring := Ctx.polled_ring (x := s.ctx c) (leNat bs) (List.mem_range.mpr hr) List.nodup_range hrl
      obtain ⟨h1, h2, h3, h4, h5⟩ := Ring.polled_spec hen (leNat bs) r
      refine ⟨_, hx, ?_⟩
      rw [hself, show Ctx.ring { (s.ctx c).polled (leNat bs) (List.range 8) with
          cqHead := headAccept (s.ctx c).cqHead (s.ctx c).nextCseq (BitVec.ofNat 32 (bits (leNat bs) 287 256)), lineDirty := d } r =
          ((s.ctx c).polled (leNat bs) (List.range 8)).ring r from rfl, hring]
      exact ⟨h1, h2, h3, h4, h5, rfl⟩
    · simp only [exec, execDoorbellRead, State.fetched, hup]
      rfl

section
/-! PROOFS. Fetched descriptors, completion records, interrupts. -/

namespace Sys2Proof.Machine

/-! ### A fetched descriptor -/

theorem Ctx.canFetch_of_nextRing {x : Ctx} {r : Nat} (h : x.nextRing = some r) : x.canFetch r = true := List.find?_some h

theorem Ctx.paused_of_canFetch {x : Ctx} {r : Nat} (h : x.canFetch r = true) : (x.ring r).paused = false := by
  unfold Ctx.canFetch at h
  simp only [Bool.and_eq_true, Bool.not_eq_true'] at h
  obtain ⟨⟨⟨⟨-, hp⟩, -⟩, -⟩, -⟩ := h
  exact hp

theorem Ctx.alive_of_runs {x : Ctx} (h : x.runs = true) : x.alive = true := by
  simp only [Ctx.runs, Ctx.alive, Bool.and_eq_true] at h ⊢
  simp_all

/-- What a descriptor in the turn of its ring adds to its context. -/
theorem Ctx.fetch_spec {x : Ctx} {r : Nat} (hr : r < x.rings.length) (d : Nat) :
    ∃ m, (x.fetch r d false).cmds = x.cmds ++ [m] ∧ (x.fetch r d false).reserved = x.reserved + 1 ∧ (x.fetch r d false).blk = x.blk ∧
      m.seq = BitVec.ofNat 32 (bits d 511 480) ∧ m.opcode = bits d 479 472 ∧ m.desc = d ∧ m.ring = r ∧
      m.phase = (if m.seq = (x.ring r).e then .fetched else .badSeq) ∧
      (x.fetch r d false).ring r = if m.seq = (x.ring r).e then { x.ring r with e := (x.ring r).e + 1 }
        else { x.ring r with paused := true, resumeByte := none } :=
  ⟨_, rfl, rfl, rfl, rfl, rfl, rfl, rfl, rfl, Ctx.ring_setRing_self hr _⟩

theorem exec_descriptorFetched_ctx {s : State} {c r : Nat} (d : HostData) (hup : s.hostUp = true) (hruns : (s.ctx c).runs = true)
    (hpre : (s.ctx c).preempted = false) (hnext : (s.ctx c).nextRing = some r) :
    exec (.descriptorFetched (.ctx c) r d) s = .next (
      let u := (s.send (.hostRead (slotOf ((s.ctx c).ring r).base ((s.ctx c).ring r).e ((s.ctx c).ring r).logN) 64 none)).fetched d
      match d with
      | .failed => u.faultCtx c 0x314 none
      | .ok bs ep => if bs.length != 64 then u else (u.setCtx c ((s.ctx c).fetch r (leNat bs) ep)).rereadLine c r) := by
  simp only [exec, execDescriptorFetched]
  rw [if_neg (by simp [hup]), if_neg (by simp [hruns, hpre, hnext])] <;> cases d <;> rfl

theorem exec_descriptorFetched_outOfTurn {s : State} {c r : Nat} (d : HostData)
    (h : (s.ctx c).nextRing ≠ some r ∨ (s.ctx c).runs = false) : exec (.descriptorFetched (.ctx c) r d) s = .next s := by
  simp only [exec, execDescriptorFetched]
  split
  · rfl
  · rw [if_pos]
    rcases h with h | h <;> simp [h]

end Sys2Proof.Machine
end

open Sys2Proof Sys2Proof.Machine

/-- Settles O28: a context's descriptor by `Ctx.fetch_spec`, the management ring's by its row. -/
theorem fetchRule : Obligations.FetchRule := by
  unfold Obligations.FetchRule
  constructor
  · intro s c r bs hup hlen x y seq read
    refine ⟨exec_descriptorFetched_outOfTurn _, fun hnext hruns hpre hc hr => ⟨fun b hb => ?_, ?_⟩⟩
    · obtain ⟨m, hcmds, hres, hblk, hseq, hop, hdesc, hring, hphase, hr'⟩ := Ctx.fetch_spec hr (leNat bs)
      rw [hseq] at hphase hr'
      have hpaused : (x.ring r).paused = false := Ctx.paused_of_canFetch (Ctx.canFetch_of_nextRing hnext)
      obtain ⟨k, hk⟩ := (s.send read).fetched_shape (.ok bs false)
      rw [exec_descriptorFetched_ctx _ hup hruns hpre hnext]
      dsimp only
      rw [hk, if_neg (by simp [hlen])]
      let z := x.fetch r (leNat bs) false
      let u : State := State.setCtx { s.send read with counters := k } c z
      have hu : u.ctx c = z := State.ctx_setCtx_self (s := { s.send read with counters := k }) hc z
      have hline : u.rereadLine c r = { u with tx := u.tx ++ if seq = y.e then [] else [.hostRead b.dbAddr 64 none] } := by
        unfold State.rereadLine
        rw [hu, show z.blk = some b from hblk.trans hb]
        dsimp only
        rw [show z.ring r = _ from hr']
        by_cases he : seq = y.e
        · rw [if_pos he, if_pos he, List.append_nil, if_neg]
          simp only [hpaused]
          exact Bool.false_ne_true
        · rw [if_neg he, if_neg he, if_pos rfl, State.toHost_of_up (s := u) hup]
          rfl
      refine ⟨z, m, k, congrArg _ (hline.trans ?_), hcmds, hres, hseq, hop, hdesc, hring, fun he => ?_, fun he => ?_⟩
      · simp [u, State.setCtx]
      · exact ⟨hphase.trans (if_pos he), hr'.trans (if_pos he)⟩
      · exact ⟨hphase.trans (if_neg he), hr'.trans (if_neg he)⟩
    · rw [exec_descriptorFetched_ctx _ hup hruns hpre hnext]
      exact ⟨_, rfl, State.faultCtx_torn (s.send read) _ 0x314 none (Ctx.alive_of_runs hruns)⟩
  · intro s r bs hup hlen hact hpaused hrun hfet hne hroom hseq
    obtain ⟨k, hk⟩ := (s.send (.hostRead (slotOf (s.mgmt.base + 4096) s.mgmt.e s.mgmt.logN) 64 none)).fetched_shape (.ok bs false)
    refine ⟨k, ?_⟩
    simp only [exec, execDescriptorFetched]
    rw [if_neg (by simp [hup]), if_neg (by simp [hact, hpaused, hrun, hfet, hne, hroom]), hk, if_neg (by simp [hlen]), if_pos hseq, hseq]
    rfl

section
/-! PROOFS. Completion records, interrupts and status lines. -/

namespace Sys2Proof.Machine

theorem State.putRecord_sent {s : State} {c : Nat} {b : CtxBlock} (hb : (s.ctx c).blk = some b) (hup : s.hostUp = true) (m : Cmd)
    (st err item detail : Nat) (time : Tick) : ∃ i o, s.putRecord c m st err item detail time = { s with
      tx := s.tx ++ [.hostWrite (b.cqBase + 64 + 32 * ((s.ctx c).nextCseq.toNat % 2 ^ b.logNc))
        (leBytes 32 (recordBits (s.ctx c).nextCseq m.seq time m st err item detail)) false false none]
      ctxs := s.ctxs.set c { s.ctx c with
        nextCseq := (s.ctx c).nextCseq + 1, reserved := (s.ctx c).reserved - 1, irqCount := i, irqOldest := o } } := by
  unfold State.putRecord
  simp only [hb]
  rw [State.hostStruct, State.toHost_of_up hup]
  exact ⟨_, _, rfl⟩

/-- The status line and the interrupt test after the records of a context change its numbers only. -/
theorem State.afterRecords_tail {s : State} {c : Nat} {b : CtxBlock} (hb : (s.ctx c).blk = some b) (hup : s.hostUp = true)
    (hc : c < s.ctxs.length) : ∃ l k p i o, s.afterRecords c = { s with
      tx := s.tx ++ l, counters := k, pba := p, ctxs := s.ctxs.set c { s.ctx c with lineDirty := false, irqCount := i, irqOldest := o } } := by
  rw [State.afterRecords, State.writeLine_sent hb hup]
  let u : State := { s with
    tx := s.tx ++ [.hostWrite b.cqBase (leBytes 64 ((s.ctx c).line s.now)) false false none]
    ctxs := s.ctxs.set c { s.ctx c with lineDirty := false } }
  have hu : u.ctx c = { s.ctx c with lineDirty := false } := list_getD_set_self hc _ _
  obtain ⟨k, p, i, o, l, h⟩ := u.considerIrq_spec c
  refine ⟨[.hostWrite b.cqBase (leBytes 64 ((s.ctx c).line s.now)) false false none] ++ l, k, p, i, o, h.trans ?_⟩
  rw [hu]
  simp [u]

theorem State.considerIrq_due {s : State} {c : Nat} {b : CtxBlock} {w : Tick} (hb : (s.ctx c).blk = some b)
    (hold : (s.ctx c).irqOldest = some w) (hdue : b.delay ≤ s.now.toNat - w.toNat ∨ b.count ≤ (s.ctx c).irqCount) :
    s.considerIrq c = State.sendMsix { s with ctxs := s.ctxs.set c { s.ctx c with irqCount := 0, irqOldest := none } } b.vector := by
  unfold State.considerIrq
  dsimp only
  split
  case h_1 b' w' hb' hold' =>
    obtain rfl := Option.some.inj (hb.symm.trans hb')
    obtain rfl := Option.some.inj (hold.symm.trans hold')
    rw [if_pos (by rcases hdue with h | h <;> simp [h])]
    rfl
  case h_2 hn => exact absurd hold (hn b w hb)

end Sys2Proof.Machine
end

open Sys2Proof Sys2Proof.Machine

/-- Settles O30: the record by `State.putRecord_sent`, the interrupt and the status line by their rows. -/
theorem recordsAndInterrupts : Obligations.RecordsAndInterrupts := by
  unfold Obligations.RecordsAndInterrupts
  refine ⟨?_, fun s c b w hup ha hb => ⟨?_, fun hnone => ?_, fun hd => ?_, fun hd => ?_⟩⟩
  · intro s c i m b w hm hph hup ha hturn hb x
    have hlive : (s.ctx c).live = true := by simp only [Ctx.alive, Bool.and_eq_true] at ha; exact ha.1
    have hc := State.ctx_lt_of_live hlive
    obtain ⟨n, o, hput⟩ := State.putRecord_sent hb hup m 0 0 0 0 w
    let y : Ctx := { s.ctx c with nextCseq := x.nextCseq + 1, reserved := x.reserved - 1, irqCount := n, irqOldest := o }
    let z : Ctx := { y with cmds := x.cmds.filter fun q => q.uid != m.uid }
    let u : State := { s with
      tx := s.tx ++ [.hostWrite (b.cqBase + 64 + 32 * (x.nextCseq.toNat % 2 ^ b.logNc))
        (leBytes 32 (recordBits x.nextCseq m.seq w m 0 0 0 0)) false false none]
      ctxs := s.ctxs.set c y }
    have hu : u.ctx c = y := list_getD_set_self hc _ _
    let v : State := (u.setCtx c z).count (9584 + 6 * c) 1
    have hv : v.ctx c = z := State.ctx_setCtx_self (s := u) (by simpa [u] using hc) z
    obtain ⟨l, k, p, n', o', htail⟩ := State.afterRecords_tail (s := v) (c := c) (by rw [hv]; exact hb) hup (by simpa [v, u] using hc)
    have hrow : exec (.completionRecordWrite c i) s = .next (v.afterRecords c) := by
      simp only [exec, execCompletionRecordWrite, hm]
      rw [if_neg (by simp [hup, ha, hturn])]
      simp only [Ctx.recordOf, hph]
      rw [hput]
      show Host.Outcome.next (((u.setCtx c { u.ctx c with cmds := (u.ctx c).cmds.filter fun q => q.uid != m.uid }).count (9584 + 6 * c) 1).afterRecords c) = _
      rw [hu]
    obtain ⟨hself, hother⟩ := State.ctx_of_set (s := v) (t := v.afterRecords c) (c := c) (by simpa [v, u] using hc) (by rw [htail])
    rw [hv] at hself
    refine ⟨_, l, hrow, ?_, ?_, ?_, ?_, fun e he => ?_, ?_, ?_⟩
    · rw [htail]; simp [v, u]
    · rw [hself]
    · rw [hself]
    · rw [hself]
    · rw [hother e he, show v.ctx e = (u.setCtx c z).ctx e from rfl, State.ctx_setCtx_ne _ he, (State.ctx_of_set (s := s) (t := u) hc rfl).2 e he]
    · rw [htail]; rfl
    · rw [htail]; rfl
  · intro hold hdue u
    have hrow : exec (.irqDelayExpiry c) s = .next (u.sendMsix b.vector) := by
      simp only [exec, execIrqDelayExpiry]
      rw [if_pos (by simp [hup, ha]), State.considerIrq_due hb hold hdue]
    rw [hrow, State.sendMsix, if_neg (show ¬ (!u.hostUp) = true by simp [show u.hostUp = true from hup])]
    refine ⟨fun hmask => ?_, fun hmask => ?_⟩
    · rw [if_neg (show ¬ (u.msixWord (b.vector * 4 + 3)).toNat % 2 = 1 from fun h => by rw [show u.msixWord _ = s.msixWord _ from rfl] at h; omega)]
      exact ⟨_, rfl⟩
    · rw [if_pos (show (u.msixWord (b.vector * 4 + 3)).toNat % 2 = 1 from hmask)]
  · simp only [exec, execIrqDelayExpiry, State.considerIrq, hnone, hb]
    rw [ite_self]
  · have hlive : (s.ctx c).live = true := by simp only [Ctx.alive, Bool.and_eq_true] at ha; exact ha.1
    simp only [exec, execStatusLineRefresh]
    rw [if_pos (by simp [hup, hlive, hd]), State.writeLine_sent hb hup]
  · simp only [exec, execStatusLineRefresh]
    rw [if_neg (by simp [hd])]

section
/-! PROOFS. One command of a context changes. -/

namespace Sys2Proof.Machine

/-- The commands with a number, changed by a function. -/
def Ctx.mapCmd (x : Ctx) (u : Nat) (f : Cmd → Cmd) : Ctx := { x with cmds := x.cmds.map fun m => if m.uid = u then f m else m }

theorem State.finish_eq (s : State) (c u : Nat) :
    s.finish c u = s.setCtx c ((s.ctx c).mapCmd u fun m => { m with phase := .written s.now }) := rfl

theorem Ctx.cmd?_mapCmd (x : Ctx) (u : Nat) (f : Cmd → Cmd) (i : Nat) :
    (x.mapCmd u f).cmd? i = (x.cmd? i).map fun m => if m.uid = u then f m else m := by
  simp [Ctx.cmd?, Ctx.mapCmd]

/-- Two changes of the commands of one number. -/
theorem Ctx.mapCmd_mapCmd (x : Ctx) (u : Nat) {f : Cmd → Cmd} (g : Cmd → Cmd) (hf : ∀ m, m.uid = u → (f m).uid = u) :
    (x.mapCmd u f).mapCmd u g = x.mapCmd u fun m => g (f m) := by
  unfold Ctx.mapCmd
  simp only [List.map_map]
  congr 1
  apply List.map_congr_left
  intro m _
  by_cases h : m.uid = u
  · simp [h, hf m h]
  · simp [h]

/-- A context that does not exist has no command to change. -/
theorem State.ctx_mapCmd {s t : State} {c u : Nat} {f : Cmd → Cmd} (h : t.ctxs = s.ctxs.set c ((s.ctx c).mapCmd u f)) :
    t.ctx c = (s.ctx c).mapCmd u f ∧ ∀ d, d ≠ c → t.ctx d = s.ctx d := by
  by_cases hc : c < s.ctxs.length
  · exact State.ctx_of_set hc h
  · have hs := State.ctx_of_le (Nat.le_of_not_lt hc)
    have ht : t.ctxs = s.ctxs := h.trans (List.set_eq_of_length_le (Nat.le_of_not_lt hc))
    refine ⟨?_, fun d _ => State.ctx_of_ctxs ht d⟩
    rw [State.ctx_of_ctxs ht c, hs]
    rfl

/-- A change of the commands with one number keeps all others. -/
theorem otherCommandsKept_of_mapCmd {s t : State} {c u : Nat} {f : Cmd → Cmd} (h : t.ctxs = s.ctxs.set c ((s.ctx c).mapCmd u f)) :
    OtherCommandsKept s t c u := by
  obtain ⟨hself, hother⟩ := State.ctx_mapCmd h
  refine ⟨hother, fun i m hm hu => ?_⟩
  rw [hself, Ctx.cmd?_mapCmd, hm, Option.map_some, if_neg hu]

/-- What the changed commands are. -/
theorem mem_cmds_of_mapCmd {s t : State} {c u : Nat} {f : Cmd → Cmd} (h : t.ctxs = s.ctxs.set c ((s.ctx c).mapCmd u f))
    {y : Cmd} (hy : y ∈ (t.ctx c).cmds) (hu : y.uid = u) : ∃ m ∈ (s.ctx c).cmds, m.uid = u ∧ y = f m := by
  rw [(State.ctx_mapCmd h).1] at hy
  obtain ⟨m, hm, hmy⟩ := List.mem_map.mp hy
  by_cases hmu : m.uid = u
  · rw [if_pos hmu] at hmy
    exact ⟨m, hm, hmu, hmy.symm⟩
  · rw [if_neg hmu] at hmy
    exact absurd (hmy ▸ hu) hmu

theorem finished_of_mapCmd {s t : State} {c u : Nat} {f : Cmd → Cmd} {w : Tick}
    (h : t.ctxs = s.ctxs.set c ((s.ctx c).mapCmd u f)) (hf : ∀ m, (f m).phase = .written w) : t.Finished c u w := by
  intro y hy hu
  obtain ⟨m, -, -, rfl⟩ := mem_cmds_of_mapCmd h hy hu
  exact hf m

/-- A finished command. -/
theorem State.finish_spec {s t : State} {c u : Nat} (h : t.ctxs = s.ctxs) :
    (t.finish c u).Finished c u t.now ∧ OtherCommandsKept s (t.finish c u) c u := by
  have hset : (t.finish c u).ctxs = s.ctxs.set c ((s.ctx c).mapCmd u fun m => { m with phase := .written t.now }) := by
    rw [State.finish_eq, State.setCtx_ctxs, h, State.ctx_of_ctxs h]
  exact ⟨finished_of_mapCmd hset fun _ => rfl, otherCommandsKept_of_mapCmd hset⟩

/-- A command of another phase. -/
theorem State.setPhase_spec {s t : State} {c u : Nat} {p : Phase} (h : t.ctxs = (s.setPhase c u p).ctxs) :
    (∀ y ∈ (t.ctx c).cmds, y.uid = u → y.phase = p) ∧ OtherCommandsKept s t c u := by
  have hset : t.ctxs = s.ctxs.set c ((s.ctx c).mapCmd u fun m => { m with phase := p }) := h
  refine ⟨fun y hy hu => ?_, otherCommandsKept_of_mapCmd hset⟩
  obtain ⟨m, -, -, rfl⟩ := mem_cmds_of_mapCmd hset hy hu
  rfl

/-- A change of a command's phase leaves whether its context lives. -/
theorem State.setPhase_alive (s : State) (c u : Nat) (p : Phase) : ((s.setPhase c u p).ctx c).alive = (s.ctx c).alive := by
  rw [(State.ctx_mapCmd (t := s.setPhase c u p) (f := fun m => { m with phase := p }) rfl).1]
  rfl

theorem State.alive_of_ready {s : State} {c : Nat} (h : s.ready c = true) : (s.ctx c).alive = true := by
  simp only [State.ready, Bool.and_eq_true] at h
  exact Ctx.alive_of_runs h.1.2

theorem State.remoteReq_sent {s : State} {dev : Nat} (h : s.routeOk dev = true) (w : Asker) (a : Nat) (p : Nat → Tx) (kind : Answer)
    (dst n : Nat) (last : Bool) (slip : Option (Nat × Nat)) (row : Nat) :
    ∃ q k, s.remoteReq w dev a p kind dst n last slip row = { s with
      tx := s.tx ++ [p (s.portTo dev a)], counters := k, remote := s.remote ++ [q] } := by
  rw [State.remoteReq, if_pos h]
  exact ⟨_, _, rfl⟩

/-! ### Fences -/

theorem exec_fenceRing {s : State} {c i : Nat} {m : Cmd} (h : s.Holds c i m (.fence false)) :
    exec (.fenceRing (.ctx c) i) s = .next (if s.ready c && (s.ctx c).allEarlier i m then s.finish c m.uid else s) := by
  simp only [exec, execFenceRing, h.1, h.2]

theorem exec_fenceContext {s : State} {c i : Nat} {m : Cmd} (h : s.Holds c i m (.fence true)) :
    exec (.fenceContext c i) s = .next (if s.ready c && ((s.ctx c).cmds.take i).all Cmd.finished then s.finish c m.uid else s) := by
  simp only [exec, execFenceContext, h.1, h.2]

/-! ### Timestamps -/

theorem exec_timestamp {s : State} {c i : Nat} {m : Cmd} {addr : Nat} {host : Bool} (h : s.Holds c i m (.stamp addr host))
    (hr : s.ready c = true) (he : (s.ctx c).allEarlier i m = true) (hp : m.phase = .checked) :
    exec (.timestamp (.ctx c) i) s = .next (
      let bs := leBytes 8 s.now.toNat
      if host then (s.toHost (.hostWrite addr bs false false ((winFor (s.ctx c).hwins addr 8 true).bind HWin.tag))).finish c m.uid
      else match s.place addr with
        | .here y => (s.hubWrite y bs false).finish c m.uid
        | .there dev y => (s.setPhase c m.uid .started).remoteReq { ctx := c, uid := m.uid } dev y (fun p => .roligWrite p dev y bs false) .written 0 8 true
        | .nowhere => s) := by
  simp only [exec, execTimestamp, h.1, h.2]
  rw [if_neg (by simp [hr, he, hp])] <;> cases host <;> cases s.place addr <;> rfl

theorem exec_timestamp_mgmt {s : State} {i : Nat} {d : MgmtDesc} (hrun : s.mgmt.running = some d) (haw : s.awake = true)
    (hop : d.opcode = 0x13) (hw : d.waiting = false) :
    exec (.timestamp .mgmt i) s = .next (
      let addr := bits d.desc 383 320
      let bs := leBytes 8 s.now.toNat
      if bit1 d.desc 319 then
        (s.toHost (.hostWrite addr bs false false ((winFor s.mgmt.wins addr 8 true).bind HWin.tag))).mgmtDone 0 0
      else match s.place addr with
        | .here x => (s.hubWrite x bs false).mgmtDone 0 0
        | .there dev x =>
          if !s.routeOk dev then s.mgmtDone 0x315 0
          else State.remoteReq { s with mgmt := { s.mgmt with running := some { d with waiting := true } } } { ctx := mgmtCtx, uid := 0 } dev x
            (fun p => .roligWrite p dev x bs false) .written 0 8 true
        | .nowhere => s.mgmtDone 0x0202 0) := by
  unfold exec
  dsimp only
  unfold execTimestamp
  dsimp only
  split
  case h_1 hn => rw [hn] at hrun; cases hrun
  case h_2 d' hd =>
    obtain rfl := Option.some.inj (hd.symm.trans hrun)
    rw [if_neg (by simp [haw, hop, hw])] <;> cases s.place (bits d'.desc 383 320) <;> rfl

end Sys2Proof.Machine
end

open Sys2Proof Sys2Proof.Machine

/-- Settles O31: each row in its turn, by `State.finish_spec`, `State.hubWrite_spec` and `State.remoteReq_sent`. -/
theorem fenceAndTimestamp : Obligations.FenceAndTimestamp := by
  unfold Obligations.FenceAndTimestamp
  refine ⟨fun s c i m hr => ⟨fun h => ?_, fun h => ?_, fun d hd hop => ?_⟩, fun s c i m addr hr he hp => ⟨fun a h hpl hw hl => ?_, fun d a h hpl hroute => ?_, fun h hup => ?_⟩, ?_⟩
  · rw [exec_fenceRing h]
    refine ⟨fun he => ⟨_, rfl, ?_⟩, fun he => by simp [he]⟩
    rw [if_pos (by simp [hr, he])]
    exact ⟨(State.finish_spec rfl).1, (State.finish_spec rfl).2, rfl⟩
  · rw [exec_fenceContext h]
    refine ⟨fun he => ⟨_, rfl, ?_⟩, fun he => by simp [he]⟩
    rw [if_pos (by simp only [hr, he]; rfl)]
    exact ⟨(State.finish_spec rfl).1, (State.finish_spec rfl).2, rfl⟩
  · have haw : s.awake = true := by
      simp only [State.ready, Bool.and_eq_true] at hr
      exact hr.1.1
    simp only [exec, execFenceRing, hd]
    rw [if_pos (by simp [haw, hop])]
  · obtain ⟨mem, e, k, hm, hread, hout, -⟩ := s.hubWrite_spec a (leBytes 8 s.now.toNat) false hl hw.1
    rw [exec_timestamp h hr he hp]
    dsimp only
    rw [if_neg Bool.false_ne_true, hpl]
    dsimp only
    rw [hm]
    rw [leBytes_length] at hread hout
    let u : State := { s with mem := mem, counters := k, dbg := { s.dbg with eccArmed := e } }
    exact ⟨u.finish c m.uid, rfl, hread, hout, (State.finish_spec (s := s) (t := u) rfl).1, (State.finish_spec (s := s) (t := u) rfl).2, rfl⟩
  · obtain ⟨q, k, hq⟩ := State.remoteReq_sent (s := s.setPhase c m.uid .started) hroute { ctx := c, uid := m.uid } a
      (fun p => .roligWrite p d a (leBytes 8 s.now.toNat) false) .written 0 8 true none 0
    rw [exec_timestamp h hr he hp]
    dsimp only
    rw [if_neg Bool.false_ne_true, hpl]
    dsimp only
    rw [hq]
    exact ⟨_, rfl, rfl, List.length_append, rfl, (State.setPhase_spec (s := s) rfl).1⟩
  · rw [exec_timestamp h hr he hp]
    dsimp only
    rw [if_pos rfl, State.toHost_of_up hup]
    exact ⟨_, rfl, (State.finish_spec (s := s) (t := s.send _) rfl).1, rfl, rfl⟩
  · intro s i d hrun haw hop hwait addr
    rw [exec_timestamp_mgmt hrun haw hop hwait]
    refine ⟨fun a hb hpl hw hl => ?_, fun hb hup => ?_⟩
    · obtain ⟨mem, e, k, hm, hread, hout, -⟩ := s.hubWrite_spec a (leBytes 8 s.now.toNat) false hl hw.1
      dsimp only
      rw [if_neg (by simp [hb]), hpl]
      dsimp only
      rw [hm]
      rw [leBytes_length] at hread hout
      exact ⟨_, rfl, hread, hout, rfl, rfl⟩
    · dsimp only
      rw [if_pos hb, State.toHost_of_up hup]
      rfl

section
/-! PROOFS. Slipways. -/

namespace Sys2Proof.Machine

theorem exec_slipwaySignal {s : State} {c i : Nat} {m : Cmd} {addr inc : Nat} (h : s.Holds c i m (.signal addr inc)) :
    exec (.slipwaySignal c i) s = .next (if s.ready c && (s.ctx c).allEarlier i m && m.phase == .checked
      then s.signal { ctx := c, uid := m.uid } addr inc true else s) := by
  simp only [exec, execSlipwaySignal, h.1, h.2]

/-- The advance of a slipway in device memory. -/
theorem State.slipAdd_spec {s : State} {a : Nat} (inc : Nat) (hl : s.mem.latent = []) (hw : Memory.wf s.mem = true) :
    ∃ m e k, s.slipAdd a inc = { s with mem := m, counters := k, dbg := { s.dbg with eccArmed := e } } ∧
      (s.slipAdd a inc).slip a = s.slip a + BitVec.ofNat 32 inc ∧ SameOutside s.mem m [(a, 4)] := by
  obtain ⟨m, e, k, hm, hread, hout, -⟩ := s.hubWrite_spec a (leBytes 4 ((s.slip a).toNat + inc)) false hl hw
  rw [leBytes_length] at hread hout
  refine ⟨m, e, k, hm, ?_, hout⟩
  have hmem : (s.slipAdd a inc).mem = m := by rw [State.slipAdd, hm]
  rw [State.slip, hmem, hread, leNat_leBytes]
  apply BitVec.eq_of_toNat_eq
  simp [BitVec.toNat_add]

theorem exec_slipwayWait {s : State} {c i : Nat} {m : Cmd} {addr target a : Nat} (h : s.Turn c i m (.wait addr target))
    (hpl : s.place addr = .here a) (hl : s.mem.latent = []) :
    exec (.slipwayWait c i) s = .next (
      if s.mem.poisoned 64 a 4 then (s.setPhase c m.uid .started).faultCtx c 0x310 (some m.uid)
      else if reached (s.slip a) (BitVec.ofNat 32 target) then s.finish c m.uid
      else s.setPhase c m.uid .started) := by
  obtain ⟨⟨hm, hwork⟩, hr, ho⟩ := h
  simp only [exec, execSlipwayWait, hm, hwork]
  rw [if_neg (by simp [hr, ho]), hpl]
  dsimp only
  rw [State.settle_clean _ _ _ hl]

end Sys2Proof.Machine
end

open Sys2Proof Sys2Proof.Machine

/-- Settles O32: the advance by `State.slipAdd_spec`, the wait by its row. -/
theorem slipwayRule : Obligations.SlipwayRule := by
  unfold Obligations.SlipwayRule
  refine ⟨fun s c i m addr inc h hr hp => ?_, fun s c i m addr target a h hpl hl => ?_⟩
  · rw [exec_slipwaySignal h]
    refine ⟨fun he => by simp [he], fun a he hpl hw hl => ?_, fun d a he hpl hroute => ?_⟩
    · rw [if_pos (by simp [hr, he, hp]), State.signal, hpl]
      dsimp only
      rw [State.settle_clean _ _ _ hl]
      refine ⟨fun hpo => ?_, fun hpo => ?_⟩
      · rw [if_neg (by simp [hpo]), if_pos rfl]
        obtain ⟨mem, e, k, hm, hslip, hout⟩ := State.slipAdd_spec (s := s) (a := a) inc hl hw.1
        have hfin := State.finish_spec (s := s) (t := s.slipAdd a inc) (c := c) (u := m.uid) (by rw [hm])
        refine ⟨_, rfl, hslip, ?_, ?_, hfin.2, ?_, ?_⟩
        · rw [State.finish_mem, hm]; exact hout
        · rw [show s.now = (s.slipAdd a inc).now by rw [hm]]; exact hfin.1
        · rw [State.finish_cores, hm]
        · rw [State.finish_tx, hm]
      · rw [if_pos hpo]
        refine ⟨_, rfl, ?_⟩
        rw [State.failAsker]
        exact State.faultCtx_torn _ _ _ _ ((State.setPhase_alive s c m.uid .started).trans (State.alive_of_ready hr))
    · obtain ⟨q, k, hq⟩ := State.remoteReq_sent (s := s.setPhase c m.uid .started) hroute { ctx := c, uid := m.uid } a
        (fun p => .roligAdd p d a inc) .added 0 4 true none 0
      rw [if_pos (by simp [hr, he, hp]), State.signal, hpl]
      dsimp only
      rw [hq]
      exact ⟨_, rfl, rfl, List.length_append, rfl, (State.setPhase_spec (s := s) rfl).1⟩
  · rw [exec_slipwayWait h hpl hl]
    refine ⟨fun hpo => ?_, fun hpo => ⟨fun hv => ?_, fun hv => ?_⟩⟩
    · rw [if_pos hpo]
      exact ⟨_, rfl, State.faultCtx_torn _ _ _ _ ((State.setPhase_alive s c m.uid .started).trans (State.alive_of_ready h.2.1))⟩
    · rw [if_neg (by simp [hpo]), if_pos (by simpa [reached] using hv)]
      exact ⟨_, rfl, (State.finish_spec (s := s) rfl).1, (State.finish_spec (s := s) rfl).2, rfl⟩
    · rw [if_neg (by simp [hpo]), if_neg (by simpa [reached] using hv)]
      exact ⟨_, rfl, (State.setPhase_spec (s := s) rfl).1, (State.setPhase_spec (s := s) rfl).2, rfl⟩

section
/-! PROOFS. Compute commands as whole runs. -/

namespace Sys2Proof.Machine

/-- The row of a piece of work runs its command whole, in its turn. -/
theorem exec_row {s : State} {c i : Nat} {m : Cmd} {w : Work} {cmd : Instr} (h : s.Turn c i m w) (hrow : w.row c i = some cmd)
    (hwhole : m.whole = true) : exec cmd s = .next (s.runWhole c m w) := by
  obtain ⟨⟨hm, hwork⟩, hr, ho⟩ := h
  have hrun (kind : Work → Bool) (hk : kind w = true) : s.runCmd c i kind = s.runWhole c m w := by
    simp only [State.runCmd, hm, hwork]
    rw [if_pos (by simp [hk, hr, ho, hwhole])]
  cases w <;> simp only [Work.row, Option.some.injEq, reduceCtorEq] at hrow
  all_goals
    subst hrow
    exact congrArg Host.Outcome.next (hrun _ rfl)

/-- The memory of a run in place: its bytes and its poison are the run's. -/
theorem State.commit_spec (s : State) (m : Mem) (outs : List (Nat × Nat)) :
    ∃ m' e, s.commit m outs = { s with mem := m', dbg := { s.dbg with eccArmed := e } } ∧ (∀ a, m'.byte a = m.byte a) ∧ m'.poison = m.poison := by
  unfold State.commit
  split
  · exact ⟨m, s.dbg.eccArmed, rfl, fun _ => rfl, rfl⟩
  · exact ⟨_, false, rfl, fun _ => rfl, rfl⟩

/-- A command whose run is done: its record's SAT and its phase. -/
def Cmd.ran (m : Cmd) (sat : Bool) (now : Tick) : Cmd :=
  { m with sat := m.sat || sat, unplaced := [], tilesDone := 0, phase := .written now }

theorem State.runWhole_done {s : State} {c : Nat} {m : Cmd} {w : Work} {mem : Mem} {sat : Bool} (hl : s.mem.latent = [])
    (h : runWork (s.workEnv m w.philox) (s.trapArmed c) w s.mem = .done mem sat) :
    ∃ m' e, s.runWhole c m w = { s with
      mem := m', free := s.free + 1, dbg := { s.dbg with eccArmed := e }
      ctxs := s.ctxs.set c ((s.ctx c).mapCmd m.uid fun _ => m.ran sat s.now) } ∧
      (∀ a, m'.byte a = mem.byte a) ∧ m'.poison = mem.poison := by
  obtain ⟨m', e, hcommit, hbyte, hpoison⟩ := s.drawn.commit_spec mem w.outs
  refine ⟨m', e, ?_, hbyte, hpoison⟩
  unfold State.runWhole
  dsimp only
  rw [State.settle_clean _ _ _ hl, h]
  dsimp only
  rw [hcommit]
  let u : State := { s.drawn with mem := m', dbg := { s.drawn.dbg with eccArmed := e } }
  let n : Cmd := { m with sat := m.sat || sat, unplaced := [], tilesDone := 0 }
  show (u.putCmd c n).finish c m.uid = _
  have hput : (u.putCmd c n).ctxs = s.ctxs.set c ((s.ctx c).mapCmd m.uid fun _ => n) := rfl
  have htwice := Ctx.mapCmd_mapCmd (s.ctx c) m.uid (f := fun _ => n) (fun y => { y with phase := .written s.now }) fun _ _ => rfl
  rw [State.finish_eq, (State.ctx_mapCmd hput).1, State.setCtx, hput, List.set_set]
  show ({ u with ctxs := s.ctxs.set c (((s.ctx c).mapCmd m.uid fun _ => n).mapCmd m.uid fun y => { y with phase := .written s.now }) } : State) = _
  rw [htwice]
  rfl

end Sys2Proof.Machine
end

open Sys2Proof Sys2Proof.Machine

/-- Settles O33: every row runs `State.runWhole`, which ends as `runWork` does. -/
theorem computeCommandCompletes : Obligations.ComputeCommandCompletes := by
  unfold Obligations.ComputeCommandCompletes
  intro s c i m w cmd h hrow hwhole hl
  rw [exec_row h hrow hwhole]
  refine ⟨fun mem sat hrun => ?_, fun hrun => ?_⟩
  · obtain ⟨m', e, ht, hbyte, hpoison⟩ := State.runWhole_done hl hrun
    rw [ht]
    refine ⟨_, rfl, hbyte, hpoison, finished_of_mapCmd rfl fun _ => rfl, fun y hy hu => ?_, otherCommandsKept_of_mapCmd rfl, rfl⟩
    obtain ⟨_, -, -, rfl⟩ := mem_cmds_of_mapCmd (s := s) rfl hy hu
    rfl
  · unfold State.runWhole
    dsimp only
    rw [State.settle_clean _ _ _ hl, hrun]

section
/-! PROOFS. Fixed sequences: where they write, and what a packed row of bytes holds. -/

namespace Sys2Proof.Machine

/-! ### Folds -/

/-- A property that one step of a fold establishes and no other step ends, under an invariant of the fold. -/
theorem foldl_establishes {α β : Type} {f : α → β → α} {l : List β} {Q P : α → Prop} {b : β} (hb : b ∈ l)
    (hQ : ∀ x ∈ l, ∀ a, Q a → Q (f a x)) (hP : ∀ x ∈ l, ∀ a, Q a → P a → P (f a x)) (h : ∀ a, Q a → P (f a b)) {a : α} (ha : Q a) :
    P (l.foldl f a) := by
  have keep : ∀ (r : List β), (∀ x ∈ r, x ∈ l) → ∀ a, Q a → P a → P (r.foldl f a) := by
    intro r
    induction r with
    | nil => exact fun _ _ _ h => h
    | cons x r ih =>
      intro hr a ha hp
      exact ih (fun y hy => hr y (List.mem_cons_of_mem _ hy)) _ (hQ x (hr x List.mem_cons_self) a ha) (hP x (hr x List.mem_cons_self) a ha hp)
  have reach : ∀ (r : List β), (∀ x ∈ r, x ∈ l) → b ∈ r → ∀ a, Q a → P (r.foldl f a) := by
    intro r
    induction r with
    | nil => exact fun _ h => nomatch h
    | cons x r ih =>
      intro hr hbr a ha
      have hx := hr x List.mem_cons_self
      have hr' : ∀ y ∈ r, y ∈ l := fun y hy => hr y (List.mem_cons_of_mem _ hy)
      rcases List.mem_cons.mp hbr with rfl | hbr
      · exact keep r hr' _ (hQ b hx a ha) (h a ha)
      · exact ih hr' hbr _ (hQ x hx a ha)
  exact reach l (fun _ h => h) hb a ha

/-! ### Writes of a fixed sequence -/

/-- A write of so many bytes at an address lies in one of some ranges. -/
def within (rs : List (Nat × Nat)) (w : Nat × List Byte) : Prop := ∃ r ∈ rs, r.1 ≤ w.1 ∧ w.1 + w.2.length ≤ r.1 + r.2

theorem Mem.puts_byte {m : Mem} {ws : List (Nat × List Byte)} {rs : List (Nat × Nat)} (h : ∀ w ∈ ws, within rs w) {x : Nat}
    (hx : inRegions rs x = false) : (m.puts ws).byte x = m.byte x := by
  refine List.foldlRecOn ws _ (motive := fun q : Mem => q.byte x = m.byte x) rfl fun q hq w hw => ?_
  obtain ⟨r, hr, hlo, hhi⟩ := h w hw
  refine (Mem.byte_write_outside q 64 w.1 x w.2 false ?_).trans hq
  simp only [inRegions, List.any_eq_false, Bool.and_eq_true, decide_eq_true_eq] at hx
  have := hx r hr
  omega

theorem Mem.puts_wf {m : Mem} (ws : List (Nat × List Byte)) (h : Memory.wf m = true) : Memory.wf (m.puts ws) = true :=
  List.foldlRecOn ws _ (motive := fun q : Mem => Memory.wf q = true) h fun q hq _ _ => Mem.write_wf q _ _ _ _ hq

/-- One chunk of a fixed sequence. -/
def FixedSpec.chunk (f : FixedSpec) (we : WorkEnv) (r : Nat) (e : Ev) (c : Nat × Nat) : Ev :=
  { e.note (f.go we e.mem r c.1 c.2).2 with mem := e.mem.puts (f.go we e.mem r c.1 c.2).1 }

theorem FixedSpec.eval_eq (f : FixedSpec) (we : WorkEnv) (e : Ev) :
    f.eval we e = (List.range f.rows).foldl (fun e r => (chunkStarts 0 f.cols).foldl (f.chunk we r) e) e := rfl

/-- What every chunk of a fixed sequence keeps, its run keeps. -/
theorem FixedSpec.eval_keeps {f : FixedSpec} {we : WorkEnv} {Q : Mem → Prop}
    (h : ∀ r < f.rows, ∀ c ∈ chunkStarts 0 f.cols, ∀ m, Q m → Q (m.puts (f.go we m r c.1 c.2).1)) {e : Ev} (he : Q e.mem) :
    Q (f.eval we e).mem := by
  rw [FixedSpec.eval_eq]
  refine List.foldlRecOn _ _ (motive := fun e : Ev => Q e.mem) he fun e he r hr => ?_
  exact List.foldlRecOn _ _ (motive := fun e : Ev => Q e.mem) he fun e he c hc => h r (List.mem_range.mp hr) c hc e.mem he

/-- A run that writes within some ranges changes no other byte. -/
theorem FixedSpec.eval_sameOutside {f : FixedSpec} {we : WorkEnv} {rs : List (Nat × Nat)}
    (h : ∀ r < f.rows, ∀ c ∈ chunkStarts 0 f.cols, ∀ m, ∀ w ∈ (f.go we m r c.1 c.2).1, within rs w) (m : Mem) :
    SameOutside m (f.eval we { mem := m }).mem rs := fun x hx =>
  FixedSpec.eval_keeps (Q := fun q => q.byte x = m.byte x) (fun r hr c hc q hq => (Mem.puts_byte (h r hr c hc q) hx).trans hq) rfl

/-- What one chunk establishes and no chunk ends holds at the end. -/
theorem FixedSpec.eval_establishes {f : FixedSpec} {we : WorkEnv} {Q P : Mem → Prop}
    (hQ : ∀ r < f.rows, ∀ c ∈ chunkStarts 0 f.cols, ∀ m, Q m → Q (m.puts (f.go we m r c.1 c.2).1))
    (hP : ∀ r < f.rows, ∀ c ∈ chunkStarts 0 f.cols, ∀ m, Q m → P m → P (m.puts (f.go we m r c.1 c.2).1))
    {r : Nat} (hr : r < f.rows) {c : Nat × Nat} (hc : c ∈ chunkStarts 0 f.cols)
    (h : ∀ m, Q m → P (m.puts (f.go we m r c.1 c.2).1)) {e : Ev} (he : Q e.mem) : P (f.eval we e).mem := by
  have hrow : ∀ q < f.rows, ∀ e : Ev, Q e.mem → Q ((chunkStarts 0 f.cols).foldl (f.chunk we q) e).mem := fun q hq e he =>
    List.foldlRecOn _ _ (motive := fun e : Ev => Q e.mem) he fun e he c hc => hQ q hq c hc e.mem he
  rw [FixedSpec.eval_eq]
  refine foldl_establishes (Q := fun e : Ev => Q e.mem) (P := fun e : Ev => P e.mem) (List.mem_range.mpr hr)
    (fun q hq e he => hrow q (List.mem_range.mp hq) e he) (fun q hq e he hp => ?_) (fun e he => ?_) he
  · have hboth := List.foldlRecOn (chunkStarts 0 f.cols) (f.chunk we q) (motive := fun e : Ev => Q e.mem ∧ P e.mem) ⟨he, hp⟩
      fun e h c hc => ⟨hQ q (List.mem_range.mp hq) c hc e.mem h.1, hP q (List.mem_range.mp hq) c hc e.mem h.1 h.2⟩
    exact hboth.2
  · exact foldl_establishes (Q := fun e : Ev => Q e.mem) (P := fun e : Ev => P e.mem) hc (fun c hc e he => hQ r hr c hc e.mem he)
      (fun c hc e he hp => hP r hr c hc e.mem he hp) (fun e he => h e.mem he) he

/-! ### Rows and chunks of a tensor -/

theorem mem_rowIndices {e1 e2 e3 : Nat} {i : Nat × Nat × Nat} : i ∈ rowIndices e1 e2 e3 ↔ i.1 < e1 ∧ i.2.1 < e2 ∧ i.2.2 < e3 := by
  obtain ⟨a, b, c⟩ := i
  simp only [rowIndices, List.mem_flatMap, List.mem_map, List.mem_range, Prod.mk.injEq]
  constructor
  · rintro ⟨k, hk, j, hj, i, hi, rfl, rfl, rfl⟩
    exact ⟨hi, hj, hk⟩
  · rintro ⟨ha, hb, hc⟩
    exact ⟨c, hc, b, hb, a, ha, rfl, rfl, rfl⟩

theorem Tensor.getD_rows {t : Tensor} {r : Nat} (h : r < t.rows.length) :
    (t.rows.getD r (0, 0, 0)).1 < t.e1 ∧ (t.rows.getD r (0, 0, 0)).2.1 < t.e2 ∧ (t.rows.getD r (0, 0, 0)).2.2 < t.e3 := by
  rw [List.getD_eq_getElem _ _ h]
  exact mem_rowIndices.mp (List.getElem_mem h)

/-- The row of a tensor with given indices has a number. -/
theorem Tensor.rows_getD {t : Tensor} {i1 i2 i3 : Nat} (h1 : i1 < t.e1) (h2 : i2 < t.e2) (h3 : i3 < t.e3) :
    ∃ r < t.rows.length, t.rows.getD r (0, 0, 0) = (i1, i2, i3) := by
  obtain ⟨r, hr, h⟩ := List.getElem_of_mem (mem_rowIndices (i := (i1, i2, i3)).mpr ⟨h1, h2, h3⟩)
  exact ⟨r, hr, (List.getD_eq_getElem _ _ hr).trans h⟩

theorem mem_chunkStarts {hi : Nat} {c : Nat × Nat} (h : c ∈ chunkStarts 0 hi) : ∃ k, c.1 = 128 * k ∧ c.1 < hi ∧ c.2 = min 128 (hi - c.1) := by
  simp only [chunkStarts, List.mem_map, List.mem_range, cdiv] at h
  obtain ⟨k, hk, rfl⟩ := h
  refine ⟨k, by simp, ?_, by simp⟩
  dsimp only
  omega

/-- The chunk of an element. -/
theorem chunkStarts_mem {hi i : Nat} (h : i < hi) : (128 * (i / 128), min 128 (hi - 128 * (i / 128))) ∈ chunkStarts 0 hi := by
  simp only [chunkStarts, List.mem_map, List.mem_range, cdiv]
  exact ⟨i / 128, by omega, by simp⟩

/-- The bytes of a chunk, with the padding after it, lie in the row. -/
theorem Tensor.chunk_le_rowBytes (t : Tensor) {c n k : Nat} (hk : c = 128 * k) (hc : c < t.e0) (hn : n = min 128 (t.e0 - c)) :
    c * t.fmt.elem.width / 8 + cdiv (c * t.fmt.elem.width % 8 + (n + t.tailPads (c + n)) * t.fmt.elem.width) 8 ≤ t.rowBytes := by
  unfold Tensor.rowBytes packedBytes Tensor.storedElems Tensor.tailPads Tensor.blocks
  generalize hmx : t.fmt.mx = mx
  generalize t.e0 = e0 at *
  by_cases ht : c + n < e0
  · cases t.fmt.elem <;> cases mx <;> simp [Elem.width, cdiv, ht] <;> omega
  · cases t.fmt.elem <;> cases mx <;> simp [Elem.width, cdiv, ht] <;> omega

/-- The scales of a chunk lie among those of the tensor. -/
theorem Tensor.scale_le {t : Tensor} {c n k i1 i2 i3 : Nat} (hk : c = 128 * k) (hc : c < t.e0) (hn : n = min 128 (t.e0 - c))
    (h1 : i1 < t.e1) (h2 : i2 < t.e2) (h3 : i3 < t.e3) :
    t.scaleBase ≤ t.scaleAddr (c / 32) i1 i2 i3 ∧
      t.scaleAddr (c / 32) i1 i2 i3 + cdiv n 32 ≤ t.scaleBase + t.e1 * t.e2 * t.e3 * t.blocks := by
  have hplane : i2 + t.e2 * i3 + 1 ≤ t.e2 * t.e3 := by
    calc i2 + t.e2 * i3 + 1 ≤ t.e2 + t.e2 * i3 := by omega
      _ = t.e2 * (i3 + 1) := by ring
      _ ≤ t.e2 * t.e3 := Nat.mul_le_mul_left _ h3
  have hrow : t.rowNum i1 i2 i3 + 1 ≤ t.e1 * t.e2 * t.e3 := by
    calc t.rowNum i1 i2 i3 + 1 ≤ t.e1 + t.e1 * (i2 + t.e2 * i3) := by unfold Tensor.rowNum; omega
      _ = t.e1 * (i2 + t.e2 * i3 + 1) := by ring
      _ ≤ t.e1 * (t.e2 * t.e3) := Nat.mul_le_mul_left _ hplane
      _ = t.e1 * t.e2 * t.e3 := by ring
  have hall : t.rowNum i1 i2 i3 * t.blocks + t.blocks ≤ t.e1 * t.e2 * t.e3 * t.blocks := by
    have := Nat.mul_le_mul_right t.blocks hrow
    rwa [Nat.add_mul, Nat.one_mul] at this
  have hblocks : c / 32 + cdiv n 32 ≤ t.blocks := by
    unfold Tensor.blocks cdiv
    omega
  unfold Tensor.scaleAddr
  omega

theorem Tensor.mem_ranges_row {t : Tensor} {i1 i2 i3 : Nat} (h1 : i1 < t.e1) (h2 : i2 < t.e2) (h3 : i3 < t.e3) :
    (t.rowAddr i1 i2 i3, t.rowBytes) ∈ t.ranges :=
  List.mem_append_left _ (List.mem_map.mpr ⟨(i1, i2, i3), mem_rowIndices.mpr ⟨h1, h2, h3⟩, rfl⟩)

theorem Tensor.mem_ranges_scale {t : Tensor} (h : t.fmt.mx = true) : (t.scaleBase, t.e1 * t.e2 * t.e3 * t.blocks) ∈ t.ranges :=
  List.mem_append_right _ (by simp [h])

@[simp] theorem Mem.read_length (m : Mem) (a n : Nat) : (m.read a n).length = n := by simp [Mem.read]

/-- The writes of a run of values of one chunk of a row lie in the tensor. -/
theorem rowWrites_within {t : Tensor} {c : Nat × Nat} (hc : c ∈ chunkStarts 0 t.e0) {i1 i2 i3 : Nat} (h1 : i1 < t.e1) (h2 : i2 < t.e2)
    (h3 : i3 < t.e3) (m : Mem) {vs : List Word} (hvs : vs.length = c.2) : ∀ w ∈ rowWrites m t c.1 i1 i2 i3 vs, within t.ranges w := by
  obtain ⟨k, hk, hlt, hn⟩ := mem_chunkStarts hc
  intro w hw
  unfold rowWrites at hw
  rw [hvs] at hw
  rcases List.mem_append.mp hw with hw | hw
  · obtain rfl := List.mem_singleton.mp hw
    refine ⟨_, Tensor.mem_ranges_row h1 h2 h3, by dsimp only; omega, ?_⟩
    have := t.chunk_le_rowBytes hk hlt hn
    simp only [Mem.read_length]
    omega
  · split at hw
    case isTrue hmx =>
      obtain rfl := List.mem_singleton.mp hw
      obtain ⟨hlo, hhi⟩ := Tensor.scale_le hk hlt hn h1 h2 h3
      exact ⟨_, Tensor.mem_ranges_scale hmx, hlo, by simpa using hhi⟩
    case isFalse => cases hw

end Sys2Proof.Machine
end

section
/-! PROOFS. Rows of byte elements: FILL and TRANSPOSE. -/

namespace Sys2Proof.Machine

/-! ### Packed bytes -/

theorem leBytes_succ (n v : Nat) : leBytes (n + 1) v = BitVec.ofNat 8 v :: leBytes n (v / 256) := by
  simp only [leBytes, List.range_succ_eq_map, List.map_cons, List.map_map, Nat.pow_zero, Nat.div_one]
  congr 1
  apply List.map_congr_left
  intro i _
  simp only [Function.comp_apply, Nat.succ_eq_add_one]
  rw [Nat.div_div_eq_div_mul, Nat.pow_succ']

/-- Codes of 8 bits are packed one to a byte. -/
theorem leBytes_packCodes (cs : List Nat) (hi : Nat) : leBytes cs.length (packCodes 8 cs + 256 ^ cs.length * hi) = cs.map (BitVec.ofNat 8) := by
  induction cs with
  | nil => rfl
  | cons c r ih =>
    have hv : packCodes 8 (c :: r) + 256 ^ (c :: r).length * hi = c % 256 + 256 * (packCodes 8 r + 256 ^ r.length * hi) := by
      simp only [packCodes, List.length_cons, Nat.pow_succ]
      ring
    rw [List.length_cons, leBytes_succ, ← List.length_cons, hv, List.map_cons]
    congr 1
    · apply BitVec.eq_of_toNat_eq
      simp only [BitVec.toNat_ofNat]
      omega
    · rw [← ih]
      congr 1
      omega

/-- Elements of 8 bits put into a row are written as bytes. -/
theorem putCodes_bytes (m : Mem) (u a i : Nat) (cs : List Nat) (pz : Bool) :
    putCodes m u a 8 i cs pz = m.write u (a + i) (cs.map (BitVec.ofNat 8)) pz := by
  have hb0 : i * 8 % 8 = 0 := by omega
  have hb : i * 8 / 8 = i := by omega
  have hn : cdiv (cs.length * 8) 8 = cs.length := by unfold cdiv; omega
  unfold putCodes
  simp only [hb0, hb, Nat.pow_zero, Nat.mod_one, Nat.zero_add, Nat.one_mul, hn]
  rw [show 2 ^ (cs.length * 8) = 256 ^ cs.length by rw [Nat.mul_comm, Nat.pow_mul], leBytes_packCodes]

theorem Mem.read_map_ofNat (m : Mem) (a : Nat) (cs : List Nat) (hw : Memory.wf m = true) :
    (m.write 64 a (cs.map (BitVec.ofNat 8)) false).read a cs.length = cs.map (BitVec.ofNat 8) := by
  have h := Mem.read_write m 64 a (cs.map (BitVec.ofNat 8)) false hw
  rwa [List.length_map] at h

section
variable {t : Tensor} (hmx : t.fmt.mx = false) (hw : t.fmt.elem.width = 8)
include hmx hw

theorem Tensor.tailPads_bytes (e : Nat) : t.tailPads e = 0 := by
  unfold Tensor.tailPads
  simp [hmx, hw]

/-- One chunk of FILL writes the value into its elements. -/
theorem fillSpec_go_bytes (v sc : Nat) (we : WorkEnv) (r c n : Nat) {m : Mem} (hm : Memory.wf m = true) :
    ((fillSpec t v sc).go we m r c n).1 = [(t.rowAddr (t.rows.getD r (0, 0, 0)).1 (t.rows.getD r (0, 0, 0)).2.1 (t.rows.getD r (0, 0, 0)).2.2 + c,
      List.replicate n (BitVec.ofNat 8 v))] := by
  have h0 : c * 8 % 8 = 0 := by omega
  have h1 : c * 8 / 8 = c := by omega
  have h2 : cdiv (0 + n * 8) 8 = n := by unfold cdiv; omega
  simp only [fillSpec, Tensor.tailPads_bytes hmx hw, hw, hmx, Nat.add_zero, Nat.sub_self, List.replicate_zero, List.append_nil, putCodes_bytes, h0, h1, h2,
    Bool.false_eq_true, if_false]
  have := m.read_map_ofNat (t.rowAddr (t.rows.getD r (0, 0, 0)).1 (t.rows.getD r (0, 0, 0)).2.1 (t.rows.getD r (0, 0, 0)).2.2 + c) (List.replicate n v) hm
  rw [List.length_replicate] at this
  rw [this, List.map_replicate]

end

/-- The writes of FILL lie in its tensor. -/
theorem fillSpec_within (t : Tensor) (v sc : Nat) (we : WorkEnv) {r : Nat} (hr : r < t.rows.length) {c : Nat × Nat}
    (hc : c ∈ chunkStarts 0 t.e0) (m : Mem) : ∀ w ∈ ((fillSpec t v sc).go we m r c.1 c.2).1, within t.ranges w := by
  obtain ⟨h1, h2, h3⟩ := Tensor.getD_rows hr
  obtain ⟨k, hk, hlt, hn⟩ := mem_chunkStarts hc
  intro w hw
  rcases List.mem_cons.mp hw with rfl | hw
  · refine ⟨_, Tensor.mem_ranges_row h1 h2 h3, by dsimp only; omega, ?_⟩
    have := t.chunk_le_rowBytes hk hlt hn
    simp only [Mem.read_length]
    omega
  · split at hw
    case isTrue hmx =>
      obtain rfl := List.mem_singleton.mp hw
      obtain ⟨hlo, hhi⟩ := Tensor.scale_le hk hlt hn h1 h2 h3
      exact ⟨_, Tensor.mem_ranges_scale hmx, hlo, by simpa using hhi⟩
    case isFalse => cases hw

/-- A fold of parts of n lanes has n lanes. -/
theorem foldLanes_length (we : WorkEnv) (coord : Nat → List Nat) (n : Nat) {ps : List (List Word)} (h : ∀ p ∈ ps, p.length = n) :
    (foldLanes we coord n ps).1.length = n := by
  cases ps with
  | nil => exact List.length_replicate
  | cons p r =>
    refine List.foldlRecOn r _ (motive := fun acc : List Word × Option NanSite => acc.1.length = n) (h p List.mem_cons_self) fun acc hacc q hq => ?_
    simp [hacc, h q (List.mem_cons_of_mem _ hq)]

/-- A byte within a write of equal bytes, or outside it, as before. -/
theorem Mem.byte_puts_one {m : Mem} (hm : Memory.wf m = true) (a : Nat) (bs : List Byte) (x : Nat) :
    (m.puts [(a, bs)]).byte x = if h : a ≤ x ∧ x - a < bs.length then bs[x - a]'h.2 else m.byte x := by
  show (m.write 64 a bs false).byte x = _
  split
  case isTrue h =>
    have := Mem.byte_write_inside m 64 a (x - a) bs false hm h.2
    rwa [Nat.add_sub_cancel' h.1] at this
  case isFalse h => exact Mem.byte_write_outside m 64 a x bs false (by omega)

end Sys2Proof.Machine
end

open Sys2Proof Sys2Proof.Machine

/-- Settles O35: each chunk's writes lie in the tensor's rows and scales, and of FILL hold the value. -/
theorem rowWriters : Obligations.RowWriters := by
  unfold Obligations.RowWriters
  refine ⟨fun we m out a v sc key st _ w hw => ?_, fun m out v sc i0 i1 i2 i3 hm hmx hwidth hv hin => ?_⟩
  · simp only [List.mem_cons, List.not_mem_nil, or_false] at hw
    rcases hw with rfl | rfl | rfl | rfl
    · exact FixedSpec.eval_sameOutside (f := fillSpec out v sc) (fun r hr c hc m => fillSpec_within out v sc _ hr hc m) m
    · refine FixedSpec.eval_sameOutside (f := noiseSpec out) (fun r hr c hc m => ?_) m
      obtain ⟨h1, h2, h3⟩ := Tensor.getD_rows hr
      exact rowWrites_within hc h1 h2 h3 m (by simp)
    · refine FixedSpec.eval_sameOutside (f := foldSpec a out) (fun r hr c hc m => ?_) m
      obtain ⟨h1, h2, h3⟩ := Tensor.getD_rows hr
      refine rowWrites_within hc h1 h2 h3 m ?_
      rw [List.length_map]
      exact foldLanes_length _ _ _ (by simp)
    · refine FixedSpec.eval_sameOutside (f := transposeSpec a out) (fun r hr c hc m => ?_) m
      obtain ⟨h1, h2, h3⟩ := Tensor.getD_rows hr
      exact rowWrites_within hc h1 h2 h3 m (by simp)
  · simp only [Tensor.inside, Bool.and_eq_true, decide_eq_true_eq] at hin
    obtain ⟨⟨⟨h0, h1⟩, h2⟩, h3⟩ := hin
    obtain ⟨r, hr, hrow⟩ := Tensor.rows_getD h1 h2 h3
    have hgo := fun (m : Mem) (hm : Memory.wf m = true) (we : WorkEnv) (r : Nat) (c : Nat × Nat) =>
      fillSpec_go_bytes hmx hwidth v sc we r c.1 c.2 hm
    refine FixedSpec.eval_establishes (f := fillSpec out v sc) (Q := fun m => Memory.wf m = true)
      (P := fun m => m.byte (out.rowAddr i1 i2 i3 + i0) = BitVec.ofNat 8 v) (fun _ _ _ _ m hm => Mem.puts_wf _ hm)
      (fun r hr c hc m hm hp => ?_) hr (chunkStarts_mem (hi := out.e0) h0) (fun m hm => ?_) hm
    · rw [hgo m hm, Mem.byte_puts_one hm]
      split
      · exact List.getElem_replicate _
      · exact hp
    · rw [hgo m hm, Mem.byte_puts_one hm, hrow]
      dsimp only
      rw [dif_pos]
      · exact List.getElem_replicate _
      · refine ⟨Nat.add_le_add_left (Nat.mul_div_le i0 128) _, ?_⟩
        rw [List.length_replicate, Nat.add_sub_add_left]
        omega

section
/-! PROOFS. TRANSPOSE of bytes. -/

namespace Sys2Proof.Machine

/-- An integer within the range of its width is narrowed to its two's complement code. -/
theorem encodeInt_valOfInt {w : Nat} {i : Int} (hlo : -(2 ^ (w - 1)) ≤ i) (hhi : i ≤ 2 ^ (w - 1) - 1) :
    encodeInt w (valOfInt i 0) = intCode w i := by
  have hval : valToInt (decide (i < 0)) i.natAbs 0 = i := by
    simp only [valToInt, le_refl, if_true, Int.toNat_zero, Nat.pow_zero, Nat.mul_one, decide_eq_true_eq]
    split <;> omega
  simp only [encodeInt, valOfInt, hval, clampInt]
  rw [if_neg (by omega), if_neg (by omega)]

theorem signExtend_range (c : Nat) : -128 ≤ signExtend 8 c ∧ signExtend 8 c ≤ 127 := by
  simp only [signExtend]
  split <;> omega

theorem intCode_signExtend {c : Nat} (hc : c < 256) : intCode 8 (signExtend 8 c) = c := by
  simp only [signExtend, intCode]
  split <;> omega

theorem toInt_intCode {i : Int} (hlo : -128 ≤ i) (hhi : i ≤ 127) : (BitVec.ofNat 32 (intCode 32 i)).toInt = i := by
  rw [BitVec.toInt_eq_toNat_cond, BitVec.toNat_ofNat, intCode]
  split <;> omega

/-- What TRANSPOSE makes of an INT8 code. -/
theorem transpose_code (sc : Nat) {c : Nat} (hc : c < 256) :
    encodeInt 8 (valOfInt (forStore ⟨.int8, false⟩ (readScaled ⟨.int8, false⟩ c sc)).toInt 0) = c := by
  obtain ⟨hlo, hhi⟩ := signExtend_range c
  show encodeInt 8 (valOfInt (BitVec.ofNat 32 (encodeInt 32 (valOfInt (signExtend 8 c) 0))).toInt 0) = c
  rw [encodeInt_valOfInt (w := 32) (by norm_num; omega) (by norm_num; omega), toInt_intCode hlo hhi,
    encodeInt_valOfInt (w := 8) (by norm_num; omega) (by norm_num; omega), intCode_signExtend hc]

theorem Tensor.raw_int8 {t : Tensor} (hf : t.fmt = ⟨.int8, false⟩) (m : Mem) {i0 i1 i2 i3 : Nat} (hin : t.inside i0 i1 i2 i3 = true) :
    (t.raw m i0 i1 i2 i3).1 = (m.byte (t.rowAddr i1 i2 i3 + i0)).toNat := by
  have h0 : i0 * 8 / 8 = i0 := by omega
  have h1 : cdiv (0 + 8) 8 = 1 := rfl
  have h2 : i0 * 8 % 8 = 0 := by omega
  unfold Tensor.raw
  simp only [hin, if_true, hf, Elem.width, codeAt, h0, h2, h1, Nat.pow_zero, Nat.div_one]
  simp [Mem.read, leNat]
  omega

/-- An element of the chunk of output that TRANSPOSE writes. -/
def transposed (a : Tensor) (m : Mem) (i : Nat × Nat × Nat) (c l : Nat) : Nat :=
  encodeInt 8 (valOfInt (forStore ⟨.int8, false⟩ (a.val m i.1 (c + l) i.2.1 0)).toInt 0)

theorem transposeSpec_go_bytes {a b : Tensor} (hb : b.fmt = ⟨.int8, false⟩) (we : WorkEnv) (r c n : Nat) {m : Mem} (hm : Memory.wf m = true) :
    let i := b.rows.getD r (0, 0, 0)
    ((transposeSpec a b).go we m r c n).1 = [(b.rowAddr i.1 i.2.1 i.2.2 + c, (List.range n).map fun l => BitVec.ofNat 8 (transposed a m i c l))] := by
  intro i
  have h0 : c * 8 % 8 = 0 := by omega
  have h1 : c * 8 / 8 = c := by omega
  have h2 : cdiv (0 + n * 8) 8 = n := by unfold cdiv; omega
  have hpads := fun e => Tensor.tailPads_bytes (t := b) (by rw [hb]) (by rw [hb]; rfl) e
  have hput : b.putRow m c i.1 i.2.1 i.2.2 (((List.range n).map fun l => a.val m i.1 (c + l) i.2.1 0).map (forStore b.fmt)) false =
      m.write 64 (b.rowAddr i.1 i.2.1 i.2.2 + c) (((List.range n).map fun l => transposed a m i c l).map (BitVec.ofNat 8)) false := by
    unfold Tensor.putRow
    simp only [hpads, hb, List.replicate_zero, List.append_nil, encodeRun, Fmt.isInt, Elem.isInt, Bool.not_false, Bool.and_true, if_true,
      Bool.false_eq_true, if_false, Elem.width, putCodes_bytes, List.map_map]
    rfl
  show rowWrites m b c i.1 i.2.1 i.2.2 (((List.range n).map fun l => a.val m i.1 (c + l) i.2.1 0).map (forStore b.fmt)) = _
  unfold rowWrites
  dsimp only
  rw [hput]
  simp only [hpads, hb, Elem.width, List.length_map, List.length_range, Nat.add_zero, h0, h1, h2, Bool.false_eq_true, if_false, List.append_nil]
  have := m.read_map_ofNat (b.rowAddr i.1 i.2.1 i.2.2 + c) ((List.range n).map fun l => transposed a m i c l) hm
  rw [List.length_map, List.length_range] at this
  rw [this, List.map_map]
  rfl

/-- Two places of one number in mixed radix are the same. -/
theorem mixed_radix {s p q x y : Nat} (hx : x < s) (hy : y < s) (h : x + p * s = y + q * s) : x = y ∧ p = q := by
  have hp : p = q := by
    have h1 : (x + p * s) / s = p := by rw [Nat.add_mul_div_right _ _ (by omega), Nat.div_eq_of_lt hx, Nat.zero_add]
    have h2 : (y + q * s) / s = q := by rw [Nat.add_mul_div_right _ _ (by omega), Nat.div_eq_of_lt hy, Nat.zero_add]
    rw [← h1, h, h2]
  subst hp
  exact ⟨Nat.add_right_cancel h, rfl⟩

theorem mixed_lt {s e x p : Nat} (hx : x < s) (hp : p < e) : x + p * s < e * s := by
  calc x + p * s < s + p * s := by omega
    _ = (p + 1) * s := by ring
    _ ≤ e * s := Nat.mul_le_mul_right _ hp

/-- Elements of rows that do not overlap stand apart. -/
theorem Tensor.rowAddr_injective {b : Tensor} (hs1 : b.e0 ≤ b.s1) (hs2 : b.e1 * b.s1 ≤ b.s2) (hs3 : b.e2 * b.s2 ≤ b.s3)
    {i0 i1 i2 i3 j0 j1 j2 j3 : Nat} (hi0 : i0 < b.e0) (hi1 : i1 < b.e1) (hi2 : i2 < b.e2) (hj0 : j0 < b.e0) (hj1 : j1 < b.e1) (hj2 : j2 < b.e2)
    (h : b.rowAddr i1 i2 i3 + i0 = b.rowAddr j1 j2 j3 + j0) : i0 = j0 ∧ i1 = j1 ∧ i2 = j2 ∧ i3 = j3 := by
  unfold Tensor.rowAddr at h
  have hx1 := mixed_lt (Nat.lt_of_lt_of_le hi0 hs1) hi1
  have hy1 := mixed_lt (Nat.lt_of_lt_of_le hj0 hs1) hj1
  have hx2 := mixed_lt (Nat.lt_of_lt_of_le hx1 hs2) hi2
  have hy2 := mixed_lt (Nat.lt_of_lt_of_le hy1 hs2) hj2
  obtain ⟨h, h3⟩ := mixed_radix (p := i3) (q := j3) (Nat.lt_of_lt_of_le hx2 hs3) (Nat.lt_of_lt_of_le hy2 hs3) (by omega)
  obtain ⟨h, h2⟩ := mixed_radix (Nat.lt_of_lt_of_le hx1 hs2) (Nat.lt_of_lt_of_le hy1 hs2) h
  obtain ⟨h, h1⟩ := mixed_radix (Nat.lt_of_lt_of_le hi0 hs1) (Nat.lt_of_lt_of_le hj0 hs1) h
  exact ⟨h, h1, h2, h3⟩

end Sys2Proof.Machine
end

open Sys2Proof Sys2Proof.Machine

/-- Settles O36: the chunk of an element writes it, no other chunk touches it, and its source stays. -/
theorem transposeMovesElements : Obligations.TransposeMovesElements := by
  unfold Obligations.TransposeMovesElements
  intro we m a b i0 i1 i2 i3 hm ha hb hs1 hs2 hs3 hin hsrc hout
  simp only [Tensor.inside, Bool.and_eq_true, decide_eq_true_eq] at hin
  obtain ⟨⟨⟨h0, h1⟩, h2⟩, h3⟩ := hin
  obtain ⟨r, hr, hrow⟩ := Tensor.rows_getD h1 h2 h3
  have hwithin : ∀ r < b.rows.length, ∀ c ∈ chunkStarts 0 b.e0, ∀ m, ∀ w ∈ ((transposeSpec a b).go we m r c.1 c.2).1, within b.ranges w := by
    intro r hr c hc m
    obtain ⟨h1, h2, h3⟩ := Tensor.getD_rows hr
    exact rowWrites_within hc h1 h2 h3 m (by simp)
  -- The source byte stays, and where a chunk covers the element it writes that byte.
  have hwrites : ∀ r < b.rows.length, ∀ c ∈ chunkStarts 0 b.e0, ∀ q : Mem, Memory.wf q = true →
      q.byte (a.rowAddr i0 i2 0 + i1) = m.byte (a.rowAddr i0 i2 0 + i1) →
      ((q.puts ((transposeSpec a b).go we q r c.1 c.2).1).byte (b.rowAddr i1 i2 i3 + i0) = m.byte (a.rowAddr i0 i2 0 + i1)) ∨
      ((q.puts ((transposeSpec a b).go we q r c.1 c.2).1).byte (b.rowAddr i1 i2 i3 + i0) = q.byte (b.rowAddr i1 i2 i3 + i0) ∧
        ¬ (b.rows.getD r (0, 0, 0) = (i1, i2, i3) ∧ c.1 ≤ i0 ∧ i0 < c.1 + c.2)) := by
    intro r hr c hc q hq hsame
    obtain ⟨g1, g2, g3⟩ := Tensor.getD_rows hr
    obtain ⟨k, hk, hlt, hn⟩ := mem_chunkStarts hc
    rw [transposeSpec_go_bytes hb we r c.1 c.2 hq, Mem.byte_puts_one hq]
    generalize b.rows.getD r (0, 0, 0) = j at *
    obtain ⟨j1, j2, j3⟩ := j
    dsimp only at g1 g2 g3 ⊢
    split
    case isTrue hx =>
      rw [List.length_map, List.length_range] at hx
      obtain ⟨e0, rfl, rfl, rfl⟩ := Tensor.rowAddr_injective (b := b) (j0 := c.1 + (b.rowAddr i1 i2 i3 + i0 - (b.rowAddr j1 j2 j3 + c.1)))
        hs1 hs2 hs3 h0 h1 h2 (by omega) g1 g2 (i3 := i3) (j3 := j3) (by omega)
      left
      have hval : transposed a q (i1, i2, i3) c.1 (b.rowAddr i1 i2 i3 + i0 - (b.rowAddr i1 i2 i3 + c.1)) = (m.byte (a.rowAddr i0 i2 0 + i1)).toNat := by
        unfold transposed Tensor.val
        dsimp only
        rw [← e0, Tensor.raw_int8 ha q hsrc, hsame, ha]
        exact transpose_code _ (BitVec.isLt _)
      simp only [List.getElem_map, List.getElem_range, hval]
      simp
    case isFalse hx =>
      refine .inr ⟨rfl, fun ⟨hj, hlo, hhi⟩ => hx ?_⟩
      obtain ⟨rfl, rfl, rfl⟩ : j1 = i1 ∧ j2 = i2 ∧ j3 = i3 := by simpa using hj
      rw [List.length_map, List.length_range]
      omega
  refine FixedSpec.eval_establishes (f := transposeSpec a b)
    (Q := fun q => Memory.wf q = true ∧ q.byte (a.rowAddr i0 i2 0 + i1) = m.byte (a.rowAddr i0 i2 0 + i1))
    (P := fun q => q.byte (b.rowAddr i1 i2 i3 + i0) = m.byte (a.rowAddr i0 i2 0 + i1)) (fun r hr c hc q hq => ?_) (fun r hr c hc q hq hp => ?_)
    hr (chunkStarts_mem h0) (fun q hq => ?_) ⟨hm, rfl⟩
  · exact ⟨Mem.puts_wf _ hq.1, (Mem.puts_byte (hwithin r hr c hc q) hout).trans hq.2⟩
  · rcases hwrites r hr c hc q hq.1 hq.2 with h | ⟨h, -⟩
    · exact h
    · exact h.trans hp
  · rcases hwrites r hr _ (chunkStarts_mem h0) q hq.1 hq.2 with h | ⟨-, h⟩
    · exact h
    · exact absurd ⟨hrow, by dsimp only; omega⟩ h

section
/-! PROOFS. TABLE_LOAD. -/

namespace Sys2Proof.Machine

/-- The banks after TABLE_LOAD: the image is in its bank, which SWAP makes active. -/
def Tables.loaded (t : Tables) (table bank : Nat) (img : List Byte) (swap : Bool) : Tables :=
  let u := t.put table bank img
  if swap then { u with active := u.active.set table bank } else u

section
variable {s : State} {c i : Nat} {m : Cmd} {image bytes table bank : Nat} {swap : Bool}
  (h : s.Turn c i m (.tableLoad image bytes table bank swap))
include h

theorem exec_tableLoad_unserved (hw : s.winner (tableRes table) false (s.wanting (Cmd.loads table)) ≠ some c) :
    exec (.tableLoad c i) s = .next s := by
  obtain ⟨⟨hm, hwork⟩, -, -⟩ := h
  simp only [exec, execTableLoad, hm, hwork]
  rw [if_pos (by simp [hw])]

theorem exec_tableLoad_served (hw : s.winner (tableRes table) false (s.wanting (Cmd.loads table)) = some c) (hl : s.mem.latent = []) :
    exec (.tableLoad c i) s = .next (
      let u := s.granted (tableRes table) c
      match s.loadFault c image bytes table bank with
      | some code => u.setPhase c m.uid (.rejected code 0 0)
      | none =>
        if s.mem.poisoned 64 image bytes then
          State.faultCtx (State.setPhase { u with tables := s.tables.put table bank [] } c m.uid .started) c 0x310 (some m.uid)
        else match imageFault table (s.mem.read image bytes) with
          | some (code, j) => u.setPhase c m.uid (.rejected code j 0)
          | none => State.finish { u with tables := s.tables.loaded table bank (s.mem.read image bytes) swap } c m.uid) := by
  obtain ⟨⟨hm, hwork⟩, hr, ho⟩ := h
  simp only [exec, execTableLoad, hm, hwork]
  rw [if_neg (by simp [hr, ho, hw]), State.settle_clean (s := s.granted (tableRes table) c) (h := hl)]
  show Host.Outcome.next (match s.loadFault c image bytes table bank with | some code => _ | none => _) = _
  cases s.loadFault c image bytes table bank with
  | some code => rfl
  | none =>
    dsimp only
    show Host.Outcome.next (if s.mem.poisoned 64 image bytes then _ else _) = _
    split
    · rfl
    · show Host.Outcome.next (match imageFault table (s.mem.read image bytes) with | some (code, j) => _ | none => _) = _
      cases imageFault table (s.mem.read image bytes) <;> rfl

end

/-- The banks after an image is put into one. -/
theorem Tables.put_spec (t : Tables) (table bank : Nat) (img : List Byte) :
    (t.put table bank img).ex2 = (if table = 0 then t.ex2.set bank img else t.ex2) ∧
    (t.put table bank img).lg2 = (if table = 1 then t.lg2.set bank img else t.lg2) ∧
    (t.put table bank img).micro = (if 2 ≤ table then t.micro.set bank img else t.micro) ∧
    (t.put table bank img).active = t.active :=
  match table with
  | 0 => ⟨rfl, rfl, rfl, rfl⟩
  | 1 => ⟨rfl, rfl, rfl, rfl⟩
  | n + 2 => ⟨by simp [Tables.put], by simp [Tables.put], by simp [Tables.put], rfl⟩

end Sys2Proof.Machine
end

open Sys2Proof Sys2Proof.Machine

/-- Settles O37: the row by its checks in order; `Tables.put_spec` says what the banks hold. -/
theorem tableLoadRule : Obligations.TableLoadRule := by
  unfold Obligations.TableLoadRule
  intro s c i m image bytes table bank swap h hl won img
  refine ⟨fun hw => exec_tableLoad_unserved h hw, fun code hw hf => ?_, fun hw hf => ⟨fun hp => ?_, fun code j hp hi => ?_, fun hp hi => ?_⟩⟩
  · rw [exec_tableLoad_served h hw hl, hf]
    exact ⟨_, rfl, rfl, (State.setPhase_spec (s := s) rfl).2, (State.setPhase_spec (s := s) rfl).1⟩
  · rw [exec_tableLoad_served h hw hl, hf]
    dsimp only
    rw [if_pos hp]
    exact ⟨_, rfl, State.faultCtx_torn _ _ _ _ ((State.setPhase_alive _ c m.uid .started).trans (State.alive_of_ready h.2.1))⟩
  · rw [exec_tableLoad_served h hw hl, hf]
    dsimp only
    rw [if_neg (by simp [hp]), show s.mem.read image bytes = img from rfl, hi]
    exact ⟨_, rfl, rfl, (State.setPhase_spec (s := s) rfl).2, (State.setPhase_spec (s := s) rfl).1⟩
  · rw [exec_tableLoad_served h hw hl, hf]
    dsimp only
    rw [if_neg (by simp [hp]), show s.mem.read image bytes = img from rfl, hi]
    obtain ⟨h0, h1, h2, h3⟩ := s.tables.put_spec table bank img
    refine ⟨_, rfl, rfl, (State.finish_spec (s := s) (t := { s with arb := (s.granted (tableRes table) c).arb, tables := s.tables.loaded table bank img swap }) rfl).1,
      (State.finish_spec (s := s) (t := { s with arb := (s.granted (tableRes table) c).arb, tables := s.tables.loaded table bank img swap }) rfl).2, ?_, ?_, ?_, ?_⟩
    all_goals cases swap
    exacts [h0, h0, h1, h1, h2, h2, h3, congrArg (fun l => List.set l table bank) h3]

section
/-! PROOFS. FERRY of one row. -/

namespace Sys2Proof.Machine

/-! ### Traffic -/

theorem countsOnly_carry (s : State) (a b n : Nat) : CountsOnly s (s.carry a b n) := s.carry_shape a b n

theorem countsOnly_carryCopy (s : State) (a b n : Nat) : CountsOnly s (s.carryCopy a b n) := by
  refine List.foldlRecOn (s.homePieces a n) _ (motive := fun acc : State × Nat => CountsOnly s acc.1) (.refl s) fun acc h p _ => ?_
  exact h.trans ((countsOnly_count ..).trans (countsOnly_foldl (fun t q => (countsOnly_carry t ..).trans (countsOnly_count ..)) _ _))

theorem State.dieFerries_shape {α : Type} (f : α → Nat × Nat) (l : List α) (s : State) :
    ∃ k n, l.foldl (fun s x => s.dieFerry (f x).1 (f x).2) s = { s with counters := k, free := n } := by
  refine List.foldlRecOn l _ (motive := fun t : State => ∃ k n, t = { s with counters := k, free := n }) ⟨s.counters, s.free, rfl⟩ ?_
  rintro _ ⟨k, n, rfl⟩ x _
  exact ⟨_, _, rfl⟩

/-- A copy within device memory, over lines that hold no bad symbols. -/
theorem State.copyBytes_spec {s : State} (a b n : Nat) (hl : s.mem.latent = []) (hw : Memory.wf s.mem = true) :
    ∃ m e k f, s.copyBytes a b n = { s with mem := m, counters := k, free := f, dbg := { s.dbg with eccArmed := e } } ∧
      m.read b n = s.mem.read a n ∧ SameOutside s.mem m [(b, n)] := by
  obtain ⟨k, hk⟩ := countsOnly_carryCopy s a b n
  obtain ⟨k', f, hf⟩ := State.dieFerries_shape (fun p : Nat × Nat × Nat × Nat => (p.1, p.2.1)) (s.homePieces b n) { s with counters := k }
  obtain ⟨m, e, hm, hread, hout, -⟩ := State.devWrite_spec { s with counters := k', free := f } b (s.mem.read a n) false hl hw
  rw [Mem.read_length] at hread hout
  unfold State.copyBytes
  dsimp only
  rw [State.settle_clean _ _ _ hl, hk, hf, hm]
  exact ⟨_, e, k', f, rfl, hread, hout⟩

/-! ### A row's turn -/

/-- A command that a transfer of one row has started. -/
def Cmd.moving (m : Cmd) : Cmd := { m with phase := .started, steps := { m.steps with moved := Cells.set 0 0 1 m.steps.moved } }

/-- A transfer of one row has begun. -/
def State.moving (s : State) (c u : Nat) (phase : Bool) : State :=
  { s with arb := if phase then (s.granted phaseRes c).arb else s.arb, ctxs := s.ctxs.set c ((s.ctx c).mapCmd u Cmd.moving) }

theorem State.moving_eq (s : State) (c u : Nat) (phase : Bool) :
    (((if phase then s.granted phaseRes c else s).setPhase c u .started).noteMoved c u 0 1) = s.moving c u phase := by
  have hu : (if phase then s.granted phaseRes c else s) = { s with arb := if phase then (s.granted phaseRes c).arb else s.arb } := by
    cases phase <;> rfl
  let v : State := { s with arb := if phase then (s.granted phaseRes c).arb else s.arb }
  have hset : (v.setPhase c u .started).ctxs = s.ctxs.set c ((s.ctx c).mapCmd u fun y => { y with phase := .started }) := rfl
  rw [hu]
  show (v.setPhase c u .started).setCtx c (((v.setPhase c u .started).ctx c).mapCmd u
    fun y => { y with steps := { y.steps with moved := Cells.set 0 0 1 y.steps.moved } }) = _
  rw [(State.ctx_mapCmd hset).1, Ctx.mapCmd_mapCmd (f := fun y => { y with phase := .started }) _ _ _ fun _ h => h, State.setCtx, hset, List.set_set]
  rfl

theorem Cells.get_set_zero {α : Type} [DecidableEq α] {d v : α} (hv : v ≠ d) (l : List (Nat × α)) : Cells.get d 0 (Cells.set d 0 v l) = v := by
  match l with
  | [] => simp [Cells.set, Cells.get, hv]
  | (j, w) :: r =>
    by_cases hj : j = 0
    · simp [Cells.set, Cells.get, hj, hv]
    · have : 0 < j := Nat.pos_of_ne_zero hj
      simp [Cells.set, Cells.get, hj, hv]

section
variable {s : State} {c i : Nat} {m : Cmd} {t : Transfer} (h : s.Turn c i m (.ferry [t])) (hp : m.phase = .checked) (hmoved : m.steps.moved = [])
  (hrows : t.rows = 1) (hslip : t.slip = false) (hwait : s.awaits c m.uid = false)
include h hp hmoved hrows hslip hwait

/-- The row of a FERRY of one transfer of one row, once its move has kept the contexts. -/
theorem exec_ferry_one {phase : Bool} (hphase : s.collective [t] = phase) (hturn : phase = true → s.phaseTurn c m.uid 0 = true) {v : State}
    (hv : (s.moving c m.uid phase).moveRow { ctx := c, uid := m.uid, phase := phase } t 0 0 true none = v)
    (hctx : v.ctxs = (s.moving c m.uid phase).ctxs) :
    exec (.ferry c i) s = .next (if v.asks { ctx := c, uid := m.uid, phase := phase } then v else v.finish c m.uid) := by
  obtain ⟨⟨hm, hwork⟩, hr, ho⟩ := h
  have halive := State.alive_of_ready hr
  have hpre : (s.ctx c).preempted = false := by
    simp only [State.ready, Bool.and_eq_true, Bool.not_eq_true'] at hr
    exact hr.2
  let w : Asker := { ctx := c, uid := m.uid, phase := phase }
  have hself : (v.ctx c) = (s.ctx c).mapCmd m.uid Cmd.moving := (State.ctx_mapCmd hctx).1
  have hmove : (s.moving c m.uid phase).move w t 0 0 true = v := by
    unfold State.move
    simp only [hrows, hslip, Nat.sub_zero, List.range_one, List.foldl_cons, List.foldl_nil, Nat.zero_add, beq_self_eq_true,
      Bool.and_true, Bool.false_eq_true, if_false, ite_self]
    exact hv
  have hferry : (((if phase then s.granted phaseRes c else s).setPhase c m.uid .started).ferryOn w m true [t]) = v := by
    let u := (if phase then s.granted phaseRes c else s).setPhase c m.uid .started
    have hua : (u.ctx c).alive = true := by
      refine (State.setPhase_alive _ c m.uid .started).trans ?_
      cases phase <;> exact halive
    have hasks : u.asks w = false := by
      unfold State.asks
      unfold State.awaits at hwait
      simp only [Bool.or_eq_false_iff, List.any_eq_false, Bool.and_eq_true, not_and] at hwait ⊢
      have hreads : u.reads = s.reads ∧ u.remote = s.remote := by cases phase <;> exact ⟨rfl, rfl⟩
      rw [hreads.1, hreads.2]
      exact ⟨fun q hq hc => absurd hc.2 (hwait.1 q hq hc.1), fun q hq hc => absurd hc.2 (hwait.2 q hq hc.1)⟩
    have hdone : m.movedOf 0 = 0 := by rw [Cmd.movedOf, hmoved]; rfl
    show u.moves w (m.movedOf 0) true 0 [t] = v
    rw [State.moves, if_neg (by simp [w, hua, hasks]), hdone, hrows, if_neg (by omega), State.moves]
    show (u.noteMoved c m.uid 0 1).move w t 0 0 true = v
    rw [State.moving_eq, hmove]
  have hover : v.ferryOver w [t] = !v.asks w := by
    unfold State.ferryOver
    have hmem : m ∈ (s.ctx c).cmds := List.mem_of_getElem? hm
    have hfind : ∃ y, (v.ctx c).byUid m.uid = some y ∧ y.movedOf 0 = 1 := by
      rw [hself]
      have hsome : ∃ y, ((s.ctx c).mapCmd m.uid Cmd.moving).byUid m.uid = some y := by
        apply Option.isSome_iff_exists.mp
        rw [Ctx.byUid, List.find?_isSome]
        exact ⟨m.moving, List.mem_map.mpr ⟨m, hmem, if_pos rfl⟩, by simp [Cmd.moving]⟩
      obtain ⟨y, hy⟩ := hsome
      have hyu : y.uid = m.uid := by simpa using List.find?_some hy
      obtain ⟨z, -, -, rfl⟩ := mem_cmds_of_mapCmd (s := s) (t := s.moving c m.uid phase) rfl
        (by rw [(State.ctx_mapCmd (s := s) (t := s.moving c m.uid phase) rfl).1]; exact List.mem_of_find?_eq_some hy) hyu
      exact ⟨_, hy, Cells.get_set_zero (by decide) _⟩
    obtain ⟨y, hy, hy1⟩ := hfind
    simp only [w, hy, Option.getD_none, hy1, chainRows, List.foldl_cons, List.foldl_nil, hrows]
    rw [hself]
    simp [show ((s.ctx c).mapCmd m.uid Cmd.moving).alive = true from halive]
  have hdebt : (v.finish c m.uid).phaseDebt c phase = v.finish c m.uid := by
    rw [State.phaseDebt, if_neg]
    have hfin : (v.finish c m.uid).ctx c = (v.ctx c).mapCmd m.uid fun y => { y with phase := .written v.now } := (State.ctx_mapCmd (s := v) rfl).1
    rw [hfin, hself]
    simp [Ctx.mapCmd, hpre]
  simp only [exec, execFerry, hm, hwork, hphase]
  rw [if_neg]
  · rw [show (if (m.phase == .checked && phase) = true then s.granted phaseRes c else s) = if phase then s.granted phaseRes c else s by
      simp [hp], hferry, hover, hdebt]
    cases v.asks w <;> rfl
  · simp only [Bool.or_eq_true, Bool.not_eq_true', Bool.and_eq_false_iff, Bool.and_eq_true, not_or, not_and]
    refine ⟨?_, fun hs => ?_⟩
    · simp [State.mayMove, hr, ho]
    · simpa using hturn hs.2

/-- A move that leaves nothing awaited completes the command. -/
theorem ferry_finished {u : State} {phase : Bool} (hctx : u.ctxs = (s.moving c m.uid phase).ctxs) :
    (u.finish c m.uid).Finished c m.uid u.now ∧ OtherCommandsKept s (u.finish c m.uid) c m.uid := by
  have hset : (u.finish c m.uid).ctxs = s.ctxs.set c ((s.ctx c).mapCmd m.uid fun y => { y.moving with phase := .written u.now }) := by
    rw [State.finish_eq, State.setCtx_ctxs, (State.ctx_mapCmd hctx).1, Ctx.mapCmd_mapCmd (f := Cmd.moving) _ _ _ fun _ h => h, hctx]
    exact List.set_set ..
  exact ⟨finished_of_mapCmd hset fun _ => rfl, otherCommandsKept_of_mapCmd hset⟩

/-- A move that waits for answers leaves it started. -/
theorem ferry_started {u : State} {phase : Bool} (hctx : u.ctxs = (s.moving c m.uid phase).ctxs) :
    (∀ z ∈ (u.ctx c).cmds, z.uid = m.uid → z.phase = .started) ∧ OtherCommandsKept s u c m.uid := by
  refine ⟨fun z hz hu => ?_, otherCommandsKept_of_mapCmd hctx⟩
  obtain ⟨_, -, -, rfl⟩ := mem_cmds_of_mapCmd hctx hz hu
  rfl

end

theorem State.moving_hwins (s : State) (c u : Nat) (phase : Bool) : ((s.moving c u phase).ctx c).hwins = (s.ctx c).hwins := by
  rw [(State.ctx_mapCmd (s := s) (t := s.moving c u phase) rfl).1]
  rfl

theorem State.moving_alive (s : State) (c u : Nat) (phase : Bool) : ((s.moving c u phase).ctx c).alive = (s.ctx c).alive := by
  rw [(State.ctx_mapCmd (s := s) (t := s.moving c u phase) rfl).1]
  rfl

/-! ### Pieces of a row to another device -/

theorem State.remoteReq_of_route {s : State} {dev : Nat} (h : s.routeOk dev = true) (w : Asker) (a : Nat) (p : Nat → Tx) (kind : Answer)
    (dst n : Nat) (last : Bool) (slip : Option (Nat × Nat)) (row : Nat) :
    ∃ q k, s.remoteReq w dev a p kind dst n last slip row = { s with
      tx := s.tx ++ [p (s.portTo dev a)], counters := k, remote := s.remote ++ [q] } ∧ q.toAsker = w := by
  rw [State.remoteReq, if_pos h]
  exact ⟨_, _, rfl, rfl⟩

/-- The requests for the pieces of a row: one for each, all of the same asker. -/
theorem State.remoteReqs_spec {w : Asker} {dev : Nat} (mk : Nat → Nat × Nat → Tx) (x : Nat) (kind : Answer) (dst : Nat → Nat)
    (last : Nat → Bool) (slip : Nat → Option (Nat × Nat)) (row : Nat) (ps : List (Nat × (Nat × Nat))) {s : State}
    (ha : (s.ctx w.ctx).alive = true) (hr : s.routeOk dev = true) :
    ∃ k qs, ps.foldl (fun (s : State) p => if !(s.ctx w.ctx).alive then s
        else s.remoteReq w dev (x + p.2.1) (fun q => mk q p.2) kind (dst p.2.1) p.2.2 (last p.1) (slip p.1) row) s =
      { s with tx := s.tx ++ ps.map (fun p => mk (s.portTo dev (x + p.2.1)) p.2), counters := k, remote := s.remote ++ qs } ∧
      qs.length = ps.length ∧ ∀ q ∈ qs, q.toAsker = w := by
  induction ps generalizing s with
  | nil => exact ⟨s.counters, [], by simp, rfl, by simp⟩
  | cons p r ih =>
    obtain ⟨q, k, hq, hw⟩ := State.remoteReq_of_route hr w (x + p.2.1) (fun q => mk q p.2) kind (dst p.2.1) p.2.2 (last p.1) (slip p.1) row
    rw [List.foldl_cons, if_neg (by simp [ha]), hq]
    let u : State := { s with tx := s.tx ++ [mk (s.portTo dev (x + p.2.1)) p.2], counters := k, remote := s.remote ++ [q] }
    obtain ⟨k', qs, h, hlen, hmem⟩ := ih (s := u) ha hr
    refine ⟨k', q :: qs, h.trans ?_, by simp [hlen], List.forall_mem_cons.mpr ⟨hw, hmem⟩⟩
    simp only [u, List.map_cons, List.append_assoc, List.singleton_append]
    rfl

theorem linePieces_pos {a b n : Nat} (h : 0 < n) : 0 < (linePieces a b n).length := by
  rw [List.length_pos_iff]
  intro hnil
  have := List.flatMap_eq_nil_iff.mp hnil (a / 64) ((mem_unitsOf_iff_byte a n (a / 64)).mpr ⟨0, h, rfl⟩)
  dsimp only at this
  split at this <;> cases this

theorem numbered_map_snd {α β : Type} (l : List α) (f : α → β) : (numbered l).map (fun p => f p.2) = l.map f := by
  unfold numbered
  rw [show (fun p : Nat × α => f p.2) = f ∘ Prod.snd from rfl, ← List.map_map, List.map_snd_zip (by simp)]

/-! ### One row in each direction -/

section
variable {s : State} {w : Asker} {t : Transfer} (ha : (s.ctx w.ctx).alive = true)
include ha

theorem State.moveRow_within {x y row : Nat} {last : Bool} {slip : Option (Nat × Nat)} (hsh : t.srcHost = false) (hdh : t.dstHost = false)
    (hsrc : s.place t.src = .here x) (hdst : s.place t.dst = .here y) : s.moveRow w t 0 row last slip = s.copyBytes x y t.rowBytes := by
  unfold State.moveRow
  simp only [ha, hsh, hdh, Nat.zero_mul, Nat.add_zero, hsrc, hdst, Bool.not_true, Bool.false_eq_true, if_false]

theorem State.moveRow_fromHost {y row : Nat} {h : HWin} {last : Bool} {slip : Option (Nat × Nat)} (hsh : t.srcHost = true)
    (hdst : s.place t.dst = .here y) (hwin : winFor (s.ctx w.ctx).hwins t.src t.rowBytes false = some h) (hup : s.hostUp = true) :
    ∃ q, s.moveRow w t 0 row last slip = { s with tx := s.tx ++ [.hostRead t.src t.rowBytes h.tag], reads := s.reads ++ [q] } ∧ q.toAsker = w := by
  unfold State.moveRow
  simp only [ha, hsh, Nat.zero_mul, Nat.add_zero, hdst, hwin, Bool.not_true, Bool.false_eq_true, if_false, if_true, State.toHost_of_up hup]
  exact ⟨_, rfl, rfl⟩

theorem State.moveRow_toHost {x row : Nat} {h : HWin} {last : Bool} {slip : Option (Nat × Nat)} (hsh : t.srcHost = false) (hdh : t.dstHost = true)
    (hsrc : s.place t.src = .here x) (hwin : winFor (s.ctx w.ctx).hwins t.dst t.rowBytes true = some h) (hup : s.hostUp = true)
    (hl : s.mem.latent = []) (hpo : s.mem.poisoned 64 x t.rowBytes = false) :
    ∃ k, s.moveRow w t 0 row last slip =
      { s with tx := s.tx ++ [.hostWrite t.dst (s.mem.read x t.rowBytes) true false h.tag], counters := k } := by
  obtain ⟨k, hk⟩ := s.carryFrom_shape [(x, t.rowBytes)] 4
  refine ⟨k, ?_⟩
  unfold State.moveRow
  simp only [ha, hsh, hdh, Nat.zero_mul, Nat.add_zero, hsrc, hwin, Bool.not_true, Bool.false_eq_true, if_false, if_true]
  rw [State.settle_clean _ _ _ hl, hk]
  simp only [hpo, Bool.false_eq_true, if_false]
  exact State.toHost_of_up (s := { s with counters := k }) hup _

theorem State.moveRow_toDevice {d x y row : Nat} {last : Bool} (hsh : t.srcHost = false) (hdh : t.dstHost = false)
    (hsrc : s.place t.src = .here x) (hdst : s.place t.dst = .there d y) (hroute : s.routeOk d = true) (hl : s.mem.latent = []) :
    ∃ k qs, s.moveRow w t 0 row last none = { s with
      tx := s.tx ++ (linePieces y x t.rowBytes).map (fun p => .roligWrite (s.portTo d (y + p.1)) d (y + p.1)
        (s.mem.read (x + p.1) p.2) (s.mem.poisoned 64 (x + p.1) p.2))
      counters := k, remote := s.remote ++ qs } ∧ qs.length = (linePieces y x t.rowBytes).length ∧ ∀ q ∈ qs, q.toAsker = w := by
  obtain ⟨k, hk⟩ := s.carryFrom_shape [(x, t.rowBytes)] 4
  obtain ⟨k', qs, h, hlen, hw⟩ := State.remoteReqs_spec (s := { s with counters := k }) (w := w) (dev := d)
    (fun q p => .roligWrite q d (y + p.1) (s.mem.read (x + p.1) p.2) (s.mem.poisoned 64 (x + p.1) p.2)) y .written (fun _ => 0)
    (fun n => last && (n + 1 == (linePieces y x t.rowBytes).length)) (fun n => if n + 1 == (linePieces y x t.rowBytes).length then none else none) row
    (numbered (linePieces y x t.rowBytes)) ha hroute
  refine ⟨k', qs, ?_, hlen.trans (numbered_length _), hw⟩
  unfold State.moveRow
  simp only [ha, hsh, hdh, Nat.zero_mul, Nat.add_zero, hsrc, hdst, Bool.not_true, Bool.false_eq_true, if_false]
  rw [State.settle_clean _ _ _ hl, hk]
  refine h.trans ?_
  rw [numbered_map_snd (linePieces y x t.rowBytes) (fun p => Tx.roligWrite (s.portTo d (y + p.1)) d (y + p.1) (s.mem.read (x + p.1) p.2)
    (s.mem.poisoned 64 (x + p.1) p.2)) |>.symm]
  rfl

theorem State.moveRow_fromDevice {d x y row : Nat} {last : Bool} (hsh : t.srcHost = false) (hdh : t.dstHost = false)
    (hsrc : s.place t.src = .there d x) (hdst : s.place t.dst = .here y) (hroute : s.routeOk d = true) :
    ∃ k qs, s.moveRow w t 0 row last none = { s with
      tx := s.tx ++ (linePieces x y t.rowBytes).map (fun p => .roligRead (s.portTo d (x + p.1)) d (x + p.1) p.2)
      counters := k, remote := s.remote ++ qs } ∧ qs.length = (linePieces x y t.rowBytes).length ∧ ∀ q ∈ qs, q.toAsker = w := by
  obtain ⟨k', qs, h, hlen, hw⟩ := State.remoteReqs_spec (s := s) (w := w) (dev := d)
    (fun q p => .roligRead q d (x + p.1) p.2) x .data (fun o => y + o)
    (fun n => last && (n + 1 == (linePieces x y t.rowBytes).length)) (fun n => if n + 1 == (linePieces x y t.rowBytes).length then none else none) row
    (numbered (linePieces x y t.rowBytes)) ha hroute
  refine ⟨k', qs, ?_, hlen.trans (numbered_length _), hw⟩
  unfold State.moveRow
  simp only [ha, hsh, hdh, Nat.zero_mul, Nat.add_zero, hsrc, hdst, Bool.not_true, Bool.false_eq_true, if_false]
  refine h.trans ?_
  rw [numbered_map_snd (linePieces x y t.rowBytes) (fun p => Tx.roligRead (s.portTo d (x + p.1)) d (x + p.1) p.2) |>.symm]

end

/-- An asker of a read, or of a request to another device, waits. -/
theorem State.asks_of_mem {s : State} {w : Asker} {q : Outstanding} (hq : q ∈ s.reads ∨ q ∈ s.remote) (hw : q.toAsker = w) : s.asks w = true := by
  unfold State.asks
  subst hw
  rw [Bool.or_eq_true, List.any_eq_true, List.any_eq_true]
  rcases hq with hq | hq
  · exact .inl ⟨q, hq, by simp⟩
  · exact .inr ⟨q, hq, by simp⟩

theorem State.asks_of_awaits {s v : State} {w : Asker} (h : s.awaits w.ctx w.uid = false) (hreads : v.reads = s.reads) (hremote : v.remote = s.remote) :
    v.asks w = false := by
  unfold State.asks
  unfold State.awaits at h
  simp only [Bool.or_eq_false_iff, List.any_eq_false, Bool.and_eq_true, not_and] at h ⊢
  rw [hreads, hremote]
  exact ⟨fun q hq hc => absurd hc.2 (h.1 q hq hc.1), fun q hq hc => absurd hc.2 (h.2 q hq hc.1)⟩

end Sys2Proof.Machine
end

open Sys2Proof Sys2Proof.Machine

/-- Settles O38: the one row's move by `exec_ferry_one`, in each of its five directions. -/
theorem ferryRule : Obligations.FerryRule := by
  unfold Obligations.FerryRule
  intro s c i m t h hp hmoved hrows hslip hwait hl hw
  have ha : ∀ phase, ((s.moving c m.uid phase).ctx c).alive = true := fun phase =>
    (s.moving_alive c m.uid phase).trans (State.alive_of_ready h.2.1)
  have hwins := fun phase => s.moving_hwins c m.uid phase
  have hexec := @exec_ferry_one s c i m t h hp hmoved hrows hslip hwait
  have hfin := @ferry_finished s c i m t h hp hmoved hrows hslip hwait
  have hsta := @ferry_started s c i m t h hp hmoved hrows hslip hwait
  refine ⟨fun x y hsh hdh hsrc hdst => ?_, fun y w hsh hdh hdst hup hwin => ?_, fun x w hsh hdh hsrc hup hpo hwin => ?_,
    fun d hsh hdh hpos hroute hturn => ⟨fun x y hsrc hdst => ?_, fun x y hsrc hdst => ?_⟩⟩
  · obtain ⟨mem, e, k, f, hcopy, hread, hout⟩ := State.copyBytes_spec (s := s.moving c m.uid false) x y t.rowBytes hl hw.1
    rw [hexec (phase := false) (by simp [State.collective, hsh, hdh, hsrc, hdst]) (by simp) ((State.moveRow_within (s := s.moving c m.uid false) (w := { ctx := c, uid := m.uid }) (ha false)
        hsh hdh hsrc hdst).trans hcopy) rfl,
      if_neg (by rw [State.asks_of_awaits hwait rfl rfl]; simp)]
    let u : State := { s.moving c m.uid false with mem := mem, counters := k, free := f, dbg := { s.dbg with eccArmed := e } }
    exact ⟨u.finish c m.uid, rfl, hread, hout, (hfin (u := u) (phase := false) rfl).1, (hfin (u := u) (phase := false) rfl).2, rfl⟩
  · obtain ⟨q, hmove, hq⟩ := State.moveRow_fromHost (s := s.moving c m.uid false) (w := { ctx := c, uid := m.uid }) (row := 0) (last := true)
      (slip := none) (ha false) hsh hdst (by rw [hwins]; exact hwin) hup
    rw [hexec (phase := false) (by simp [State.collective, hsh, hdh, hdst]) (by simp) hmove rfl, if_pos (State.asks_of_mem (.inl (List.mem_append_right _ (List.mem_singleton_self q))) hq)]
    exact ⟨_, rfl, rfl, rfl, List.length_append, (hsta (phase := false) rfl).1, (hsta (phase := false) rfl).2⟩
  · obtain ⟨k, hmove⟩ := State.moveRow_toHost (s := s.moving c m.uid false) (w := { ctx := c, uid := m.uid }) (row := 0) (last := true)
      (slip := none) (ha false) hsh hdh hsrc (by rw [hwins]; exact hwin) hup hl hpo
    rw [hexec (phase := false) (by simp [State.collective, hsh, hdh, hsrc]) (by simp) hmove rfl, if_neg (by rw [State.asks_of_awaits hwait rfl rfl]; simp)]
    let u : State := { s.moving c m.uid false with tx := s.tx ++ [.hostWrite t.dst (s.mem.read x t.rowBytes) true false w.tag], counters := k }
    exact ⟨u.finish c m.uid, rfl, rfl, rfl, (hfin (u := u) (phase := false) rfl).1, (hfin (u := u) (phase := false) rfl).2⟩
  · obtain ⟨k, qs, hmove, hlen, hqs⟩ := State.moveRow_toDevice (s := s.moving c m.uid true) (w := { ctx := c, uid := m.uid, phase := true }) (row := 0)
      (last := true) (ha true) hsh hdh hsrc hdst hroute hl
    have hne : qs ≠ [] := by rw [← List.length_pos_iff, hlen]; exact linePieces_pos hpos
    rw [hexec (by simp [State.collective, hsh, hdh, hsrc, hdst]) (fun _ => hturn) hmove rfl,
      if_pos (State.asks_of_mem (.inr (List.mem_append_right _ (List.head_mem hne))) (hqs _ (List.head_mem hne)))]
    exact ⟨_, rfl, rfl, by rw [← hlen]; exact List.length_append, rfl, (hsta (phase := true) rfl).1, (hsta (phase := true) rfl).2⟩
  · obtain ⟨k, qs, hmove, hlen, hqs⟩ := State.moveRow_fromDevice (s := s.moving c m.uid true) (w := { ctx := c, uid := m.uid, phase := true }) (row := 0)
      (last := true) (ha true) hsh hdh hsrc hdst hroute
    have hne : qs ≠ [] := by rw [← List.length_pos_iff, hlen]; exact linePieces_pos hpos
    rw [hexec (by simp [State.collective, hsh, hdh, hsrc, hdst]) (fun _ => hturn) hmove rfl,
      if_pos (State.asks_of_mem (.inr (List.mem_append_right _ (List.head_mem hne))) (hqs _ (List.head_mem hne)))]
    exact ⟨_, rfl, rfl, by rw [← hlen]; exact List.length_append, rfl, (hsta (phase := true) rfl).1, (hsta (phase := true) rfl).2⟩

section
/-! PROOFS. Chains of changes of one command. -/

namespace Sys2Proof.Machine

/-- The contexts of a state with the commands of one number of one context changed. -/
def Maps (c u : Nat) (f : Cmd → Cmd) (s t : State) : Prop := t.ctxs = s.ctxs.set c ((s.ctx c).mapCmd u f)

section
variable {c u : Nat} {f g : Cmd → Cmd} {s t v : State}

theorem Ctx.mapCmd_id (x : Ctx) (u : Nat) : x.mapCmd u (fun m => m) = x := by
  simp [Ctx.mapCmd]

theorem Maps.refl (h : t.ctxs = s.ctxs) : Maps c u (fun m => m) s t := by
  rw [Maps, Ctx.mapCmd_id, h, State.ctx, list_set_getD_self]

theorem Maps.trans (h : Maps c u f s t) (h' : Maps c u g t v) (hf : ∀ m, m.uid = u → (f m).uid = u) : Maps c u (fun m => g (f m)) s v := by
  unfold Maps at *
  rw [h', (State.ctx_mapCmd h).1, Ctx.mapCmd_mapCmd _ _ _ hf, h]
  exact List.set_set ..

theorem Maps.ctx (h : Maps c u f s t) : t.ctx c = (s.ctx c).mapCmd u f := (State.ctx_mapCmd h).1

theorem Maps.kept (h : Maps c u f s t) : OtherCommandsKept s t c u := otherCommandsKept_of_mapCmd h

theorem Maps.finished (h : Maps c u f s t) {w : Tick} (hf : ∀ m, (f m).phase = .written w) : t.Finished c u w := finished_of_mapCmd h hf

theorem Maps.all (h : Maps c u f s t) {P : Cmd → Prop} (hf : ∀ m ∈ (s.ctx c).cmds, m.uid = u → P (f m)) : ∀ y ∈ (t.ctx c).cmds, y.uid = u → P y := by
  intro y hy hu
  obtain ⟨m, hm, hmu, rfl⟩ := mem_cmds_of_mapCmd h hy hu
  exact hf m hm hmu

theorem maps_setPhase (s : State) (c u : Nat) (p : Phase) : Maps c u (fun m => { m with phase := p }) s (s.setPhase c u p) := rfl

theorem maps_finish (s : State) (c u : Nat) : Maps c u (fun m => { m with phase := .written s.now }) s (s.finish c u) := rfl

theorem maps_putCmd (s : State) (c : Nat) (m : Cmd) : Maps c m.uid (fun _ => m) s (s.putCmd c m) := rfl

theorem maps_prog (s : State) (c u : Nat) (f : StepProg → StepProg) : Maps c u (fun m => { m with steps := f m.steps }) s (s.prog c u f) := rfl

end

/-- Other commands are kept by a change of the commands of one number, whatever else of the context changes. -/
theorem otherCommandsKept_of_cmds {s t : State} {c u : Nat} {f : Cmd → Cmd} (hother : ∀ d, d ≠ c → t.ctx d = s.ctx d)
    (hcmds : (t.ctx c).cmds = ((s.ctx c).mapCmd u f).cmds) : OtherCommandsKept s t c u := by
  refine ⟨hother, fun i m hm hu => ?_⟩
  have : (t.ctx c).cmd? i = ((s.ctx c).mapCmd u f).cmd? i := by rw [Ctx.cmd?, hcmds, Ctx.cmd?]
  rw [this, Ctx.cmd?_mapCmd, hm, Option.map_some, if_neg hu]

theorem State.not_preempted_of_ready {s : State} {c : Nat} (h : s.ready c = true) : (s.ctx c).preempted = false := by
  simp only [State.ready, Bool.and_eq_true, Bool.not_eq_true'] at h
  exact h.2

/-- A context that is not pre-empted has no debt from a phase. -/
theorem State.phaseDebt_of_running {s : State} {c : Nat} (h : (s.ctx c).preempted = false) (phase : Bool) : s.phaseDebt c phase = s := by
  rw [State.phaseDebt, if_neg (by simp [h])]

/-- A step list's end completes its command or changes nothing. -/
theorem State.listEnd_cases (s : State) (c u : Nat) : s.listEnd c u = s ∨ s.listEnd c u = s.finish c u := by
  unfold State.listEnd
  split
  · exact .inl rfl
  · split
    · exact .inl rfl
    · split
      · exact .inr rfl
      · exact .inl rfl

theorem maps_listEnd (s : State) (c u : Nat) : ∃ f, Maps c u f s (s.listEnd c u) ∧ s.listEnd c u = { s with ctxs := (s.listEnd c u).ctxs } ∧
    ∀ m, (f m).steps = m.steps ∧ (f m).uid = m.uid := by
  rcases s.listEnd_cases c u with h | h
  · rw [h]
    exact ⟨_, .refl rfl, rfl, fun _ => ⟨rfl, rfl⟩⟩
  · rw [h]
    exact ⟨_, maps_finish s c u, rfl, fun _ => ⟨rfl, rfl⟩⟩

end Sys2Proof.Machine
end

section
/-! PROOFS. Executions of a step list. -/

namespace Sys2Proof.Machine

/-- The state in which a collective phase was granted its turn. -/
theorem State.granted_if (s : State) (c : Nat) (phase : Bool) :
    (if phase then s.granted phaseRes c else s) = { s with arb := if phase then (s.granted phaseRes c).arb else s.arb } := by
  cases phase <;> rfl

/-- The progress of a list once execution e has started, with its tile commands to place. -/
def StepProg.begun (p : StepProg) (e n : Nat) : StepProg :=
  { p with started := NatSet.add e p.started, tiles := if n = 0 then p.tiles else p.tiles ++ [(e, List.range n, n)] }

theorem exec_stageExecutionStart (s : State) (c i e : Nat) : exec (.stageExecutionStart c i e) s = .next (s.stageStart c i e) := rfl

theorem exec_stageExecutionDone (s : State) (c i e : Nat) : exec (.stageExecutionDone c i e) s = .next (s.stageEnd c i e) := rfl

section
variable {s : State} {c i e : Nat} {m : Cmd} {l : StepList} {x : Execution} {g : Stage} (hm : (s.ctx c).cmd? i = some m)
  (hlist : m.list? = some l) (hx : l.execution e = some x) (hg : l.stageAt e = some g)
include hm hlist hx hg

theorem exec_stageStart_outOfOrder (h : l.orderMet m.steps e = false ∨ NatSet.mem e m.steps.started = true ∨ s.ready c = false) :
    exec (.stageExecutionStart c i e) s = .next s := by
  simp only [exec, execStageExecutionStart, State.stageStart, hm, hlist, hx, hg]
  rw [if_pos (by rcases h with h | h | h <;> simp [h])]

/-- A start in its turn. -/
theorem State.stageStart_eq (hr : s.ready c = true) (ho : (s.ctx c).inOrder i m = true) (hns : NatSet.mem e m.steps.started = false)
    (hmet : l.orderMet m.steps e = true) (hphase : s.isPhase g.work = false ∨ s.phaseTurn c m.uid e = true)
    (hpin : x.phase = 0 ∨ m.steps.pinned = true ∨ (l.pins = [] ∧ l.prefixDone m.steps = true)) (hw : s.waitMet g x = some true) :
    s.stageStart c i e =
      (((({ s with arb := if s.isPhase g.work then (s.granted phaseRes c).arb else s.arb } : State).setPhase c m.uid .started).prog c m.uid
        fun _ => l.unpinned m.steps s.now).prog c m.uid fun p => p.begun e ((l.workOf g x).boxes (s.ctx c).homeDie).length) := by
  have hp : (x.phase != 0 && !(l.unpinned m.steps s.now).pinned) = false := by
    rcases hpin with h | h | ⟨h, h'⟩
    · simp [h]
    · simp [StepList.unpinned, h]
    · unfold StepList.unpinned
      cases hp : m.steps.pinned <;> simp [h, h', hp]
  unfold State.stageStart
  simp only [hm, hlist, hx, hg]
  rw [if_neg (by rcases hphase with h | h <;> simp [hr, ho, hns, hmet, h]), State.granted_if]
  dsimp only
  rw [if_neg (by rw [hp]; simp)]
  show (match s.waitMet g x with | none => _ | some false => _ | some true => _) = _
  rw [hw]
  rfl

end

/-- What the start of an execution makes of its command. -/
theorem maps_stageStart (s : State) (c u e n : Nat) (a : List (Nat × Nat)) (q : StepProg) :
    Maps c u (fun m => { m with phase := .started, steps := q.begun e n }) s
      (((({ s with arb := a } : State).setPhase c u .started).prog c u fun _ => q).prog c u fun p => p.begun e n) :=
  ((Maps.trans (s := s) (maps_setPhase { s with arb := a } c u .started) (maps_prog _ c u fun _ => q) fun _ h => h).trans
    (maps_prog _ c u fun p => p.begun e n) fun _ h => h)

/-- Work that computes, with no tile command of it placed, runs whole. -/
theorem State.doStage_whole {s : State} {c i e : Nat} {m : Cmd} {l : StepList} {x : Execution} {g : Stage}
    (hrow : ((l.workOf g x).row c i).isSome = true) (ht : ∀ t, m.steps.tilesOf e = some t → t.1.length = t.2 ∧ t.2 ≠ 0) :
    s.doStage c m l e g x = s.runStage c m l g x (l.workOf g x) := by
  unfold State.doStage
  dsimp only
  rw [if_neg (by cases h : m.steps.tilesOf e with
    | none => simp
    | some t => simp [ht t h])]
  generalize l.workOf g x = w at *
  cases w <;> simp only [Work.row, Option.isSome_none, Bool.false_eq_true] at hrow
  all_goals rfl

/-- The progress of a list once execution e is done. -/
def StepList.ended (l : StepList) (now : Tick) (e : Nat) (p : StepProg) : StepProg :=
  l.unpinned { p with done := NatSet.add e p.done, tiles := p.tiles.filter fun t => t.1 != e } now

theorem StepList.ended_done (l : StepList) (now : Tick) (e : Nat) (p : StepProg) : NatSet.mem e (l.ended now e p).done = true := by
  unfold StepList.ended StepList.unpinned
  split <;> simp

/-- The run of an execution that is done. -/
theorem State.runStage_done {s : State} {c : Nat} {m : Cmd} {l : StepList} {x : Execution} {g : Stage} {w : Work} {mem : Mem} {sat : Bool}
    (hl : s.mem.latent = []) (hb : m.steps.pinned = true → (s.dieBuf.getD (s.ctx c).homeDie {}).latent = [])
    (h : runWork (s.workEnv m (l.philox g x)) (s.trapArmed c) w (if m.steps.pinned then l.overlay (s.ctx c).homeDie (s.dieBuf.getD (s.ctx c).homeDie {}) s.mem
      else s.mem) = .done mem sat) :
    ∃ m' e, s.runStage c m l g x w = (State.putCmd { s with mem := m', free := s.free + 1, dbg := { s.dbg with eccArmed := e } } c
        { m with sat := m.sat || sat }, true) ∧
      ∀ a, m'.byte a = (if m.steps.pinned then l.restore (s.ctx c).homeDie s.mem mem else mem).byte a := by
  obtain ⟨m', e, hc, hbyte, -⟩ := s.drawn.commit_spec (if m.steps.pinned then l.restore (s.ctx c).homeDie s.mem mem else mem) w.outs
  refine ⟨m', e, ?_, hbyte⟩
  have hpins : (s.settle w.ins (some c)).settlePins l m c w.ins = s := by
    rw [State.settle_clean _ _ _ hl, State.settlePins]
    split
    case isTrue hp => exact State.settleIn_clean s (.dieBuf (s.ctx c).homeDie) _ _ (hb hp)
    case isFalse => rfl
  unfold State.runStage
  dsimp only
  rw [hpins, h]
  dsimp only
  rw [hc]
  rfl

section
variable {s : State} {c i e : Nat} {m : Cmd} {l : StepList} {x : Execution} {g : Stage} (hm : (s.ctx c).cmd? i = some m)
  (hlist : m.list? = some l) (hx : l.execution e = some x) (hg : l.stageAt e = some g) (hr : s.ready c = true)
  (hs : NatSet.mem e m.steps.started = true) (hd : NatSet.mem e m.steps.done = false) (hsig : g.sigAddr = 0)
include hm hlist hx hg hr hs hd hsig

/-- The end of an execution that is over. -/
theorem State.stageEnd_over {t : State} {f : Cmd → Cmd} (hdo : s.doStage c m l e g x = (t, true)) (ht : Maps c m.uid f s t) :
    s.stageEnd c i e = (t.prog c m.uid (l.ended t.now e)).listEnd c m.uid := by
  have hpre : (((t.prog c m.uid (l.ended t.now e)).listEnd c m.uid).ctx c).preempted = false := by
    obtain ⟨f', hf, -, -⟩ := maps_listEnd (t.prog c m.uid (l.ended t.now e)) c m.uid
    rw [hf.ctx, (maps_prog t c m.uid (l.ended t.now e)).ctx, ht.ctx]
    exact State.not_preempted_of_ready hr
  unfold State.stageEnd
  simp only [hm, hlist, hx, hg]
  rw [if_neg (by simp [State.mayMove, hr, hs, hd]), hdo]
  simp only [Bool.not_true, Bool.false_eq_true, if_false, State.signalStage, hsig, if_true]
  exact State.phaseDebt_of_running hpre _

end

end Sys2Proof.Machine
end

open Sys2Proof Sys2Proof.Machine

/-- Settles O39: the start by `State.stageStart_eq`, the end by `State.stageEnd_over`. -/
theorem stageRule : Obligations.StageRule := by
  unfold Obligations.StageRule
  refine ⟨fun s c i e m l x g hm hlist hx hg => ⟨exec_stageStart_outOfOrder hm hlist hx hg, fun hr ho hns hmet hphase hpin hw => ?_⟩, ?_⟩
  · have hmaps := maps_stageStart s c m.uid e ((l.workOf g x).boxes (s.ctx c).homeDie).length
      (if s.isPhase g.work then (s.granted phaseRes c).arb else s.arb) (l.unpinned m.steps s.now)
    refine ⟨_, (exec_stageExecutionStart s c i e).trans (congrArg _ (State.stageStart_eq hm hlist hx hg hr ho hns hmet hphase hpin hw)), rfl, hmaps.kept, hmaps.all fun y _ _ => ⟨rfl, ?_⟩⟩
    simp [StepProg.begun]
  · intro s c i e m l x g hm hlist hx hg hr hs hd hsig hrow die view
    have hend := @State.stageEnd_over s c i e m l x g hm hlist hx hg hr hs hd hsig
    refine ⟨fun mem sat hl hb ht hrun => ?_, fun ht => ?_⟩
    · obtain ⟨m', ec, hstage, hbyte⟩ := State.runStage_done hl (fun _ => hb) hrun
      let u : State := { s with mem := m', free := s.free + 1, dbg := { s.dbg with eccArmed := ec } }
      have hput : Maps c m.uid (fun _ => { m with sat := m.sat || sat }) s (u.putCmd c { m with sat := m.sat || sat }) :=
        maps_putCmd u c { m with sat := m.sat || sat }
      have hdo : s.doStage c m l e g x = (u.putCmd c { m with sat := m.sat || sat }, true) := (State.doStage_whole hrow ht).trans hstage
      have hprog := hput.trans (maps_prog _ c m.uid (l.ended s.now e)) fun _ _ => rfl
      obtain ⟨f, hf, hsame, hsteps⟩ := maps_listEnd ((u.putCmd c { m with sat := m.sat || sat }).prog c m.uid (l.ended s.now e)) c m.uid
      have hall := hprog.trans hf fun _ _ => rfl
      refine ⟨_, (exec_stageExecutionDone s c i e).trans (congrArg _ (hend hdo hput)), fun a => ?_, hall.kept, ?_, ?_, hall.all fun y _ _ => ?_⟩
      · rw [show (u.putCmd c { m with sat := m.sat || sat }).now = s.now from rfl, hsame]
        exact hbyte a
      · rw [show (u.putCmd c { m with sat := m.sat || sat }).now = s.now from rfl, hsame]
        rfl
      · rw [show (u.putCmd c { m with sat := m.sat || sat }).now = s.now from rfl, hsame]
        rfl
      · rw [(hsteps _).1]
        exact l.ended_done s.now e m.steps
    · have hdo : s.doStage c m l e g x = (s, true) := by
        unfold State.doStage
        simp [ht]
      obtain ⟨f, hf, hsame, hsteps⟩ := maps_listEnd (s.prog c m.uid (l.ended s.now e)) c m.uid
      have hall := (maps_prog s c m.uid (l.ended s.now e)).trans hf fun _ h => h
      refine ⟨_, (exec_stageExecutionDone s c i e).trans (congrArg _ (hend hdo (.refl rfl))), hsame, hall.kept, hall.all fun y _ _ => ?_⟩
      rw [(hsteps _).1]
      exact l.ended_done s.now e y.steps

section
/-! PROOFS. Deadlines of step lists. -/

namespace Sys2Proof.Machine

/-- The place of the next deadline-miss record of a context. -/
def Ctx.missArea (x : Ctx) (b : CtxBlock) : List (Nat × Nat) :=
  if b.dlmBase = 0 then [] else [(b.dlmBase + 32 * (x.dseq % 2 ^ b.logDlm), 32)]

/-- A deadline-miss record is one write of its place, or nothing where the context has no area. -/
theorem State.missWrite_spec {s : State} {c : Nat} {b : CtxBlock} (hb : (s.ctx c).blk = some b) (hl : s.mem.latent = [])
    (hw : Memory.wf s.mem = true) (d : Nat) (time : Tick) (seq : Word) (cnt wait kind core step stage : Nat) :
    ∃ mem e k, s.missWrite c d time seq cnt wait kind core step stage =
      { s with mem := mem, counters := k, dbg := { s.dbg with eccArmed := e } } ∧
      SameOutside s.mem mem (if b.dlmBase = 0 then [] else [(b.dlmBase + 32 * (d % 2 ^ b.logDlm), 32)]) := by
  have hwrite (a v : Nat) : ∃ mem e k, s.hubWrite a (leBytes 32 v) false = { s with mem := mem, counters := k, dbg := { s.dbg with eccArmed := e } } ∧
      SameOutside s.mem mem [(a, 32)] := by
    obtain ⟨mem, e, k, h, -, hout, -⟩ := s.hubWrite_spec a (leBytes 32 v) false hl hw
    rw [leBytes_length] at hout
    exact ⟨mem, e, k, h, hout⟩
  unfold State.missWrite
  simp only [hb]
  split
  case isTrue => exact ⟨s.mem, s.dbg.eccArmed, s.counters, rfl, .refl _ _⟩
  case isFalse => exact hwrite _ _

theorem State.deadlineMiss_eq (s : State) (c u d : Nat) (time : Tick) (seq : Word) (cnt wait kind core step stage : Nat) :
    s.deadlineMiss c u d time seq cnt wait kind core step stage =
      ((s.setCtx c ((s.ctx c).mapCmd u fun m => { m with dlmiss := true })).count (9584 + 6 * c + 4) 1).missWrite c d time seq cnt wait kind core step stage :=
  rfl

/-- A failed check of a list: one record, counted, and its command's record will tell. -/
theorem State.missCheck_spec {s : State} {c u : Nat} {b : CtxBlock} (hc : c < s.ctxs.length) (hb : (s.ctx c).blk = some b)
    (hl : s.mem.latent = []) (hw : Memory.wf s.mem = true) (seq : Word) (kind step : Nat) :
    ∃ mem e k, s.missCheck c u seq kind step = { s with
      mem := mem, counters := k, dbg := { s.dbg with eccArmed := e }
      ctxs := s.ctxs.set c { (s.ctx c).mapCmd u (fun m => { m with dlmiss := true }) with dseq := (s.ctx c).dseq + 1 } } ∧
      SameOutside s.mem mem ((s.ctx c).missArea b) := by
  let x : Ctx := { s.ctx c with dseq := (s.ctx c).dseq + 1 }
  let u' : State := (s.setCtx c x).setCtx c (x.mapCmd u fun m => { m with dlmiss := true })
  let v : State := u'.count (9584 + 6 * c + 4) 1
  have hx : (s.setCtx c x).ctx c = x := State.ctx_setCtx_self hc x
  have hv : v.ctx c = x.mapCmd u fun m => { m with dlmiss := true } := State.ctx_setCtx_self (s := s.setCtx c x) (by simpa using hc) _
  obtain ⟨mem, e, k, h, hout⟩ := State.missWrite_spec (s := v) (c := c) (b := b) (by rw [hv]; exact hb) hl hw (s.ctx c).dseq s.now seq 1 0 kind 0 step 0
  have hcheck : s.missCheck c u seq kind step = v.missWrite c (s.ctx c).dseq s.now seq 1 0 kind 0 step 0 := by
    rw [State.missCheck, State.deadlineMiss_eq]
    show State.missWrite (State.count ((s.setCtx c x).setCtx c (((s.setCtx c x).ctx c).mapCmd u fun m => { m with dlmiss := true })) _ 1) ..  = _
    rw [hx]
  refine ⟨mem, e, k, hcheck.trans (h.trans ?_), hout⟩
  show ({ u' with mem := mem, counters := k, dbg := { s.dbg with eccArmed := e } } : State) = _
  simp only [u', State.setCtx, List.set_set]
  rfl

section
variable {s : State} {c i : Nat} {m : Cmd} {l : StepList} (hm : (s.ctx c).cmd? i = some m) (ho : m.openList? = some l)
include hm ho

theorem exec_stepBudgetCheck {st : Nat} (hup : s.up = true) (ha : (s.ctx c).alive = true) (hb : l.stepBudget ≠ 0) (hp : m.steps.pinned = true)
    (hst : st < l.steps) (hck : NatSet.mem st m.steps.checkedSteps = false) (hdue : m.steps.start.toNat + (st + 1) * l.stepBudget ≤ s.now.toNat) :
    exec (.stepBudgetCheck c i st) s = .next (
      let u := s.prog c m.uid fun p => { p with checkedSteps := NatSet.add st p.checkedSteps }
      if st < m.steps.stepsDone then u else u.missCheck c m.uid m.seq 2 st) := by
  simp only [exec, execStepBudgetCheck, hm, ho]
  rw [if_neg]
  simp only [hup, ha, hp, hck, Bool.not_true, Bool.or_self, Bool.false_or, Bool.or_false, Bool.or_eq_true, beq_iff_eq, decide_eq_true_eq]
  omega

theorem exec_deadlineCheck_early (h : s.now.toNat < l.deadline) : exec (.deadlineCheck c i) s = .next s := by
  simp only [exec, execDeadlineCheck, hm, ho]
  rw [if_pos (by simp [h])]

theorem exec_deadlineCheck_due (hup : s.up = true) (ha : (s.ctx c).alive = true) (hd : l.deadline ≠ 0) (hck : m.steps.deadlineChecked = false)
    (h : l.deadline ≤ s.now.toNat) : exec (.deadlineCheck c i) s = .next (
      (s.prog c m.uid fun p => { p with deadlineChecked := true }).missCheck c m.uid m.seq 3 0x7FF) := by
  simp only [exec, execDeadlineCheck, hm, ho]
  rw [if_neg]
  simp only [hup, ha, hck, Bool.not_true, Bool.or_self, Bool.false_or, Bool.or_false, Bool.or_eq_true, beq_iff_eq, decide_eq_true_eq]
  omega

end

/-- A miss after a change of the list's progress. -/
theorem State.missCheck_prog {s : State} {c u : Nat} {b : CtxBlock} (hc : c < s.ctxs.length) (hb : (s.ctx c).blk = some b)
    (hl : s.mem.latent = []) (hw : Memory.wf s.mem = true) (f : StepProg → StepProg) (seq : Word) (kind step : Nat) :
    let t := (s.prog c u f).missCheck c u seq kind step
    t.cores = s.cores ∧ SameOutside s.mem t.mem ((s.ctx c).missArea b) ∧ OtherCommandsKept s t c u ∧ (t.ctx c).dseq = (s.ctx c).dseq + 1 ∧
      ∀ y ∈ (t.ctx c).cmds, y.uid = u → y.dlmiss = true := by
  intro t
  have hprog := maps_prog s c u f
  have hlen : c < (s.prog c u f).ctxs.length := by rw [hprog, List.length_set]; exact hc
  obtain ⟨mem, e, k, h, hout⟩ := State.missCheck_spec (s := s.prog c u f) (u := u) hlen (by rw [hprog.ctx]; exact hb) hl hw seq kind step
  obtain ⟨hself, hother⟩ := State.ctx_of_set (t := t) hlen (by rw [show t = _ from h])
  have hcmds : (t.ctx c).cmds = ((s.ctx c).mapCmd u fun m => { m with steps := f m.steps, dlmiss := true }).cmds := by
    rw [hself, hprog.ctx]
    have htwice := congrArg Ctx.cmds (Ctx.mapCmd_mapCmd (s.ctx c) u (f := fun m => { m with steps := f m.steps }) (fun m => { m with dlmiss := true }) fun _ h => h)
    exact htwice
  refine ⟨by rw [show t = _ from h]; rfl, ?_, otherCommandsKept_of_cmds (fun d hd => (hother d hd).trans (hprog.kept.1 d hd)) hcmds, ?_, fun y hy hu => ?_⟩
  · rw [hprog.ctx] at hout
    rw [show t = _ from h]
    exact hout
  · rw [hself, hprog.ctx]
    rfl
  · rw [hcmds] at hy
    obtain ⟨z, -, rfl⟩ := List.mem_map.mp hy
    split at hu
    · rw [if_pos ‹_›]
    · exact absurd hu ‹_›

end Sys2Proof.Machine
end

open Sys2Proof Sys2Proof.Machine

/-- Settles O41: both checks end in `State.missCheck`, whose record `State.missCheck_prog` frames. -/
theorem deadlineRule : Obligations.DeadlineRule := by
  unfold Obligations.DeadlineRule
  intro s c i m l b hm ho hup ha hb hw hl area
  have hlive : (s.ctx c).live = true := by simp only [Ctx.alive, Bool.and_eq_true] at ha; exact ha.1
  have hmiss := fun f seq kind step => State.missCheck_prog (u := m.uid) (State.ctx_lt_of_live hlive) hb hl hw.1 f seq kind step
  refine ⟨fun st hbud hp hst hck hdue => ?_, fun hd hck => ⟨exec_deadlineCheck_early hm ho, fun hdue => ?_⟩⟩
  · rw [exec_stepBudgetCheck hm ho hup ha hbud hp hst hck hdue]
    dsimp only
    by_cases hdone : st < m.steps.stepsDone
    · rw [if_pos hdone]
      have hprog := maps_prog s c m.uid fun p => { p with checkedSteps := NatSet.add st p.checkedSteps }
      refine ⟨_, rfl, rfl, .refl _ _, hprog.kept, fun _ => ⟨by rw [hprog.ctx]; rfl, hprog.all fun z hz hu => ⟨z, hz, hu, rfl⟩⟩, fun h => absurd hdone (by omega)⟩
    · rw [if_neg hdone]
      obtain ⟨h1, h2, h3, h4, h5⟩ := hmiss (fun p => { p with checkedSteps := NatSet.add st p.checkedSteps }) m.seq 2 st
      exact ⟨_, rfl, h1, h2, h3, fun h => absurd h hdone, fun _ => ⟨h4, h5⟩⟩
  · rw [exec_deadlineCheck_due hm ho hup ha hd hck hdue]
    exact ⟨_, rfl, hmiss _ m.seq 3 0x7FF⟩

section
/-! PROOFS. Pinned copies. -/

namespace Sys2Proof.Machine

/-! ### Copies of ranges -/

section
variable {α : Type} {d : α} {k : Nat}

theorem Cells.get_of_notMem {l : List (Nat × α)} (h : ∀ e ∈ l, e.1 ≠ k) : Cells.get d k l = d := by
  induction l with
  | nil => rfl
  | cons e r ih => rw [Cells.get, if_neg (h e List.mem_cons_self), ih fun x hx => h x (List.mem_cons_of_mem _ hx)]

theorem Cells.get_append_right {l : List (Nat × α)} (h : ∀ e ∈ l, e.1 ≠ k) (r : List (Nat × α)) : Cells.get d k (l ++ r) = Cells.get d k r := by
  induction l with
  | nil => rfl
  | cons e l ih => rw [List.cons_append, Cells.get, if_neg (h e List.mem_cons_self), ih fun x hx => h x (List.mem_cons_of_mem _ hx)]

theorem Cells.get_append_left (l : List (Nat × α)) {r : List (Nat × α)} (h : ∀ e ∈ r, e.1 ≠ k) : Cells.get d k (l ++ r) = Cells.get d k l := by
  induction l with
  | nil => exact Cells.get_of_notMem h
  | cons e l ih => rw [List.cons_append, Cells.get, Cells.get, ih]

/-- A selection by key keeps what the selected keys read as. -/
theorem Cells.get_filter {p : Nat × α → Bool} (hp : ∀ v, p (k, v) = true) (l : List (Nat × α)) : Cells.get d k (l.filter p) = Cells.get d k l := by
  induction l with
  | nil => rfl
  | cons e l ih =>
    obtain ⟨j, v⟩ := e
    by_cases hj : j = k
    · subst hj
      rw [List.filter_cons_of_pos (hp v), Cells.get, Cells.get, if_pos rfl, if_pos rfl]
    · by_cases hpj : p (j, v) = true
      · rw [List.filter_cons_of_pos hpj, Cells.get, Cells.get, if_neg hj, if_neg hj, ih]
      · rw [List.filter_cons_of_neg hpj, Cells.get, if_neg hj, ih]

end

/-- What a key of the range copied reads as. -/
theorem splice_get_inside {α : Type} {d : α} (a b n : Nat) (l m : List (Nat × α)) {i : Nat} (hi : i < n) :
    Cells.get d (a + i) (splice 1 a b n l m) = Cells.get d (b + i) m := by
  simp only [splice, Nat.div_one, List.append_assoc]
  rw [Cells.get_append_right (by simp; omega), Cells.get_append_left _ (by simp; omega)]
  have hshift : ∀ q : List (Nat × α), (∀ e ∈ q, b ≤ e.1) → Cells.get d (a + i) (q.map fun e => (e.1 - b + a, e.2)) = Cells.get d (b + i) q := by
    intro q hq
    induction q with
    | nil => rfl
    | cons e q ih =>
      have hb := hq e List.mem_cons_self
      rw [List.map_cons, Cells.get, Cells.get, ih fun x hx => hq x (List.mem_cons_of_mem _ hx)]
      simp only [show (e.1 - b + a = a + i) ↔ (e.1 = b + i) by omega]
  rw [hshift _ (by simp +contextual), Cells.get_filter]
  simp
  omega

theorem splice_get_outside {α : Type} {d : α} (a b n : Nat) (l m : List (Nat × α)) {x : Nat} (hx : x < a ∨ a + n ≤ x) :
    Cells.get d x (splice 1 a b n l m) = Cells.get d x l := by
  simp only [splice, Nat.div_one, List.append_assoc]
  rcases hx with hx | hx
  · rw [Cells.get_append_left _ (by simp; omega), Cells.get_filter (by simp [hx])]
  · rw [Cells.get_append_right (by simp; omega), Cells.get_append_right (by simp; omega), Cells.get_filter (by simp [hx])]

/-- A grafted range reads as the other memory's, and the rest as before. -/
theorem Mem.graft_byte {dst : Mem} (src : Mem) (u a b n : Nat) (hd : Memory.wf dst = true) :
    (∀ i < n, (dst.graft src u a b n).byte (a + i) = src.byte (b + i)) ∧ ∀ x, (x < a ∨ a + n ≤ x) → (dst.graft src u a b n).byte x = dst.byte x := by
  by_cases hplain : dst.fill = none ∧ src.fill = none
  · obtain ⟨hdf, hsf⟩ := hplain
    have hcells : (dst.graft src u a b n).cells = splice 1 a b n dst.cells src.cells := by simp [Mem.graft, hdf, hsf]
    have hfill : (dst.graft src u a b n).fill = none := hdf
    refine ⟨fun i hi => ?_, fun x hx => ?_⟩
    · simp only [Mem.byte, Mem.against, hfill, hsf, hcells, splice_get_inside a b n dst.cells src.cells hi]
    · simp only [Mem.byte, Mem.against, hfill, hdf, hcells, splice_get_outside a b n dst.cells src.cells hx]
  · have hcells : (dst.graft src u a b n).cells = Cells.setRun unlisted a (dst.coded a (src.read b n)) dst.cells := by
      unfold Mem.graft
      cases hdf : dst.fill <;> cases hsf : src.fill <;> simp_all
    have hag : ∀ x v, (dst.graft src u a b n).against x v = dst.against x v := fun _ _ => rfl
    refine ⟨fun i hi => ?_, fun x hx => ?_⟩
    · have hlen : i < (src.read b n).length := by simpa [Mem.read] using hi
      rw [Mem.byte, hag, hcells, Cells.get_setRun_inside unlisted _ a i dst.cells hd (by simpa using hlen), Mem.coded_getElem dst _ a i hlen,
        Mem.against_against]
      simp [Mem.read]
    · rw [Mem.byte, hag, hcells, Cells.get_setRun_outside unlisted _ a x dst.cells (by simpa [Mem.read] using hx)]
      rfl

end Sys2Proof.Machine
end

section
/-! PROOFS. The copy of the pins of a step list. -/

namespace Sys2Proof.Machine

/-- Bytes that land in a die buffer; an armed ECC injection takes the line of it that it names. -/
def State.landed (s : State) (d a n : Nat) (m : Mem) : State :=
  match s.eccHits 1 d 64 a n with
  | none => { s with dieBuf := s.dieBuf.set d m }
  | some x => { s with dieBuf := s.dieBuf.set d { m with latent := Cells.set 0 x s.eccSyms m.latent }
                       dbg := { s.dbg with eccArmed := false } }

/-- The counts of the transfer of a pinned range to die d. -/
def State.pinMoves (s : State) (p : Pin) (d : Nat) : State :=
  (((s.settle [(p.src, p.bytes)]).carryFrom [(p.src, p.bytes)] d).dieFerry d p.bytes).count (4704 + 4 * d + 1) p.bytes

/-- The copy of one pinned range to die d, where the range names it. -/
def State.copyPin (s : State) (p : Pin) (d : Nat) : State :=
  if !bit1 p.dies d then s
  else
    let s := s.pinMoves p d
    s.landed d (p.dbOff * 64) p.bytes ((s.dieBuf.getD d {}).graft s.mem 64 (p.dbOff * 64) p.src p.bytes)

theorem State.copyPins_eq (s : State) (l : StepList) : s.copyPins l = l.pins.foldl (fun s p => (List.range 4).foldl (fun s d => s.copyPin p d) s) s := rfl

/-- Beside counters and draws only die buffers and an ECC injection differ, and the die buffers are in canonical form. -/
def BuffersOnly (s t : State) : Prop :=
  ∃ k f b e, t = { s with counters := k, free := f, dieBuf := b, dbg := { s.dbg with eccArmed := e } } ∧ b.length = s.dieBuf.length ∧
    ∀ m ∈ b, Memory.wf m = true

theorem State.landed_spec (s : State) (d a n : Nat) (m : Mem) :
    ∃ e lat, s.landed d a n m = { s with dbg := { s.dbg with eccArmed := e }, dieBuf := s.dieBuf.set d { m with latent := lat } } := by
  unfold State.landed
  split
  · exact ⟨s.dbg.eccArmed, m.latent, rfl⟩
  · exact ⟨_, _, rfl⟩

theorem State.count_eq (s : State) (i n : Nat) :
    s.count i n = { s with counters := Cells.set 0 i ((Cells.get 0 i s.counters + n) % 2 ^ 64) s.counters } := rfl

theorem State.dieFerry_shape (s : State) (d n : Nat) : ∃ k, s.dieFerry d n = { s with counters := k, free := s.free + 1 } := by
  unfold State.dieFerry
  generalize 4608 + 3 * (8 * d + Config.freeNat s.free % 8) = f
  dsimp only
  rw [State.count_eq s f n]
  generalize Cells.set 0 f _ _ = k
  rw [State.count_eq]
  exact ⟨_, rfl⟩

theorem State.pinMoves_spec {s : State} (p : Pin) (d : Nat) (hl : s.mem.latent = []) : ∃ k f, s.pinMoves p d = { s with counters := k, free := f } := by
  obtain ⟨k, hcarry⟩ := s.carryFrom_shape [(p.src, p.bytes)] d
  obtain ⟨k', hferry⟩ := State.dieFerry_shape { s with counters := k } d p.bytes
  rw [State.pinMoves, State.settle_clean _ _ _ hl, hcarry, hferry]
  exact ⟨_, s.free + 1, State.count_eq _ _ _⟩

/-- The die buffer of die d once a pinned range is copied into it. -/
def Pin.copied (p : Pin) (mem buf : Mem) (lat : List (Nat × Nat)) : Mem := { buf.graft mem 64 (p.dbOff * 64) p.src p.bytes with latent := lat }

theorem Pin.byte_copied (p : Pin) (mem buf : Mem) (lat : List (Nat × Nat)) (a : Nat) :
    (p.copied mem buf lat).byte a = (buf.graft mem 64 (p.dbOff * 64) p.src p.bytes).byte a := rfl

/-- What the copy of a pinned range does to the die buffers. -/
theorem State.copyPin_spec {s : State} (p : Pin) (d : Nat) (hl : s.mem.latent = []) :
    (bit1 p.dies d = false → s.copyPin p d = s) ∧
    (bit1 p.dies d = true → ∃ k f e lat, s.copyPin p d = { s with
      counters := k, free := f, dbg := { s.dbg with eccArmed := e }
      dieBuf := s.dieBuf.set d (p.copied s.mem (s.dieBuf.getD d {}) lat) }) := by
  refine ⟨fun h => by rw [State.copyPin, if_pos (by rw [h]; rfl)], fun h => ?_⟩
  obtain ⟨k, f, hmoves⟩ := State.pinMoves_spec p d hl
  rw [State.copyPin, if_neg (by rw [h]; simp), hmoves]
  obtain ⟨e, lat, hland⟩ := State.landed_spec { s with counters := k, free := f } d (p.dbOff * 64) p.bytes
    ((s.dieBuf.getD d {}).graft s.mem 64 (p.dbOff * 64) p.src p.bytes)
  exact ⟨k, f, e, lat, hland⟩

section
variable {s t : State} {p : Pin}

theorem BuffersOnly.copyPin (hs : s.Canonical) (hl : s.mem.latent = []) (h : BuffersOnly s t) (p : Pin) (d : Nat) : BuffersOnly s (t.copyPin p d) := by
  obtain ⟨k, f, b, e, rfl, hlen, hwf⟩ := h
  obtain ⟨hskip, hcopy⟩ := State.copyPin_spec (s := { s with counters := k, free := f, dieBuf := b, dbg := { s.dbg with eccArmed := e } }) p d hl
  cases hd : bit1 p.dies d with
  | false =>
    rw [hskip hd]
    exact ⟨k, f, b, e, rfl, hlen, hwf⟩
  | true =>
    obtain ⟨k', f', e', lat, hc⟩ := hcopy hd
    refine ⟨k', f', _, e', hc, by simp [hlen], fun m hm => ?_⟩
    rcases List.mem_or_eq_of_mem_set hm with hm | rfl
    · exact hwf m hm
    · refine Mem.graft_wf (b.getD d {}) s.mem 64 (p.dbOff * 64) p.src p.bytes ?_ hs.1
      rw [List.getD_eq_getElem?_getD]
      cases hg : b[d]? with
      | none => rfl
      | some m => exact hwf m (List.mem_of_getElem? hg)

/-- A range that reads in a die as in device memory. -/
def Pinned (s : State) (p : Pin) (d : Nat) (t : State) : Prop :=
  ∀ j < p.bytes, (t.dieBuf.getD d {}).byte (p.dbOff * 64 + j) = s.mem.byte (p.src + j)

theorem BuffersOnly.wf (h : BuffersOnly s t) (d : Nat) : Memory.wf (t.dieBuf.getD d {}) = true := by
  obtain ⟨k, f, b, e, rfl, -, hwf⟩ := h
  show Memory.wf (b.getD d {}) = true
  rw [List.getD_eq_getElem?_getD]
  cases hg : b[d]? with
  | none => rfl
  | some m => exact hwf m (List.mem_of_getElem? hg)

theorem Pinned.copyPin_self (hl : s.mem.latent = []) (h : BuffersOnly s t) {d : Nat} (hd : d < s.dieBuf.length) (hp : bit1 p.dies d = true) :
    Pinned s p d (t.copyPin p d) := by
  have hwf := h.wf d
  obtain ⟨k, f, b, e, rfl, hlen, -⟩ := h
  obtain ⟨k', f', e', lat, hc⟩ := (State.copyPin_spec (s := { s with counters := k, free := f, dieBuf := b, dbg := { s.dbg with eccArmed := e } }) p d hl).2 hp
  intro j hj
  rw [hc]
  show ((b.set d (p.copied s.mem (b.getD d {}) lat)).getD d {}).byte _ = _
  rw [list_getD_set_self (show d < b.length by omega), Pin.byte_copied]
  exact (Mem.graft_byte s.mem 64 (p.dbOff * 64) p.src p.bytes hwf).1 j hj

theorem Pinned.copyPin_ne (hl : s.mem.latent = []) (h : BuffersOnly s t) {d e : Nat} (hne : e ≠ d) (hp : Pinned s p d t) : Pinned s p d (t.copyPin p e) := by
  obtain ⟨k, f, b, a, rfl, hlen, -⟩ := h
  obtain ⟨hskip, hcopy⟩ := State.copyPin_spec (s := { s with counters := k, free := f, dieBuf := b, dbg := { s.dbg with eccArmed := a } }) p e hl
  cases hd : bit1 p.dies e with
  | false => rwa [hskip hd]
  | true =>
    obtain ⟨k', f', e', lat, hc⟩ := hcopy hd
    intro j hj
    rw [hc]
    show ((b.set e (p.copied s.mem (b.getD e {}) lat)).getD d {}).byte _ = _
    rw [list_getD_set_ne (Ne.symm hne)]
    exact hp j hj

end

theorem BuffersOnly.refl {s : State} (hs : s.Canonical) : BuffersOnly s s := ⟨_, _, _, _, rfl, rfl, hs.2⟩

/-- The copy of the pins. -/
theorem State.copyPins_spec {s : State} (l : StepList) (hs : s.Canonical) (hl : s.mem.latent = []) :
    BuffersOnly s (s.copyPins l) ∧ ∀ p d, l.pins = [p] → d < 4 → d < s.dieBuf.length → bit1 p.dies d = true → Pinned s p d (s.copyPins l) := by
  rw [State.copyPins_eq]
  refine ⟨?_, fun p d hp hd hlen hbit => ?_⟩
  · refine List.foldlRecOn l.pins _ (.refl hs) fun t ht p _ => ?_
    exact List.foldlRecOn (List.range 4) _ ht fun t ht d _ => ht.copyPin hs hl p d
  · rw [hp, List.foldl_cons, List.foldl_nil]
    refine (foldl_establishes (Q := BuffersOnly s) (P := fun t => BuffersOnly s t ∧ Pinned s p d t) (List.mem_range.2 hd) (fun e _ t ht => ht.copyPin hs hl p e)
      (fun e _ t ht hpin => ⟨ht.copyPin hs hl p e, ?_⟩) (fun t ht => ⟨ht.copyPin hs hl p d, .copyPin_self hl ht hlen hbit⟩) (.refl hs)).2
    by_cases he : e = d
    · subst he
      exact .copyPin_self hl ht hlen hbit
    · exact hpin.2.copyPin_ne hl ht he

theorem exec_pinCopyDone (s : State) (c i : Nat) : exec (.pinCopyDone c i) s = .next (s.pinCopy c i) := rfl

section
variable {s : State} {c i : Nat} {m : Cmd} {l : StepList} (hm : (s.ctx c).cmd? i = some m) (hlist : m.list? = some l)
include hm hlist

theorem State.pinCopy_eq (hr : s.ready c = true) (ho : (s.ctx c).inOrder i m = true) (hp : m.steps.pinned = false) (hd : l.prefixDone m.steps = true) :
    s.pinCopy c i = ((s.copyPins l).setPhase c m.uid .started).prog c m.uid fun p => { p with pinned := true, start := s.now } := by
  simp only [State.pinCopy, hm, hlist]
  rw [if_pos (by simp [hr, ho, hp, hd])]

theorem State.pinCopy_of_pinned (hp : m.steps.pinned = true) : s.pinCopy c i = s := by
  simp only [State.pinCopy, hm, hlist]
  rw [if_neg (by simp [hp])]

end

end Sys2Proof.Machine
end

section
/-! PROOFS. Steps of a step list, and STEPLIST. -/

namespace Sys2Proof.Machine

theorem exec_stepComplete (s : State) (c i st : Nat) : exec (.stepComplete c i st) s = .next (s.stepEnd c i st) := rfl

theorem Ctx.byUid_mapCmd (x : Ctx) (u v : Nat) {f : Cmd → Cmd} (hf : ∀ m, m.uid = u → (f m).uid = u) :
    (x.mapCmd u f).byUid v = (x.byUid v).map fun m => if m.uid = u then f m else m := by
  have huid : ∀ m : Cmd, (if m.uid = u then f m else m).uid = m.uid := by
    intro m
    split
    case isTrue h => rw [hf m h, h]
    case isFalse => rfl
  simp only [Ctx.byUid, Ctx.mapCmd, List.find?_map, Function.comp_def, huid]

section
variable {s t : State} {c u : Nat} {m : Cmd} {f : Cmd → Cmd}

/-- The command of a number after a change of it. -/
theorem Maps.byUid (h : Maps c u f s t) (hm : (s.ctx c).byUid u = some m) (hf : ∀ m, m.uid = u → (f m).uid = u) : (t.ctx c).byUid u = some (f m) := by
  have hu : m.uid = u := by simpa using List.find?_some hm
  rw [h.ctx, Ctx.byUid_mapCmd _ _ _ hf, hm, Option.map_some, if_pos hu]

theorem Maps.cmd? {i : Nat} (h : Maps c m.uid f s t) (hm : (s.ctx c).cmd? i = some m) : (t.ctx c).cmd? i = some (f m) := by
  rw [h.ctx, Ctx.cmd?_mapCmd, hm, Option.map_some, if_pos rfl]

/-- A change of commands leaves the context as ready as it was. -/
theorem Maps.ready (h : Maps c u f s t) (ha : t.awake = s.awake) : t.ready c = s.ready c := by
  rw [State.ready, State.ready, h.ctx, ha]
  rfl

/-- A list that is over completes. -/
theorem State.listEnd_over {l : StepList} (hm : (s.ctx c).byUid u = some m) (hlist : m.list? = some l) (hr : s.ready c = true)
    (ht : l.total ≤ m.steps.done.length) (hs : l.steps ≤ m.steps.stepsDone) (ha : s.awaits c u = false) : s.listEnd c u = s.finish c u := by
  have halted : (s.ctx c).halted = false := by
    simp only [State.ready, Ctx.runs, Bool.and_eq_true, Bool.not_eq_true'] at hr
    exact hr.1.2.1.1.2
  unfold State.listEnd
  simp only [hm, hlist]
  rw [if_pos (by simp [State.alive_of_ready hr, halted, ht, hs, ha])]

/-- A list with a step left is not over. -/
theorem State.listEnd_open {l : StepList} (hm : (s.ctx c).byUid u = some m) (hlist : m.list? = some l) (hs : m.steps.stepsDone < l.steps) :
    s.listEnd c u = s := by
  unfold State.listEnd
  simp only [hm, hlist]
  rw [if_neg (by simp [hs])]

end

section
variable {s : State} {c i st : Nat} {m : Cmd} {l : StepList} (hm : (s.ctx c).cmd? i = some m) (hlist : m.list? = some l)
include hm hlist

theorem State.stepEnd_early (h : m.steps.stepsDone ≠ st ∨ l.steps ≤ st ∨ l.stepDone m.steps st = false) : s.stepEnd c i st = s := by
  simp only [State.stepEnd, hm, hlist]
  rw [if_neg]
  rcases h with h | h | h
  · simp [h]
  · simp [Nat.not_lt.2 h]
  · simp [h]

/-- What asks on behalf of a list whose step t is complete. -/
def stepAsker (c u t : Nat) : Asker := ({ stage := 0, phase := 1, step := t } : Execution).asker c u none false

theorem State.stepEnd_eq (hr : s.ready c = true) (h : m.steps.stepsDone = st) (hlt : st < l.steps) (hd : l.stepDone m.steps st = true) :
    s.stepEnd c i st = ((s.prog c m.uid fun p => { p with stepsDone := st + 1 }).signalStage (stepAsker c m.uid st) l.stepSlip 1).listEnd c m.uid := by
  simp only [State.stepEnd, hm, hlist]
  rw [if_pos (by simp [hr, h, hlt, hd])]
  rfl

end

/-- An advance of a slipway of this device. -/
theorem State.signalStage_here {s : State} {w : Asker} {addr a : Nat} (h0 : addr ≠ 0) (hp : s.place addr = .here a) (hl : s.mem.latent = [])
    (hpz : s.mem.poisoned 64 a 4 = false) (inc : Nat) : s.signalStage w addr inc = s.slipAdd a inc := by
  rw [State.signalStage, if_neg h0, State.signal, hp]
  dsimp only
  rw [State.settle_clean _ _ _ hl, if_neg (by simp [hpz])]
  rfl

/-! ### Rows in order -/

/-- Rows that always answer a next state, and which. -/
def Rows (rows : List Instr) (f : State → State) : Prop := ∀ s, runRows rows s = .next (f s)

section
variable {rows rows' : List Instr} {f g : State → State}

theorem Rows.one {r : Instr} (h : ∀ s, exec r s = .next (f s)) : Rows [r] f := h

theorem Rows.append (h : Rows rows f) (h' : Rows rows' g) : Rows (rows ++ rows') fun s => g (f s) := by
  intro s
  have hf := h s
  rw [runRows, List.foldl_append]
  rw [runRows] at hf
  rw [hf]
  exact h' (f s)

theorem Rows.flatMap {r : Nat → List Instr} {f : Nat → State → State} (h : ∀ k, Rows (r k) (f k)) (ks : List Nat) :
    Rows (ks.flatMap r) fun s => ks.foldl (fun s k => f k s) s := by
  induction ks with
  | nil => exact fun _ => rfl
  | cons k ks ih => exact (h k).append ih

end

theorem rows_span (c i a n : Nat) : Rows (spanRows c i a n) fun s => s.listSpan c i a n :=
  .flatMap (fun k => (Rows.one (exec_stageExecutionStart · c i (a + k))).append (.one (exec_stageExecutionDone · c i (a + k)))) (List.range n)

/-- STEPLIST does what its rows do. -/
theorem rows_list (l : StepList) (c i : Nat) : Rows (l.rows c i) fun s => s.runList c i l :=
  (((rows_span c i 0 _).append (.one (exec_pinCopyDone · c i))).append
    (.flatMap (fun t => (rows_span c i _ _).append (.one (exec_stepComplete · c i t))) (List.range l.steps))).append (rows_span c i _ _)

theorem exec_steplist {s : State} {c i : Nat} {m : Cmd} {l : StepList} (hm : (s.ctx c).cmd? i = some m) (hlist : m.list? = some l)
    (hr : s.ready c = true) (ho : (s.ctx c).inOrder i m = true) : exec (.steplist c i) s = .next (s.runList c i l) := by
  simp only [exec, execSteplist, hm, hlist]
  rw [if_pos (by simp [hr, ho])]

/-! ### A list of one stage before its steps -/

/-- A run that is done with traps armed is done in the same way without. -/
theorem runWork_unarmed {we : WorkEnv} {armed : Bool} {w : Work} {mem mem' : Mem} {sat : Bool} (h : runWork we armed w mem = .done mem' sat) :
    runWork we false w mem = .done mem' sat := by
  cases armed with
  | false => exact h
  | true =>
    unfold runWork at h ⊢
    dsimp only at h ⊢
    split at h
    · cases h
    · rename_i hin
      rw [if_neg hin]
      split at h
      · cases h
      · rename_i hover
        rw [if_neg hover]
        cases hn : (w.eval we { mem := mem }).nan with
        | none => rwa [hn] at h
        | some n =>
          rw [hn] at h
          dsimp only at h
          rw [if_pos rfl] at h
          split at h
          · cases h
          · cases h

/-- A command that starts does not arm traps. -/
theorem Maps.trapArmed {s t : State} {c u : Nat} {q : StepProg} (h : Maps c u (fun m => { m with phase := .started, steps := q }) s t) :
    t.trapArmed c = true → s.trapArmed c = true := by
  intro ht
  rw [State.trapArmed, h.ctx] at ht
  simp only [Ctx.mapCmd, Bool.and_eq_true, Bool.not_eq_true', List.any_map, List.any_eq_false, Function.comp_apply] at ht
  simp only [State.trapArmed, Bool.and_eq_true, Bool.not_eq_true', List.any_eq_false]
  refine ⟨ht.1, fun m hm => ?_⟩
  have := ht.2 m hm
  by_cases hu : m.uid = u
  · rw [if_pos hu] at this
    intro hd
    exact this ⟨hd.1, rfl⟩
  · rwa [if_neg hu] at this

end Sys2Proof.Machine
end

section
/-! PROOFS. A list of one stage before its steps. -/

namespace Sys2Proof.Machine

/-- A list of one stage before its steps, which computes: stage entry j is its execution 0, work is left to none of its tile commands. -/
structure OnePrefix (s : State) (c i : Nat) (m : Cmd) (l : StepList) (x : Execution) (g : Stage) : Prop where
  cmd : (s.ctx c).cmd? i = some m
  uid : (s.ctx c).byUid m.uid = some m
  list : m.list? = some l
  ready : s.ready c = true
  order : (s.ctx c).inOrder i m = true
  prefix_ : ∃ j, l.stagesOf 0 = [j]
  steps_ : l.stagesOf 1 = []
  suffix_ : l.stagesOf 2 = []
  one : l.steps = 1
  pins : l.pins = []
  slip : l.stepSlip = 0
  fresh : m.steps = {}
  exec_ : l.execution 0 = some x
  stage : l.stageAt 0 = some g
  wait : g.waitAddr = 0
  sig : g.sigAddr = 0
  row : ((l.workOf g x).row c i).isSome = true
  free : s.awaits c m.uid = false
  good : s.mem.latent = []

theorem StepList.workOf_ferry {l : StepList} {g : Stage} {x : Execution} {ts : List Transfer} (h : g.work = .ferry ts) : l.workOf g x = .ferry ts := by
  unfold StepList.workOf
  rw [h]
  induction g.cmaps with
  | nil => rfl
  | cons k ks ih => exact ih

theorem StepList.notPhase_of_row {l : StepList} {g : Stage} {x : Execution} {c i : Nat} (h : ((l.workOf g x).row c i).isSome = true) (s : State) :
    s.isPhase g.work = false := by
  cases hw : g.work with
  | ferry ts => rw [StepList.workOf_ferry hw] at h; cases h
  | _ => rfl

theorem StepList.unpinned_pins {l : StepList} (hp : l.pins = []) {p : StepProg} (hd : l.prefixDone p = true) (now : Tick) : (l.unpinned p now).pinned = true := by
  unfold StepList.unpinned
  cases h : p.pinned <;> simp [hp, hd, h]

theorem Cmd.list?_started {m : Cmd} {l : StepList} (h : m.list? = some l) (sat : Bool) (q : StepProg) :
    ({ m with phase := .started, sat := sat, steps := q } : Cmd).list? = some l := by
  unfold Cmd.list? at h
  unfold Cmd.list?
  cases hj : m.job with
  | none => rw [hj] at h; split at h <;> simp_all
  | some j => cases j <;> (rw [hj] at h; split at h <;> simp_all)

section
variable {s : State} {c i : Nat} {m : Cmd} {l : StepList} {x : Execution} {g : Stage} (h : OnePrefix s c i m l x g)
include h

theorem OnePrefix.total : l.total = 1 := by
  obtain ⟨j, hj⟩ := h.prefix_
  simp [StepList.total, hj, h.steps_, h.suffix_]

theorem OnePrefix.prefixDone_iff (p : StepProg) : l.prefixDone p = NatSet.mem 0 p.done := by
  obtain ⟨j, hj⟩ := h.prefix_
  simp [StepList.prefixDone, hj]

/-- Such a list is its one execution, its one step, and nothing else. -/
theorem OnePrefix.runList_eq : s.runList c i l = (((s.stageStart c i 0).stageEnd c i 0).pinCopy c i).stepEnd c i 0 := by
  obtain ⟨j, hj⟩ := h.prefix_
  simp [State.runList, hj, h.steps_, h.suffix_, h.one, State.listSpan, List.range_succ]

theorem OnePrefix.phaseZero : x.phase = 0 := by
  obtain ⟨j, hj⟩ := h.prefix_
  have := h.exec_
  simp only [StepList.execution, hj, List.length_singleton, Nat.zero_lt_one, if_true, Option.some.injEq] at this
  rw [← this]

/-- The list's command once its execution has started. -/
def begunCmd (m : Cmd) (n : Nat) : Cmd := { m with phase := .started, steps := ({} : StepProg).begun 0 n }

/-- The start of the execution. -/
theorem OnePrefix.start : ∃ n a k, s.stageStart c i 0 = { s with ctxs := k, arb := a } ∧ Maps c m.uid (fun m => begunCmd m n) s (s.stageStart c i 0) := by
  have hphase := StepList.notPhase_of_row h.row s
  have hstart := State.stageStart_eq h.cmd h.list h.exec_ h.stage h.ready h.order (by rw [h.fresh]; rfl) rfl (.inl hphase) (.inl h.phaseZero)
    (by rw [State.waitMet, if_pos h.wait])
  have hun : l.unpinned m.steps s.now = {} := by
    rw [StepList.unpinned, h.prefixDone_iff, h.fresh]
    exact if_neg (by simp [NatSet.mem])
  rw [hun] at hstart
  rw [hstart]
  exact ⟨_, _, _, rfl, maps_stageStart s c m.uid 0 _ _ {}⟩

/-- The list's command once its execution is done. -/
def endedCmd (m : Cmd) (l : StepList) (n : Nat) (sat : Bool) (now : Tick) : Cmd :=
  { begunCmd m n with sat := sat, steps := l.ended now 0 (begunCmd m n).steps }

/-- What of the list's command its last step asks for. -/
theorem OnePrefix.endedCmd_spec (n : Nat) (sat : Bool) (now : Tick) :
    (endedCmd m l n sat now).list? = some l ∧ (endedCmd m l n sat now).steps.stepsDone = 0 ∧ (endedCmd m l n sat now).steps.pinned = true ∧
      (endedCmd m l n sat now).steps.done = [0] := by
  refine ⟨Cmd.list?_started h.list _ _, ?_, StepList.unpinned_pins h.pins ?_ now, ?_⟩
  · show (l.ended now 0 _).stepsDone = 0
    unfold StepList.ended StepList.unpinned
    split <;> rfl
  · rw [h.prefixDone_iff]
    rfl
  · show (l.ended now 0 _).done = [0]
    unfold StepList.ended StepList.unpinned
    split <;> rfl

/-- The end of the execution: memory as its work leaves it, and the list's command done with it. -/
theorem OnePrefix.ended {mem : Mem} {sat : Bool} (hrun : runWork (s.workEnv m (l.philox g x)) (s.trapArmed c) (l.workOf g x) s.mem = .done mem sat) :
    ∃ n sat t, (s.stageStart c i 0).stageEnd c i 0 = t ∧ Maps c m.uid (fun _ => endedCmd m l n sat s.now) s t ∧ (∀ a, t.mem.byte a = mem.byte a) ∧
      t.cores = s.cores ∧ t.awake = s.awake ∧ t.now = s.now ∧ t.awaits c m.uid = false := by
  obtain ⟨n, a, k, hshape, hmaps⟩ := h.start
  rw [hshape] at hmaps ⊢
  let v : State := { s with ctxs := k, arb := a }
  have hm : (v.ctx c).cmd? i = some (begunCmd m n) := hmaps.cmd? h.cmd
  have hlist : (begunCmd m n).list? = some l := Cmd.list?_started h.list _ _
  have htiles : ∀ t, (begunCmd m n).steps.tilesOf 0 = some t → t.1.length = t.2 ∧ t.2 ≠ 0 := by
    intro t ht
    by_cases hn : n = 0
    · simp [begunCmd, StepProg.begun, StepProg.tilesOf, hn] at ht
    · simp [begunCmd, StepProg.begun, StepProg.tilesOf, hn] at ht
      subst ht
      exact ⟨List.length_range, hn⟩
  have hrun' : runWork (v.workEnv (begunCmd m n) (l.philox g x)) (v.trapArmed c) (l.workOf g x) s.mem = .done mem sat := by
    cases ht : v.trapArmed c with
    | false => exact runWork_unarmed hrun
    | true =>
      rw [hmaps.trapArmed ht] at hrun
      exact hrun
  obtain ⟨m', e, hstage, hbyte⟩ := State.runStage_done (s := v) (m := begunCmd m n) (l := l) (x := x) (g := g) h.good (fun hp => nomatch hp) hrun'
  have hput := maps_putCmd { v with mem := m', free := v.free + 1, dbg := { v.dbg with eccArmed := e } } c { begunCmd m n with sat := (begunCmd m n).sat || sat }
  have hend := State.stageEnd_over (s := v) hm hlist h.exec_ h.stage ((hmaps.ready rfl).trans h.ready) rfl rfl h.sig
    ((State.doStage_whole h.row htiles).trans hstage) (f := fun _ => { begunCmd m n with sat := (begunCmd m n).sat || sat }) hput
  have hall := (hmaps.trans (t := v) hput fun _ h => h).trans (maps_prog _ c m.uid (l.ended s.now 0)) fun _ _ => rfl
  obtain ⟨hl, hs, hp, hd⟩ := h.endedCmd_spec n (m.sat || sat) s.now
  have hopen := State.listEnd_open (l := l) (hall.byUid h.uid fun _ _ => rfl) hl
    (lt_of_eq_of_lt hs (h.one ▸ Nat.one_pos))
  exact ⟨n, m.sat || sat, _, hend.trans hopen, hall, hbyte, rfl, rfl, rfl, h.free⟩

end

end Sys2Proof.Machine
end

open Sys2Proof Sys2Proof.Machine

/-- Settles O40: the copy of the pins by `State.copyPins_spec`, a step by `State.stepEnd_eq`, STEPLIST by `rows_list`. -/
theorem pinsAndSteps : Obligations.PinsAndSteps := by
  unfold Obligations.PinsAndSteps
  refine ⟨fun dst src a b n hd _ => ?_, fun s c i m l hm hlist hr ho hp hd hl hs => ?_, fun s c i st m l hm hu hlist hr => ⟨?_, ?_, fun ho => ⟨?_, ?_⟩⟩⟩
  · obtain ⟨hin, hout⟩ := Mem.graft_byte (dst := dst) src 64 a b n hd
    refine ⟨hin, fun x hx => hout x ?_⟩
    simp [inRegions] at hx
    omega
  · obtain ⟨hbuf, hpins⟩ := State.copyPins_spec l hs hl
    obtain ⟨k, f, b, e, hshape, -, -⟩ := hbuf
    have hmaps : Maps c m.uid (fun m => { m with phase := .started, steps := { m.steps with pinned := true, start := s.now } }) s
        (((s.copyPins l).setPhase c m.uid .started).prog c m.uid fun p => { p with pinned := true, start := s.now }) :=
      ((Maps.refl (by rw [hshape])).trans (maps_setPhase _ c m.uid .started) fun _ h => h).trans (maps_prog _ c m.uid _) fun _ h => h
    refine ⟨_, (exec_pinCopyDone s c i).trans (congrArg _ (State.pinCopy_eq hm hlist hr ho hp hd)), ?_, hmaps.kept, ?_, ?_, hmaps.all fun y _ _ => ⟨rfl, rfl, rfl⟩⟩
    · show (s.copyPins l).mem = s.mem
      rw [hshape]
    · show (s.copyPins l).cores = s.cores
      rw [hshape]
    · exact fun p d hp hd hlen hbit => hpins p d hp hd hlen hbit
  · exact fun h => (exec_stepComplete s c i st).trans (congrArg _ (State.stepEnd_early hm hlist h))
  · intro hst hlt hdone
    have heq := State.stepEnd_eq hm hlist hr hst hlt hdone
    have hprog := maps_prog s c m.uid fun p => { p with stepsDone := st + 1 }
    refine ⟨fun hslip => ?_, fun a hslip hplace hs hl hpz => ?_⟩
    · rw [hslip, State.signalStage, if_pos rfl] at heq
      obtain ⟨f, hf, hsame, hsteps⟩ := maps_listEnd (s.prog c m.uid fun p => { p with stepsDone := st + 1 }) c m.uid
      have hall := hprog.trans hf fun _ h => h
      refine ⟨_, (exec_stepComplete s c i st).trans (congrArg _ heq), hsame, hall.kept, hall.all fun y _ _ => by rw [(hsteps _).1], fun hlast htot haw => ?_⟩
      rw [State.listEnd_over (l := l) (hprog.byUid hu fun _ h => h) hlist ((hprog.ready rfl).trans hr) htot (Nat.le_of_eq hlast.symm) haw]
      exact (hprog.trans (maps_finish _ c m.uid) fun _ h => h).finished fun _ => rfl
    · rw [State.signalStage_here (s := s.prog c m.uid fun p => { p with stepsDone := st + 1 }) hslip hplace hl hpz] at heq
      obtain ⟨mem, e, k, hadd, hval, hout⟩ := State.slipAdd_spec (s := s.prog c m.uid fun p => { p with stepsDone := st + 1 }) (a := a) 1 hl hs.1
      obtain ⟨f, hf, hsame, hsteps⟩ := maps_listEnd ((s.prog c m.uid fun p => { p with stepsDone := st + 1 }).slipAdd a 1) c m.uid
      have hall := (hprog.trans (Maps.refl (by rw [hadd])) fun _ h => h).trans hf fun _ h => h
      refine ⟨_, (exec_stepComplete s c i st).trans (congrArg _ heq), ?_, ?_, hall.kept, hall.all fun y _ _ => by rw [(hsteps _).1]⟩
      · rw [hsame]
        exact hval
      · rw [hsame, hadd]
        exact hout
  · exact ⟨_, exec_steplist hm hlist hr ho, rows_list l c i s⟩
  · intro j x g mem sat hj h1 h2 hone hpins hslip hfresh hx hg hwait hsig hrow haw hl hrun
    have h : OnePrefix s c i m l x g := ⟨hm, hu, hlist, hr, ho, ⟨j, hj⟩, h1, h2, hone, hpins, hslip, hfresh, hx, hg, hwait, hsig, hrow, haw, hl⟩
    obtain ⟨n, sat, t, ht, hmaps, hbyte, hcores, hawake, hnow, haw⟩ := h.ended hrun
    obtain ⟨hl, hs, hp, hd⟩ := h.endedCmd_spec n sat s.now
    have hcmd : (t.ctx c).cmd? i = some (endedCmd m l n sat s.now) := hmaps.cmd? hm
    have hr' : t.ready c = true := (hmaps.ready hawake).trans hr
    have hprog := hmaps.trans (maps_prog t c m.uid fun p => { p with stepsDone := 0 + 1 }) fun _ _ => rfl
    have hstep : t.stepEnd c i 0 = (t.prog c m.uid fun p => { p with stepsDone := 0 + 1 }).listEnd c m.uid := by
      refine (State.stepEnd_eq hcmd hl hr' hs (by rw [hone]; exact Nat.one_pos) (by simp [StepList.stepDone, h1])).trans ?_
      rw [hslip]
      rfl
    have hover := State.listEnd_over (l := l) (hprog.byUid hu fun _ _ => rfl) hl ((hprog.ready hawake).trans hr)
      (by rw [h.total]; exact Nat.le_of_eq (congrArg List.length hd).symm) (Nat.le_of_eq hone) haw
    have heq : s.runList c i l = (t.prog c m.uid fun p => { p with stepsDone := 0 + 1 }).finish c m.uid := by
      rw [h.runList_eq, ht, State.pinCopy_of_pinned hcmd hl hp, hstep, hover]
    have hfin := hprog.trans (maps_finish _ c m.uid) fun _ _ => rfl
    exact ⟨_, (exec_steplist hm hlist hr ho).trans (congrArg _ heq), hfin.finished fun _ => congrArg Phase.written hnow, hbyte, hfin.kept, hcores⟩

section
/-! PROOFS. Element codes and FP32 sums and products. -/

namespace Sys2Proof.Machine

/-! ### Codes -/

/-- A code of a floating-point element, taken apart. -/
theorem decodeElem_float {f : Elem} (hi : f.isInt = false) {e m bias : Nat} (hs : f.shape = (e, m, bias)) {c : Nat} (hc : c < 2 ^ f.width) :
    decodeElem f c =
      if c / 2 ^ m % 2 ^ e = 0 then .fin (decide (2 ^ (e + m) ≤ c)) 0 0
      else if f.ieee && c / 2 ^ m % 2 ^ e == 2 ^ e - 1 then (if c % 2 ^ m = 0 then .inf (decide (2 ^ (e + m) ≤ c)) else .nan)
      else if f == .e4m3 && c % 128 == 0x7F then .nan
      else .fin (decide (2 ^ (e + m) ≤ c)) (2 ^ m + c % 2 ^ m) ((c / 2 ^ m % 2 ^ e : Nat) - bias - m : Int) := by
  cases f
  case int8 | int4 => cases hi
  all_goals
    cases hs
    unfold decodeElem
    simp only [Nat.mod_eq_of_lt hc, Elem.shape]

theorem log2_normal {m frac : Nat} (h : frac < 2 ^ m) : (2 ^ m + frac).log2 = m := by
  rw [Nat.log2_eq_iff (by positivity), Nat.pow_succ]
  omega

/-- A normal magnitude within the format's range is its own code. -/
theorem encodeFloat_normal {f : Elem} {e m bias ef frac : Nat} (hs : f.shape = (e, m, bias)) (hef : 0 < ef) (hfrac : frac < 2 ^ m)
    (hmax : ef * 2 ^ m + frac ≤ f.maxMag) (ov : Over) (neg : Bool) :
    encodeFloat f ov (.fin neg (2 ^ m + frac) ((ef : Int) - bias - m)) = (if neg then 2 ^ (e + m) else 0) + (ef * 2 ^ m + frac) := by
  have hpos : 0 < 2 ^ m := Nat.two_pow_pos m
  have htop : topExp (2 ^ m + frac) ((ef : Int) - bias - m) = ef - bias := by
    rw [topExp, log2_normal hfrac]
    omega
  have hround : roundMan m (2 ^ m + frac) ((ef : Int) - bias - m) = (2 ^ m + frac, (ef : Int) - bias - m) := by
    rw [roundMan, htop]
    exact if_pos (Int.le_refl _)
  have hmag : magCode f (2 ^ m + frac) ((ef : Int) - bias - m) = ef * 2 ^ m + frac := by
    simp only [magCode, hs, htop]
    simp [scaleTo]
  have hle : ef ≤ f.maxMag / 2 ^ m := (Nat.le_div_iff_mul_le hpos).2 (by omega)
  obtain ⟨k, hk⟩ : ∃ k, 2 ^ m + frac = k + 1 := ⟨2 ^ m + frac - 1, by omega⟩
  rw [hk] at htop hround hmag ⊢
  unfold encodeFloat
  simp only [hs, hround, htop, hmag]
  have hin : ¬ (((f.maxMag / 2 ^ m : Nat) : Int) - bias < (ef : Int) - bias) := by omega
  rw [if_neg (by omega), if_neg hin, if_neg (Nat.not_lt.2 hmax)]

/-- Every code but those of NaNs and zeros survives a round trip, in a format whose finite codes end at its largest. -/
theorem encodeElem_decodeElem {f : Elem} (hi : f.isInt = false) {e m bias : Nat} (hs : f.shape = (e, m, bias)) (hw : f.width = e + m + 1)
    (hfin : ∀ c : Nat, (f.ieee = true → c / 2 ^ m % 2 ^ e ≠ 2 ^ e - 1) → (f = .e4m3 → c % 128 ≠ 127) → c / 2 ^ m % 2 ^ e * 2 ^ m + c % 2 ^ m ≤ f.maxMag)
    {c : Nat} (hc : c < 2 ^ f.width) (hnan : (decodeElem f c).isNaN = false) (hzero : (decodeElem f c).isZero = false) :
    encodeElem f (decodeElem f c) = c := by
  have hfloat : ∀ v, encodeElem f v = encodeFloat f .toInf v := by
    cases f
    case int8 | int4 => cases hi
    all_goals exact fun _ => rfl
  have hparts : (if decide (2 ^ (e + m) ≤ c) = true then 2 ^ (e + m) else 0) + (c / 2 ^ m % 2 ^ e * 2 ^ m + c % 2 ^ m) = c := by
    have hhigh : c / 2 ^ m = c / 2 ^ (e + m) * 2 ^ e + c / 2 ^ m % 2 ^ e := by
      rw [Nat.add_comm e m, Nat.pow_add, ← Nat.div_div_eq_div_mul, Nat.mul_comm, Nat.div_add_mod]
    have hlow : c / 2 ^ m * 2 ^ m + c % 2 ^ m = c := Nat.div_add_mod' c (2 ^ m)
    rw [hhigh, Nat.add_mul, Nat.mul_assoc, ← Nat.pow_add] at hlow
    rw [hw, Nat.pow_succ] at hc
    by_cases h : 2 ^ (e + m) ≤ c
    · have : c / 2 ^ (e + m) = 1 := by
        rw [Nat.div_eq_iff (by positivity)]
        omega
      rw [this] at hlow
      simp only [h, decide_true, if_true]
      omega
    · rw [Nat.div_eq_of_lt (by omega)] at hlow
      simp only [h, decide_false, Bool.false_eq_true, if_false]
      omega
  rw [hfloat]
  rw [decodeElem_float hi hs hc] at hnan hzero ⊢
  split at hnan
  · rename_i h0
    rw [if_pos h0] at hzero
    cases hzero
  · rename_i h0
    rw [if_neg h0]
    split at hnan
    · rename_i hinf
      rw [if_pos hinf]
      split at hnan
      · rename_i hfrac
        rw [Bool.and_eq_true, beq_iff_eq] at hinf
        rw [if_pos hfrac]
        rw [hfrac, hinf.2] at hparts
        unfold encodeFloat
        simp only [hs, hinf.1, if_true]
        exact hparts
      · cases hnan
    · rename_i hinf
      rw [if_neg hinf]
      split at hnan
      · cases hnan
      · rename_i h4
        rw [if_neg h4, encodeFloat_normal hs (Nat.pos_of_ne_zero h0) (Nat.mod_lt _ (Nat.two_pow_pos m))]
        · exact hparts
        · exact hfin c (fun hieee heq => hinf (by simp [hieee, heq])) fun hf heq => h4 (by simp [hf, heq])

/-! ### NaNs -/

theorem Val.isNaN_iff {v : Val} : v.isNaN = true ↔ v = .nan := by
  cases v <;> simp [Val.isNaN]

@[simp] theorem Val.add_nan (v : Val) : v.add .nan = .nan := by cases v <;> rfl

@[simp] theorem Val.mul_nan (v : Val) : v.mul .nan = .nan := by cases v <;> rfl

@[simp] theorem Val.nan_add (v : Val) : Val.nan.add v = .nan := rfl

@[simp] theorem Val.nan_mul (v : Val) : Val.nan.mul v = .nan := rfl

theorem isNaN32_toF32_nan : isNaN32 (toF32 .nan) = true := by decide

/-- The NaN codes of FP32. -/
theorem isNaN32_eq (a : Word) : isNaN32 a = decide (a.toNat / 2 ^ 23 % 256 = 255 ∧ a.toNat % 2 ^ 23 ≠ 0) := by
  rw [isNaN32, f32, decodeElem_float (f := .fp32) rfl rfl a.isLt]
  show Val.isNaN (if a.toNat / 2 ^ 23 % 256 = 0 then _ else if true && a.toNat / 2 ^ 23 % 256 == 255 then if a.toNat % 2 ^ 23 = 0 then _ else _ else _) = _
  by_cases h0 : a.toNat / 2 ^ 23 % 256 = 0
  · rw [if_pos h0, h0]
    rfl
  · rw [if_neg h0]
    by_cases hone : a.toNat / 2 ^ 23 % 256 = 255
    · rw [if_pos (by rw [hone]; rfl), hone]
      by_cases hf : a.toNat % 2 ^ 23 = 0
      · rw [if_pos hf, hf]
        rfl
      · rw [if_neg hf, decide_eq_true ⟨rfl, hf⟩]
        rfl
    · rw [if_neg (by rw [Bool.true_and, beq_iff_eq]; exact hone), if_neg (by simp),
        decide_eq_false (p := a.toNat / 2 ^ 23 % 256 = 255 ∧ a.toNat % 2 ^ 23 ≠ 0) fun h => hone h.1]
      rfl

end Sys2Proof.Machine
end

open Sys2Proof Sys2Proof.Machine

/-- Settles O49: the codes by `encodeElem_decodeElem`, the NaN codes by `isNaN32_eq`. -/
theorem numbersRoundTrip : Obligations.NumbersRoundTrip := by
  unfold Obligations.NumbersRoundTrip
  refine ⟨fun f hf c hc hn hz => ?_, fun a b c h => ?_, isNaN32_eq⟩
  · simp only [List.mem_cons, List.not_mem_nil, or_false] at hf
    rcases hf with rfl | rfl | rfl | rfl | rfl
    all_goals
      refine encodeElem_decodeElem rfl rfl rfl (fun c h₁ h₂ => ?_) hc hn hz
      simp [Elem.ieee, Elem.maxMag] at h₁ h₂ ⊢
      omega
  · have ha : f32 a = .nan := Val.isNaN_iff.1 h
    simp [fadd, fmul, fma, ha, isNaN32_toF32_nan]

section
/-! PROOFS. Attestation, link encryption, the sideband and the test port. -/

namespace Sys2Proof.Machine

/-! ### Attestation -/

theorem opaqueData_length (key draw : Nat) : (opaqueData key draw).length = 16240 := by
  simp [opaqueData]

theorem State.spdmUp_up {s : State} {tr : Transport} (h : s.spdmUp tr = true) : s.up = true := by
  simp only [State.spdmUp, Bool.and_eq_true] at h
  exact h.1

section
variable {s : State} {tr : Transport} (h : s.spdmUp tr = true)
include h

/-- A request for a signature while none is being computed. -/
theorem State.signRequest_idle (hs : s.spdm.signing = none) (k : Nat) :
    s.signRequest tr k = { s.send (.spdm tr 0x7F [0x42, 19, BitVec.ofNat 8 k, 0, 2]) with spdm := { s.spdm with signing := some (tr, k), ready := none } } := by
  rw [State.signRequest, if_neg (by simp [h]), if_neg (by simp [hs])]
  rfl

theorem State.signRequest_busy (hs : s.spdm.signing ≠ none) (k : Nat) : s.signRequest tr k = s.send (.spdm tr 0x7F [0x03]) := by
  rw [State.signRequest, if_neg (by simp [h]), if_pos (Option.isSome_iff_ne_none.2 hs)]
  rfl

theorem exec_getMeasurements_unsigned (i : Nat) (hi : i ≤ 7) :
    exec (.getMeasurements tr i false) s = .next (s.send (.spdm tr 0x60 (if i = 0 then [7] else s.measurement i))) := by
  simp only [exec, execGetMeasurements]
  rw [if_neg (by simp [h]), if_neg (by simp)]
  by_cases h0 : i = 0
  · rw [if_pos h0, if_pos h0]
    rfl
  · rw [if_neg h0, if_neg h0, if_neg (by omega), if_pos hi]
    rfl

theorem exec_getMeasurements_signed (i : Nat) : exec (.getMeasurements tr i true) s = .next (s.signRequest tr 0xE0) := by
  simp only [exec, execGetMeasurements]
  rw [if_neg (by simp [h]), if_pos trivial]

end

/-! ### Streams and reads of host memory -/

/-- A context that a failed access tears down, and one torn down, are torn down whatever else fails. -/
theorem State.faultCtx_keepsTorn {s : State} {c : Nat} (h : (s.ctx c).torn = true) (d code : Nat) (uid : Option Nat) :
    ((s.faultCtx d code uid).ctx c).torn = true := by
  by_cases hc : c = d
  · subst hc
    rw [State.faultCtx]
    dsimp only
    rw [if_pos (by simp [Ctx.alive, h])]
    exact h
  · rwa [State.faultCtx_other _ _ _ _ _ hc]

theorem State.faultCtx_keepsFate {s : State} {c : Nat} (h : (s.ctx c).alive = true ∨ (s.ctx c).torn = true) (d code : Nat) (uid : Option Nat) :
    ((s.faultCtx d code uid).ctx c).alive = true ∨ ((s.faultCtx d code uid).ctx c).torn = true := by
  rcases h with h | h
  · by_cases hc : c = d
    · subst hc
      exact .inr (s.faultCtx_torn c code uid h)
    · rw [State.faultCtx_other _ _ _ _ _ hc]
      exact .inl h
  · exact .inr (State.faultCtx_keepsTorn h d code uid)

theorem State.refuseHost_link (s : State) : s.refuseHost.link = s.link := by
  refine List.foldlRecOn (motive := fun t : State => t.link = s.link) s.reads _ rfl fun t ht q _ => ?_
  obtain ⟨_, _, _, _, _, _, _, _, hshape, -⟩ := t.faultCtx_shape q.ctx 0x314 (some q.uid)
  rw [hshape]
  exact ht

/-- Every live context with a read of host memory outstanding is torn down. -/
theorem State.refuseHost_torn {s : State} {q : Outstanding} (hq : q ∈ s.reads) (h : (s.ctx q.ctx).alive = true) : (s.refuseHost.ctx q.ctx).torn = true := by
  refine foldl_establishes (Q := fun t : State => (t.ctx q.ctx).alive = true ∨ (t.ctx q.ctx).torn = true) (P := fun t : State => (t.ctx q.ctx).torn = true) hq
    (fun x _ t ht => State.faultCtx_keepsFate ht x.ctx 0x314 (some x.uid)) (fun x _ t _ ht => State.faultCtx_keepsTorn ht x.ctx 0x314 (some x.uid))
    (fun t ht => ?_) (.inl h)
  rcases ht with ht | ht
  · exact t.faultCtx_torn q.ctx 0x314 (some q.uid) ht
  · exact State.faultCtx_keepsTorn ht q.ctx 0x314 (some q.uid)

theorem State.life_of_up {s : State} (h : s.up = true) : s.boot.life = .ready := by
  simp only [State.up, Bool.and_eq_true, beq_iff_eq] at h
  exact h.1

theorem State.not_held_of_up {s : State} (h : s.up = true) : ¬ (s.boot.life == .held || s.boot.life == .stopped) = true := by
  rw [State.life_of_up h]
  decide

end Sys2Proof.Machine
end

open Sys2Proof Sys2Proof.Machine

/-- Settles O59, by the cases of a signature. -/
theorem attestationRule : Obligations.AttestationRule := by
  unfold Obligations.AttestationRule
  intro s tr h
  have hup := State.spdmUp_up h
  refine ⟨fun hs => ⟨?_, ?_, fun i => ?_⟩, fun hs => ⟨?_, ?_⟩, ?_, fun i h1 h7 => ?_, fun q hq => ?_, fun k hk => ?_, fun k pos hk => ?_⟩
  · exact congrArg _ (State.signRequest_idle h hs 0x83)
  · exact congrArg _ (State.signRequest_idle h hs 0xE4)
  · exact (exec_getMeasurements_signed h i).trans (congrArg _ (State.signRequest_idle h hs 0xE0))
  · exact congrArg _ (State.signRequest_busy h hs 0x83)
  · exact congrArg _ (State.signRequest_busy h hs 0xE4)
  · exact exec_getMeasurements_unsigned h 0 (by omega)
  · rw [exec_getMeasurements_unsigned h i h7, if_neg (by omega)]
  · simp only [exec, execSlhDsaSignDone, hq]
    rw [if_pos hup]
  · simp only [exec, execRespondIfReady, hk]
    rw [if_neg (by simp [h]), if_neg (by simp)]
    rfl
  · simp only [exec, execChunkGet, hk, opaqueData_length]
    rw [if_neg (by simp [h]), if_neg (by simp)]
    simp only [decide_eq_true_eq]
    rfl

/-- Settles O60: a stream that leaves Secure by `State.refuseHost_torn`, the other rows by their cases. -/
theorem linkSidebandTestPort : Obligations.LinkSidebandTestPort := by
  unfold Obligations.LinkSidebandTestPort
  refine ⟨fun s hup => ⟨fun n cov hses hn => ?_, fun n cov h => ?_, ?_, fun hr => ?_, fun hr => ?_, fun r h4 => ?_, fun h4 => ⟨fun i hi => ?_, fun c hc => ?_⟩⟩,
    fun s => ⟨fun hp x hx => ?_, rfl, rfl, fun hp => ⟨?_, ?_, ?_⟩⟩⟩
  · simp only [exec, execIdeKm]
    rw [if_neg (by simp [hup, hses, hn])]
  · simp only [exec, execIdeKm]
    rw [if_pos]
    rcases h with h | h <;> simp [h]
  · intro n hany u
    have heq : exec (.ideLeaveSecure n) s = .next (if s.boot.ideRequired && !u.ideSecure then u.refuseHost else u) := by
      simp only [exec, execIdeLeaveSecure]
      rw [if_neg (by rw [hup, hany]; simp)]
    rw [heq]
    refine ⟨fun h => ?_, fun hreq hsec => ?_⟩
    · rw [if_neg]
      rcases h with h | h <;> simp [h]
    · rw [if_pos (by rw [hreq, hsec]; rfl)]
      exact ⟨_, rfl, u.refuseHost_link, fun q hq ha => State.refuseHost_torn (s := u) hq ha⟩
  · simp only [exec, execAtsInvalidation]
    rw [if_pos (by simp [hup, hr])]
  · simp only [exec, execAtsInvalidation]
    rw [if_neg (by simp [hr])]
  · simp only [exec, execSidebandRequest]
    rw [if_neg (State.not_held_of_up hup), if_pos h4]
    rfl
  · simp only [exec, execSidebandRequest]
    rw [if_neg (State.not_held_of_up hup), if_neg h4, State.sensor, if_pos hi]
    rfl
  · simp only [exec, execSidebandRequest]
    rw [if_neg (State.not_held_of_up hup), if_neg h4, if_neg (by simp [hc])]
    rfl
  · have hreg : jtagReg x s.boot.perstN = 0 := by
      rw [hp]
      simp only [List.mem_cons, List.not_mem_nil, or_false] at hx
      rcases hx with rfl | rfl | rfl | rfl <;> rfl
    simp only [exec, execJtagInstruction, hreg]
    rfl
  · simp only [exec, execJtagInstruction, hp, jtagReg]
    rfl
  · simp only [exec, execJtagInstruction, hp, jtagReg]
    rfl
  · simp only [exec, execJtagInstruction, hp, jtagReg]
    rfl

section
/-! PROOFS. Ramps, the timebase and activity states. -/

namespace Sys2Proof.Machine

/-! ### Ramps -/

theorem rampToward_near {p top : Nat} (h : p ≤ top + 1) (h' : top ≤ p + 1) : rampToward p top = rampTop top := by
  unfold rampToward
  dsimp only
  rw [if_pos]
  split <;> omega

theorem rampToward_up {p top : Nat} (h : p + 1 < top) : rampToward p top = .up (p + 1) 0 := by
  unfold rampToward
  dsimp only
  rw [if_pos (show p < top by omega), if_neg (by omega)]

theorem rampToward_down {p top : Nat} (h : top + 1 < p) : rampToward p top = .up (p - 1) 0 := by
  unfold rampToward
  dsimp only
  rw [if_neg (show ¬ p < top by omega), if_neg (by omega)]

/-- A phase of a rise, or of a move to a new cap, ends. -/
theorem exec_rampPhaseEnd_toward {s : State} {k p c : Nat}
    (h : ((s.core k).ramp = .up p c ∧ s.rampLen (k / 64) / 3 ≤ c) ∨ ((s.core k).ramp = .capped p c ∧ p ≠ s.topPhase (k / 64))) :
    exec (.rampPhaseEnd k) s = .next (s.setCore k { s.core k with
      ramp := if s.rampLen (k / 64) = 0 then rampTop (s.topPhase (k / 64)) else rampToward p (s.topPhase (k / 64)) }) := by
  simp only [exec, execRampPhaseEnd]
  rcases h with ⟨h, hc⟩ | ⟨h, hp⟩
  · simp only [h]
    rw [if_neg (Nat.not_lt.2 hc)]
  · simp only [h]
    rw [if_neg hp]

/-! ### The timebase -/

theorem State.setLock_spec (s : State) (lock : Bool) :
    ∃ t g k p, s.setLock lock = { s with power := { s.power with ptmLock := lock }, tx := t, mgmt := g, counters := k, pba := p } := by
  unfold State.setLock
  dsimp only
  split
  · exact ⟨s.tx, s.mgmt, s.counters, s.pba, rfl⟩
  · exact State.message_shape { s with power := { s.power with ptmLock := lock } } 0x14 0 0 0 false 0 _

/-- A dialogue with the host, once it names the offset of a device whose timebase runs. -/
theorem exec_ptmDialogue {s : State} (hup : s.up = true) (hen : bit1 s.link.pcieStatus.toNat 11 = true) (hcur : s.power.cur < 4) (htb : s.tbValid = true) (d : Int) :
    ∃ t g k p, exec (.ptmDialogue (some d)) s = .next { s with
      now := if s.followsHost && decide (1000 < d) then s.now + BitVec.ofNat 64 d.toNat else s.now
      power := { s.power with
        ptmOffset := clampInt (-32768) 32767 d, ptmLock := decide (d.natAbs ≤ 1000)
        slew := if s.followsHost && !decide (1000 < d) then d else s.power.slew }
      tx := t, mgmt := g, counters := k, pba := p } := by
  simp only [exec, execPtmDialogue]
  rw [if_neg (by simp [hup, hen]; omega)]
  let u : State := { s.count 9979 1 with power := { s.power with ptmOffset := clampInt (-32768) 32767 d } }
  have hf : u.followsHost = s.followsHost := rfl
  have hv : u.tbValid = true := htb
  show ∃ t g k p, Host.Outcome.next (State.setLock (if !u.followsHost && u.tbValid then u else if !u.tbValid then _ else if 1000 < d then u.stepTime d
    else { u with power := { u.power with slew := d } }) (decide (d.natAbs ≤ 1000))) = _
  cases hh : s.followsHost with
  | false =>
    rw [if_pos (by rw [hf, hh, hv]; rfl)]
    obtain ⟨t, g, k, p, h⟩ := u.setLock_spec (decide (d.natAbs ≤ 1000))
    exact ⟨t, g, k, p, congrArg _ h⟩
  | true =>
    rw [if_neg (by simp [hf, hh]), if_neg (by rw [hv]; decide)]
    by_cases hd : 1000 < d
    · rw [if_pos hd]
      obtain ⟨t, g, k, p, h⟩ := (u.stepTime d).setLock_spec (decide (d.natAbs ≤ 1000))
      exact ⟨t, g, k, p, by rw [h]; simp only [hd, decide_true]; rfl⟩
    · rw [if_neg hd]
      obtain ⟨t, g, k, p, h⟩ := State.setLock_spec { u with power := { u.power with slew := d } } (decide (d.natAbs ≤ 1000))
      exact ⟨t, g, k, p, by rw [h]; simp only [hd, decide_false]; rfl⟩

end Sys2Proof.Machine
end

open Sys2Proof Sys2Proof.Machine

/-- Settles O46, by the cases of the ramp. -/
theorem rampRule : Obligations.RampRule := by
  unfold Obligations.RampRule
  intro s k y to_ len n top atTop
  refine ⟨fun c hy => ⟨fun h => ?_, fun hc hi => ?_⟩, fun p c h => ?_, fun p c hy hc => ?_, fun p c hy hc => ?_, fun c hy => ?_, fun hy => ?_⟩
  · simp only [exec, execHoldExpiry, show (s.core k).ramp = .hold c from hy]
    rw [if_pos (by rcases h with h | h <;> simp [h])]
  · simp only [exec, execHoldExpiry, show (s.core k).ramp = .hold c from hy]
    rw [if_neg (by simp [hi]; omega)]
  · have heq := exec_rampPhaseEnd_toward h
    refine ⟨fun hn => ?_, fun hl hp => ?_, fun hl hp => ?_⟩
    · refine heq.trans ?_
      by_cases hl : s.rampLen (k / 64) = 0
      · rw [if_pos hl]
        rfl
      · obtain ⟨h1, h2⟩ := hn.resolve_left hl
        rw [if_neg hl, rampToward_near h1 h2]
        rfl
    · rw [heq, if_neg hl, rampToward_up hp]
    · rw [heq, if_neg hl, rampToward_down hp]
  · simp only [exec, execRampPhaseEnd]
    rcases hy with hy | hy
    all_goals
      simp only [show (s.core k).ramp = _ from hy]
      rw [if_pos hc]
  · simp only [exec, execRampPhaseEnd, show (s.core k).ramp = _ from hy]
    rw [if_neg (Nat.not_lt.2 hc)]
  · simp only [exec, execRampPhaseEnd, show (s.core k).ramp = _ from hy]
    rw [if_pos rfl]
  · simp only [exec, execRampPhaseEnd, show (s.core k).ramp = _ from hy]
    by_cases h4 : 4 ≤ top
    · rw [if_neg (Nat.not_lt.2 h4), if_pos h4]
    · rw [if_pos (Nat.lt_of_not_le h4), if_neg h4]
      have hcap : rampTop top = .capped top 0 := if_neg h4
      by_cases hl : len = 0
      · rw [if_pos hl, if_pos (.inl hl), hcap]
      · rw [if_neg hl]
        by_cases h3 : top = 3
        · rw [if_pos (.inr h3), rampToward_near (by omega) (by omega), hcap]
        · rw [if_neg (by omega), rampToward_down (by omega)]

/-- Settles O54, by `exec_ptmDialogue` and the cases of an exchange. -/
theorem timebaseFollows : Obligations.TimebaseFollows := by
  unfold Obligations.TimebaseFollows
  intro s hup
  refine ⟨fun hen hcur => ⟨?_, fun d hf htb => ?_, fun d hf htb => ?_⟩, fun d hf hb => ?_, fun d hf => ?_⟩
  · obtain ⟨t, g, k, p, h⟩ := s.setLock_spec false
    refine ⟨s.setLock false, ?_, by rw [h], by rw [h]⟩
    simp only [exec, execPtmDialogue]
    rw [if_neg (by simp [hup, hen]; omega)]
  · obtain ⟨t, g, k, p, h⟩ := exec_ptmDialogue hup hen hcur htb d
    refine ⟨_, h, fun hd => ?_, fun hd => ?_, rfl, rfl, rfl, rfl⟩
    · simp [hf, hd]
    · simp [hf, Int.not_lt.2 hd]
  · obtain ⟨t, g, k, p, h⟩ := exec_ptmDialogue hup hen hcur htb d
    exact ⟨_, h, by simp [hf], by simp [hf]⟩
  · intro limit
    have hgo : ¬ (!s.up || s.followsHost || s.boardStatus != 1) = true := by simp [hup, hf, hb]
    refine ⟨fun hd => ?_, fun hd => ?_, fun hlo hhi => ?_⟩
    · simp only [exec, execTimeExchange]
      rw [if_neg hgo, if_pos (by omega), if_pos (by omega)]
      rfl
    · simp only [exec, execTimeExchange]
      rw [if_neg hgo, if_pos (by omega), if_neg (by omega)]
    · simp only [exec, execTimeExchange]
      rw [if_neg hgo, if_neg (by omega)]
  · simp only [exec, execTimeExchange]
    rw [if_pos (by simp [hf])]

section
/-! PROOFS. Entry into activity states and exit from them. -/

namespace Sys2Proof.Machine

/-- What power gating on the way to state d loses. -/
def State.gated (s : State) (d : Nat) : State :=
  let s' := if 2 ≤ d && s.power.cur < 2 then s.gateCores else s
  if 3 ≤ d && s.power.cur < 3 then s'.gateMemory else s'

/-- Entry into a state: power gating, messages, the power manager, and the stop of the timebase. -/
theorem State.enter_spec (s : State) (d : Nat) :
    ∃ t g k p f w, s.enter d = { s with
      tx := t, mgmt := g, counters := k, pba := p, free := f, power := w, cores := (s.gated d).cores
      tbValid := if d = 4 then false else s.tbValid, synced := if d = 4 then false else s.synced } ∧ w.cur = d := by
  obtain ⟨t, g, k, p, hmsg⟩ : ∃ t g k p, (if 3 ≤ d then s.message 0x10 0 0 0 false 0 (d + s.power.cur * 256) else s) =
      { s with tx := t, mgmt := g, counters := k, pba := p } := by
    split
    · exact State.message_shape ..
    · exact ⟨s.tx, s.mgmt, s.counters, s.pba, rfl⟩
  let u : State := { s with tx := t, mgmt := g, counters := k, pba := p }
  have hgate : u.gated d = { u with cores := (s.gated d).cores, free := (s.gated d).free } := by
    unfold State.gated
    by_cases h2 : (2 ≤ d && s.power.cur < 2) = true <;> by_cases h3 : (3 ≤ d && s.power.cur < 3) = true
    all_goals
      simp only [show u.power = s.power from rfl, h2, h3]
      rfl
  let w : State := { u.gated d with power := { (u.gated d).power with cur := d, exiting := false, target := d } }
  obtain ⟨t', l, hltr⟩ := w.ltrUpdate_shape
  have henter : s.enter d = (if d = 4 then { w.ltrUpdate with
      tbValid := false, synced := false, power := { w.ltrUpdate.power with a4Stop := some w.ltrUpdate.now, ptmLock := false } } else w.ltrUpdate) := by
    unfold State.enter
    dsimp only
    rw [hmsg]
    rfl
  have hw : w = { u with
      cores := (s.gated d).cores, free := (s.gated d).free, power := { s.power with cur := d, exiting := false, target := d } } := by
    simp only [w]
    rw [hgate]
  rw [henter, hltr, hw]
  by_cases h4 : d = 4
  · simp only [if_pos h4]
    exact ⟨_, _, _, _, _, _, rfl, rfl⟩
  · simp only [if_neg h4]
    exact ⟨_, _, _, _, _, _, rfl, rfl⟩

/-! ### Power gating -/

section
variable (s : State) {d : Nat}

theorem State.gateCores_core {k : Nat} (hk : k < s.cores.length) : s.gateCores.core k =
    { s.core k with banks := [{}, {}], acc := lostAccs s.free k, veng := { (s.core k).veng with v := lostRegs s.free k } } := by
  simp [State.gateCores, State.core, List.getD_eq_getElem?_getD, hk]

theorem State.gateMemory_core {k : Nat} (hk : k < s.cores.length) : s.gateMemory.core k = { s.core k with mem := { fill := some (Nat.pair s.free k) } } := by
  simp [State.gateMemory, State.core, List.getD_eq_getElem?_getD, hk]

theorem State.gateCores_length : s.gateCores.cores.length = s.cores.length := by
  simp [State.gateCores]

theorem State.gated_shallow (h : d < 2) : s.gated d = s := by
  unfold State.gated
  dsimp only
  rw [if_neg (by simp; omega), if_neg (by simp; omega)]

/-- Entry into A2 and deeper empties the weight banks. -/
theorem State.gated_banks (h : 2 ≤ d) (hc : s.power.cur < 2) : ∀ y ∈ (s.gated d).cores, y.banks = [{}, {}] := by
  have hgate : s.gated d = if 3 ≤ d && s.power.cur < 3 then s.gateCores.gateMemory else s.gateCores := by
    unfold State.gated
    dsimp only
    rw [if_pos (show (decide (2 ≤ d) && decide (s.power.cur < 2)) = true by simp [h, hc])]
  have hbanks : ∀ k < s.cores.length, (s.gateCores.core k).banks = [{}, {}] := fun k hk => by rw [s.gateCores_core hk]
  intro y hy
  rw [hgate] at hy
  split at hy
  · simp only [State.gateMemory, List.mem_map, List.mem_range, State.gateCores_length] at hy
    obtain ⟨k, hk, rfl⟩ := hy
    exact hbanks k hk
  · simp only [State.gateCores, List.mem_map, List.mem_range] at hy
    obtain ⟨k, hk, rfl⟩ := hy
    rfl

/-- Entry into A3 and deeper loses core memory, and nothing else does. -/
theorem State.gated_mem {k : Nat} (hk : k < s.cores.length) :
    (d < 3 ∨ 3 ≤ s.power.cur → ((s.gated d).core k).mem = (s.core k).mem) ∧
    (3 ≤ d → s.power.cur < 3 → ((s.gated d).core k).mem.cells = [] ∧ ((s.gated d).core k).mem.fill.isSome = true) := by
  let u : State := if 2 ≤ d && s.power.cur < 2 then s.gateCores else s
  have hu : u.cores.length = s.cores.length ∧ (u.core k).mem = (s.core k).mem := by
    simp only [u]
    split
    · exact ⟨s.gateCores_length, by rw [s.gateCores_core hk]⟩
    · exact ⟨rfl, rfl⟩
  have hgate : s.gated d = if 3 ≤ d && s.power.cur < 3 then u.gateMemory else u := rfl
  refine ⟨fun h => ?_, fun h3 hc => ?_⟩
  · rw [hgate, if_neg (by simp; omega)]
    exact hu.2
  · rw [hgate, if_pos (by simp [h3, hc]), u.gateMemory_core (by rw [hu.1]; exact hk)]
    exact ⟨rfl, rfl⟩

end

end Sys2Proof.Machine
end

open Sys2Proof Sys2Proof.Machine

/-- Settles O55: entry by `State.enter_spec` and what power gating loses, exit by its messages. -/
theorem idleAndExit : Obligations.IdleAndExit := by
  unfold Obligations.IdleAndExit
  refine ⟨fun tb x y hex => ⟨fun hb => ?_, fun hb => ?_, fun hb => ?_⟩, fun s hup => ⟨?_, fun hx htb => ?_, fun h => ?_⟩⟩
  · simp [Tables.restored, hb, Tables.put, Tables.standard, hex, NatSet.del]
  · simp [Tables.restored, hb, Tables.put, Tables.standard, hex, NatSet.del]
  · simp [Tables.restored, hb]
  · intro hx u
    have heq : exec .idleEntry s = .next (if s.targetState < s.power.cur then u.wake
        else if !s.idle then { u with power := { u.power with idleFrom := s.now } }
        else if s.power.cur < s.targetState && idleTime s.targetState ≤ s.now.toNat - s.power.idleFrom.toNat then u.enter s.targetState else u) := by
      simp only [exec, execIdleEntry]
      rw [if_neg (by simp [hup, hx])]
      rfl
    rw [heq]
    refine ⟨fun h => by rw [if_pos h], fun h hi => ?_, fun h hi hw => ?_, fun h hi hw => ?_⟩
    · rw [if_neg (by omega), if_pos (by simp [hi])]
    · rw [if_neg (by omega), if_neg (by simp [hi]), if_neg]
      rcases hw with hw | hw
      · simp [hw]
      · simp; omega
    · rw [if_neg (by omega), if_neg (by simp [hi]), if_pos (by simp [h, hw])]
      obtain ⟨t, g, k, p, f, w, henter, hcur⟩ := u.enter_spec s.targetState
      refine ⟨_, rfl, ?_⟩
      rw [henter]
      exact ⟨hcur, rfl, rfl, fun h2 hc => u.gated_banks h2 hc, fun k hk => u.gated_mem hk, fun h2 => (congrArg State.cores (u.gated_shallow h2) : (u.gated s.targetState).cores = u.cores),
        fun h4 => ⟨if_pos h4, if_pos h4⟩⟩
  · let u : State := { s with
      power := { s.power with cur := 0, exiting := false, idleFrom := s.now }
      tables := if 3 ≤ s.power.cur then s.tables.restored else s.tables }
    obtain ⟨tx, l, hltr⟩ := u.ltrUpdate_shape
    have heq : exec .stateExitDone s = .next (if 3 ≤ s.power.cur then u.ltrUpdate.message 0x10 0 0 0 false 0 (s.power.cur * 256) else u.ltrUpdate) := by
      simp only [exec, execStateExitDone]
      rw [if_neg (by simp [hup, hx, htb])]
    obtain ⟨t, g, k, p, hmsg⟩ : ∃ t g k p, (if 3 ≤ s.power.cur then u.ltrUpdate.message 0x10 0 0 0 false 0 (s.power.cur * 256) else u.ltrUpdate) =
        { u.ltrUpdate with tx := t, mgmt := g, counters := k, pba := p } := by
      split
      · exact State.message_shape ..
      · exact ⟨_, _, _, _, rfl⟩
    have hawake : ({ u with tx := t, mgmt := g, counters := k, pba := p, power := { u.power with ltrSent := l } } : State).awake = true := by
      show (s.up && (0 : Nat) == 0 && !false) = true
      rw [hup]
      rfl
    refine ⟨_, heq, ?_⟩
    rw [hmsg, hltr]
    exact ⟨rfl, rfl, rfl, rfl, rfl, rfl, hawake, rfl⟩
  · simp only [exec, execStateExitDone]
    rw [if_pos (by rcases h with h | h <;> simp [h])]

section
/-! PROOFS. Rolig ports, the board, and requests of other devices. -/

namespace Sys2Proof.Machine

/-! ### Ports -/

section
variable (s : State) {p : Nat}

theorem State.port_setPort_self (h : p < s.ports.length) (y : Port) : (s.setPort p y).port p = y := list_getD_set_self h y {}

theorem State.routesNow_shape : ∃ r, s.routesNow = { s with routes := r } := ⟨_, rfl⟩

/-- A port that goes down. -/
theorem State.portDown_shape (p : Nat) : ∃ r, s.portDown p = { s with
    routes := r, ports := s.ports.set p { s.port p with state := 3, width := 0, downs := min ((s.port p).downs + 1) 255, replays := 0 } } := ⟨_, rfl⟩

end

/-- The port after a training attempt that ends with a number of lanes. -/
def Port.trained (y : Port) (lanes : Nat) (peer : RoligPeer) (q : Nat) : Port :=
  { y with state := 2, width := lanes / 4, peer := peer.board % 16, peerPort := q % 16, settings := peer.settings % 1024, links := peer.links, fails := 0, replays := 0 }

section
variable {s : State} {p : Nat} (hup : s.up = true) (hp : p < 12) (hn : s.ports.length = 12)
include hup hp

theorem exec_portTrain_ends (hb : s.boarded = true) (hs : (s.port p).state ≠ 2) {lanes : Nat} (hl : lanes = 8 ∨ lanes = 4) (peer : RoligPeer) (q : Nat) :
    ∃ k r, exec (.portTrain p lanes peer q) s = .next { s with
      counters := k, routes := r, ports := s.ports.set p ((s.port p).trained lanes peer q)
      tx := s.tx ++ [.portHello p s.boot.boardId (bits s.cfg.board.toNat 15 6)]
      boardStatus := if s.boardStatus = 1 ∧ ((s.port p).peer ≠ peer.board ∨ (s.port p).peerPort ≠ q) then 3 else s.boardStatus } := by
  simp only [exec, execPortTrain]
  rw [if_neg (by simp [hup, hb]; omega), if_neg hs, if_pos hl]
  let v : State := { s with
    counters := (s.count (9504 + 6 * p + 5) 1).counters, ports := s.ports.set p ((s.port p).trained lanes peer q)
    tx := s.tx ++ [.portHello p s.boot.boardId (bits s.cfg.board.toNat 15 6)] }
  by_cases hm : s.boardStatus = 1 ∧ ((s.port p).peer ≠ peer.board ∨ (s.port p).peerPort ≠ q)
  · obtain ⟨r, hr⟩ := State.routesNow_shape { v with boardStatus := 3 }
    rw [if_pos hm, if_pos (by simp only [Bool.and_eq_true, beq_iff_eq, Bool.or_eq_true, bne_iff_ne]; exact hm)]
    exact ⟨v.counters, r, congrArg _ hr⟩
  · obtain ⟨r, hr⟩ := v.routesNow_shape
    rw [if_neg hm, if_neg]
    · exact ⟨v.counters, r, congrArg _ hr⟩
    · intro h
      simp only [Bool.and_eq_true, beq_iff_eq, Bool.or_eq_true, bne_iff_ne] at h
      exact hm h

include hn in
theorem exec_portTrain_fails (hb : s.boarded = true) (hs : (s.port p).state ≠ 2) {lanes : Nat} (h8 : lanes ≠ 8) (h4 : lanes ≠ 4) (peer : RoligPeer) (q : Nat) :
    ∃ k r, exec (.portTrain p lanes peer q) s = .next { s with
      counters := k, routes := r
      ports := s.ports.set p (if 3 ≤ (s.port p).fails + 1
        then { s.port p with state := 3, fails := (s.port p).fails + 1, width := 0, downs := min ((s.port p).downs + 1) 255, replays := 0 }
        else { s.port p with state := 1, fails := (s.port p).fails + 1 }) } := by
  simp only [exec, execPortTrain]
  rw [if_neg (by simp [hup, hb]; omega), if_neg hs, if_neg (by simp [h8, h4])]
  by_cases h3 : 3 ≤ (s.port p).fails + 1
  · rw [if_pos h3, if_pos h3]
    let u : State := s.count (9504 + 6 * p + 5) 1
    obtain ⟨r, hdown⟩ := (u.setPort p { s.port p with state := 1, fails := (s.port p).fails + 1 }).portDown_shape p
    rw [State.port_setPort_self u (show p < s.ports.length by omega)] at hdown
    refine ⟨u.counters, r, congrArg _ (hdown.trans ?_)⟩
    simp only [State.setPort, List.set_set]
    rfl
  · rw [if_neg h3, if_neg h3]
    exact ⟨_, _, rfl⟩

/-- A flit that is taken. -/
theorem exec_flitReceive_good (hs : (s.port p).state = 2) {e : Nat} (he : e ≤ 15) : ∃ k, exec (.flitReceive p e true) s = .next { s with
    counters := k, ports := s.ports.set p { s.port p with replays := 0 } } := by
  simp only [exec, execFlitReceive]
  rw [if_neg (by simp [hup, hs]; omega), if_pos (by simp [he])]
  by_cases h0 : e = 0
  · rw [if_pos h0]
    exact ⟨_, rfl⟩
  · rw [if_neg h0, if_pos he]
    exact ⟨_, rfl⟩

/-- A flit that is replayed, or whose replays are over. -/
theorem exec_flitReceive_bad (hs : (s.port p).state = 2) {e : Nat} {ok : Bool} (h : ok = false ∨ 15 < e) :
    ∃ k, exec (.flitReceive p e ok) s = .next (if 8 ≤ (s.port p).replays then State.portDown { s with counters := k } p
      else { s with counters := k, ports := s.ports.set p { s.port p with replays := (s.port p).replays + 1 }, tx := s.tx ++ [.replay p] }) := by
  obtain ⟨k, hk⟩ : ∃ k, (if e = 0 then s else if e ≤ 15 then s.count (9504 + 6 * p + 2) 1 else s.count (9504 + 6 * p + 3) 1) = { s with counters := k } := by
    split
    · exact ⟨s.counters, rfl⟩
    · split <;> exact ⟨_, rfl⟩
  simp only [exec, execFlitReceive]
  rw [if_neg (by simp [hup, hs]; omega), hk, if_neg (by rcases h with h | h <;> simp [h])]
  show ∃ k', Host.Outcome.next (if 8 ≤ (s.port p).replays then _ else _) = _
  by_cases h8 : 8 ≤ (s.port p).replays
  · exact ⟨k, by rw [if_pos h8, if_pos h8]⟩
  · refine ⟨Cells.set 0 (9504 + 6 * p + 4) ((Cells.get 0 (9504 + 6 * p + 4) k + 1) % 2 ^ 64) k, ?_⟩
    rw [if_neg h8, if_neg h8]
    rfl

end

end Sys2Proof.Machine
end

open Sys2Proof Sys2Proof.Machine

/-- Settles O56, by the cases of each row. -/
theorem portRule : Obligations.PortRule := by
  unfold Obligations.PortRule
  intro s p hup hp hn
  have hlt : p < s.ports.length := by omega
  refine ⟨fun hb hs => ⟨fun lanes peer q hl => ?_, fun lanes peer q h8 h4 => ?_⟩, fun hb hs => ?_, fun hs => ⟨fun e he => exec_flitReceive_good hup hp hs he, fun e ok h => ?_, ?_⟩⟩
  · obtain ⟨k, r, heq⟩ := exec_portTrain_ends hup hp hb hs hl peer q
    have hport : (s.ports.set p ((s.port p).trained lanes peer q)).getD p {} = (s.port p).trained lanes peer q := list_getD_set_self hlt _ _
    exact ⟨_, heq, congrArg Port.state hport, congrArg Port.width hport, congrArg Port.peer hport, congrArg Port.peerPort hport, congrArg Port.links hport,
      congrArg Port.settings hport, congrArg Port.fails hport, rfl, rfl, fun j hj => list_getD_set_ne hj _ _ _, rfl, rfl⟩
  · obtain ⟨k, r, heq⟩ := exec_portTrain_fails hup hp hn hb hs h8 h4 peer q
    refine ⟨_, heq, fun h3 => ?_, fun h3 => ?_, fun j hj => list_getD_set_ne hj _ _ _, rfl, rfl⟩
    · rw [State.port, list_getD_set_self hlt, if_neg (by omega)]
      exact ⟨rfl, rfl⟩
    · rw [State.port, list_getD_set_self hlt, if_pos h3]
      exact ⟨rfl, rfl⟩
  · simp only [exec, execPortRetry]
    rw [if_neg (by simp [hup, hb, hs]; omega)]
    rfl
  · obtain ⟨k, heq⟩ := exec_flitReceive_bad hup hp hs h
    refine ⟨fun h8 => ⟨k, heq.trans (by rw [if_neg (by omega)])⟩, fun h8 => ?_⟩
    rw [if_pos h8] at heq
    obtain ⟨r, hdown⟩ := State.portDown_shape { s with counters := k } p
    rw [hdown] at heq
    exact ⟨_, heq, by rw [State.port, list_getD_set_self hlt], rfl⟩
  · obtain ⟨r, hdown⟩ := s.portDown_shape p
    refine ⟨s.portDown p, ?_, ?_⟩
    · simp only [exec, execAckTimeout]
      rw [if_neg (by simp [hup, hs]; omega)]
    · rw [hdown]
      simp only [State.port, list_getD_set_self hlt]
      exact ⟨trivial, trivial, fun j hj => list_getD_set_ne hj _ _ _, trivial, trivial⟩

section
/-! PROOFS. The board, and requests of other devices. -/

namespace Sys2Proof.Machine

/-! ### The board -/

theorem numbered_getElem? {α : Type} (l : List α) (i : Nat) : (numbered l)[i]? = l[i]?.map fun x => (i, x) := by
  by_cases h : i < l.length
  · rw [numbered, List.getElem?_eq_getElem (by simp [h]), List.getElem?_eq_getElem h]
    simp
  · rw [List.getElem?_eq_none (by simp [numbered]; omega), List.getElem?_eq_none (by omega)]
    rfl

/-- A port of the device that is up. -/
def State.portUp (s : State) (p : Nat) : Prop := p < 12 ∧ (s.port p).state = 2

/-- What makes the identities of a board bad. -/
theorem State.identityBad_iff (s : State) : s.identityBad = true ↔
    ∃ p, s.portUp p ∧ ((s.port p).peer = s.boot.boardId ∨ (s.port p).settings ≠ bits s.cfg.board.toNat 15 6 ∨
      ∃ q, s.portUp q ∧ p ≠ q ∧ (s.port q).peer = (s.port p).peer ∧ (s.port q).peerPort = (s.port p).peerPort) := by
  unfold State.identityBad State.portUp
  simp only [List.any_eq_true, List.mem_filter, List.mem_range, beq_iff_eq, Bool.or_eq_true, bne_iff_ne, Bool.and_eq_true, or_assoc, and_assoc]

/-- The status and the routes that BOARD_CONFIGURE gives a board. -/
def State.boardFound (s : State) : Nat := if s.identityBad then 2 else if s.linksOk then 1 else 3

def State.routesFound (s : State) : List Route :=
  (List.range 16).map fun d =>
    if d = s.boot.boardId || bits s.cfg.board.toNat 11 8 < d then ({} : Route)
    else match s.viaOf d with
      | some v => { valid := false, via := v, ports := s.groupTo v }
      | none => {}

theorem exec_boardConfigure {s : State} (hup : s.up = true) (hb : s.boarded = true) (h0 : s.boardStatus = 0) :
    exec .boardConfigure s = .next (State.routesNow { s with boardStatus := s.boardFound, routes := s.routesFound }) := by
  simp only [exec, execBoardConfigure]
  rw [if_neg (by simp [hup, hb, h0])]
  rfl

/-- A valid route of routes computed anew. -/
theorem State.valid_of_routesNow {s : State} {d : Nat} (h : (s.routesNow.routes.getD d {}).valid = true) :
    s.boardStatus = 1 ∧ (∃ p < 12, bit1 (s.routesNow.routes.getD d {}).ports p = true ∧ (s.port p).state = 2) ∧
      ((s.routesNow.routes.getD d {}).via = d ∨ s.farUp (s.routesNow.routes.getD d {}).via d = true) := by
  have hget : s.routesNow.routes[d]? = s.routes[d]?.map fun r =>
      { r with valid := s.boardStatus == 1 && ((List.range 12).any fun p => bit1 r.ports p && (s.port p).state == 2) && (r.via == d || s.farUp r.via d) } := by
    unfold State.routesNow
    rw [List.getElem?_map, numbered_getElem?, Option.map_map]
    rfl
  rw [List.getD_eq_getElem?_getD, hget] at h ⊢
  cases hr : s.routes[d]? with
  | none => rw [hr] at h; cases h
  | some r =>
    rw [hr] at h
    simpa only [Option.map_some, Option.getD_some, Bool.and_eq_true, beq_iff_eq, List.any_eq_true, List.mem_range, Bool.or_eq_true, and_assoc] using h

/-! ### Requests of other devices -/

/-- The range of a request. -/
def RoligReq.range : RoligReq → Nat × Nat
  | .read a n => (a, n)
  | .write a d _ => (a, d.length)
  | .add a _ => (a, 4)

section
variable {s : State} (hup : s.up = true) (hl : s.mem.latent = []) (src a : Nat)
include hup

theorem exec_roligInboundRequest_refused {n : Nat} (h : s.wake.inboundOk src a n = false) :
    exec (.roligInboundRequest src (.read a n)) s = .next { s.wake with inRefused := min (s.inRefused + 1) 0xFFFF, tx := s.tx ++ [.roligRefuse src] } := by
  obtain ⟨p, k, hw⟩ := s.wake_shape
  simp only [exec, execRoligInboundRequest]
  rw [if_neg (by simp [hup]), if_pos (by simp [h]), hw]
  rfl

include hl

theorem exec_roligInboundRequest_read {n : Nat} (h : s.wake.inboundOk src a n = true) :
    ∃ k, exec (.roligInboundRequest src (.read a n)) s = .next { s.wake with
      counters := k, tx := s.tx ++ [.roligAck src (s.mem.read a n) (s.mem.poisoned 64 a n)] } := by
  obtain ⟨p, k, hw⟩ := s.wake_shape
  simp only [exec, execRoligInboundRequest]
  rw [if_neg (by simp [hup]), if_neg (by simp [h]), hw, State.settle_clean { s with power := p, counters := k } _ _ hl]
  obtain ⟨k', hc⟩ := State.carryFrom_shape { s with power := p, counters := k } [(a, n)] 4
  rw [hc]
  exact ⟨k', rfl⟩

theorem exec_roligInboundRequest_write (hs : s.Canonical) (bs : List Byte) (pz : Bool) (h : s.wake.inboundOk src a bs.length = true) :
    ∃ t, exec (.roligInboundRequest src (.write a bs pz)) s = .next t ∧ t.mem.read a bs.length = bs ∧ SameOutside s.mem t.mem [(a, bs.length)] ∧
      t.ctxs = s.ctxs ∧ t.tx = s.tx ++ [.roligAck src [] false] := by
  obtain ⟨p, k, hw⟩ := s.wake_shape
  obtain ⟨m, e, k', heq, hread, hout, -⟩ := State.hubWrite_spec { s with power := p, counters := k } a bs pz hl hs.1
  refine ⟨(State.hubWrite { s with power := p, counters := k } a bs pz).send (.roligAck src [] false), ?_, ?_⟩
  · simp only [exec, execRoligInboundRequest]
    rw [if_neg (by simp [hup]), if_neg (by simp [h]), hw]
    rfl
  · rw [heq]
    exact ⟨hread, hout, rfl, rfl⟩

/-- An add to a slipway. -/
theorem exec_roligInboundRequest_add (inc : Word) (h : s.wake.inboundOk src a 4 = true) :
    ∃ k, exec (.roligInboundRequest src (.add a inc)) s = .next (
      if s.mem.poisoned 64 a 4 then { s.wake with counters := k, tx := s.tx ++ [.roligAck src [] true] }
      else (State.slipAdd { s.wake with counters := k } a inc.toNat).send (.roligAck src [] false)) := by
  obtain ⟨p, k, hw⟩ := s.wake_shape
  obtain ⟨k', hc⟩ := State.carryTo_shape { s with power := p, counters := k } 4 a 4
  refine ⟨k', ?_⟩
  simp only [exec, execRoligInboundRequest]
  rw [if_neg (by simp [hup]), if_neg (by simp [h]), hw, State.settle_clean { s with power := p, counters := k } _ _ hl, hc]
  rfl

end

end Sys2Proof.Machine
end

open Sys2Proof Sys2Proof.Machine

/-- Settles O57: the board by `State.identityBad_iff` and `State.valid_of_routesNow`, requests by their kinds. -/
theorem boardAndInbound : Obligations.BoardAndInbound := by
  unfold Obligations.BoardAndInbound
  refine ⟨fun s h => ?_, fun s hup hb h0 => ?_, fun s src a hup hs hl => ⟨fun n h => exec_roligInboundRequest_read hup hl src a h,
    fun bs pz h => exec_roligInboundRequest_write hup hl src a hs bs pz h, fun inc h => ?_, fun n h => exec_roligInboundRequest_refused hup src a h⟩⟩
  · simp only [exec, execBoardConfigure]
    rw [if_pos (by rcases h with h | h <;> simp [h])]
  · let u : State := { s with boardStatus := s.boardFound, routes := s.routesFound }
    refine ⟨_, exec_boardConfigure hup hb h0, ⟨fun hbad => ?_, fun hgood => ?_⟩, rfl, ?_, fun d _ hv => State.valid_of_routesNow (s := u) hv⟩
    · exact if_pos (s.identityBad_iff.2 hbad)
    · exact if_neg fun h => hgood (s.identityBad_iff.1 h)
    · simp [State.routesNow, State.routesFound]
  · obtain ⟨k, heq⟩ := exec_roligInboundRequest_add hup hl src a inc h
    refine ⟨fun hp => ?_, fun hp => ⟨k, heq.trans (by rw [if_pos hp])⟩⟩
    obtain ⟨p, k', hw⟩ := s.wake_shape
    rw [if_neg (by simp [hp]), hw] at heq
    obtain ⟨m, e, k₂, hadd, hval, hout⟩ := State.slipAdd_spec (s := { s with power := p, counters := k }) (a := a) inc.toNat hl hs.1
    refine ⟨_, heq, ?_, ?_⟩
    · refine Eq.trans hval ?_
      rw [BitVec.ofNat_toNat, BitVec.setWidth_eq]
      rfl
    · show SameOutside s.mem (State.slipAdd { s with power := p, counters := k } a inc.toNat).mem _ ∧ (State.slipAdd { s with power := p, counters := k } a inc.toNat).ctxs = _
      rw [hadd]
      exact ⟨hout, rfl⟩

section
/-! PROOFS. Answers to the device's own requests. -/

namespace Sys2Proof.Machine

/-! ### Requests that fail -/

/-- A failed request of a live context tears it down. -/
theorem State.failAsker_torn {s : State} {w : Asker} (h : (s.ctx w.ctx).alive = true) (code : Nat) : ((s.failAsker w code).ctx w.ctx).torn = true := by
  unfold State.failAsker
  dsimp only
  cases hst : w.stage with
  | none => exact s.faultCtx_torn _ _ _ h
  | some x =>
    refine State.faultCtx_torn _ _ _ _ ?_
    rw [State.ctx_setCtx_self (State.ctx_lt_of_live (by simp only [Ctx.alive, Bool.and_eq_true] at h; exact h.1))]
    exact h

theorem State.putMessage_running (s : State) (kind ref ctx ring : Nat) (mg : Bool) (code detail : Nat) :
    (s.putMessage kind ref ctx ring mg code detail).mgmt.running = s.mgmt.running := by
  unfold State.putMessage
  dsimp only
  rw [State.sendMsix_mgmt]
  rfl

theorem State.mgmtDone_running (s : State) (code detail : Nat) : (s.mgmtDone code detail).mgmt.running = none := by
  unfold State.mgmtDone
  split
  · assumption
  · exact State.putMessage_running ..

/-! ### Data and acknowledgements -/

/-- The data of a read goes to its place in device memory. -/
theorem State.readData_spec {s : State} (hs : s.Canonical) (hl : s.mem.latent = []) (q : Outstanding) {bs : List Byte} (hn : q.n ≤ bs.length) (pz : Bool) :
    ∃ m k e, s.readData q bs pz = { s with mem := m, counters := k, dbg := { s.dbg with eccArmed := e } } ∧ m.read q.dst q.n = bs.take q.n ∧
      SameOutside s.mem m [(q.dst, q.n)] := by
  obtain ⟨k, hc⟩ := s.carryTo_shape 4 q.dst (min q.n bs.length)
  obtain ⟨m, e, hw, hread, hout, -⟩ := State.devWrite_spec { s with counters := k } q.dst (bs.take q.n) pz hl hs.1
  rw [List.length_take, Nat.min_eq_left hn] at hread hout
  exact ⟨m, k, e, by rw [State.readData, hc, hw], hread, hout⟩

/-- Nothing more is awaited for what an answer is for. -/
def Answered (q : Outstanding) (os : List Outstanding) : Prop := ∀ o ∈ os, ¬ (o.ctx = q.ctx ∧ o.uid = q.uid ∧ o.exec = q.exec)

theorem State.asks_of_answered {s : State} {q : Outstanding} (h : Answered q (s.reads ++ s.remote)) : s.asks q.toAsker = false := by
  simp only [State.asks, Bool.or_eq_false_iff, List.any_eq_false, Bool.and_eq_true, beq_iff_eq, and_assoc]
  exact ⟨fun o ho => h o (List.mem_append_left _ ho), fun o ho => h o (List.mem_append_right _ ho)⟩

theorem State.phaseDebt_spec (s : State) (c : Nat) (phase : Bool) : ∃ x, s.phaseDebt c phase = { s with ctxs := x } ∧
    (∀ d, d ≠ c → (s.phaseDebt c phase).ctx d = s.ctx d) ∧ ∀ u w, s.Finished c u w → (s.phaseDebt c phase).Finished c u w := by
  unfold State.phaseDebt
  dsimp only
  split
  · refine ⟨_, rfl, fun d hd => State.ctx_setCtx_ne s hd _, fun u w h => ?_⟩
    by_cases hc : c < s.ctxs.length
    · rw [State.Finished, State.ctx_setCtx_self hc]
      exact h
    · rw [State.setCtx, List.set_eq_of_length_le (Nat.le_of_not_lt hc)]
      exact h
  · exact ⟨_, rfl, fun _ _ => rfl, fun _ _ h => h⟩

/-- An answer without a slipway: it changes its context alone, and the last one ends its command. -/
theorem State.answered_spec {s : State} {q : Outstanding} (hslip : q.slip = none) : ∃ x, s.answered q = { s with ctxs := x } ∧
    (∀ c, c ≠ q.ctx → (s.answered q).ctx c = s.ctx c) ∧
    (q.last = true → (s.ctx q.ctx).alive = true → Answered q (s.reads ++ s.remote) → (s.answered q).Finished q.ctx q.uid s.now) := by
  have heq : s.answered q = if q.last && (s.ctx q.ctx).alive && !s.asks q.toAsker then (s.finish q.ctx q.uid).phaseDebt q.ctx q.phase else s.listEnd q.ctx q.uid := by
    rw [State.answered, hslip]
  rw [heq]
  have hfin := maps_finish s q.ctx q.uid
  split
  · obtain ⟨x, hx, hother, hfinished⟩ := (s.finish q.ctx q.uid).phaseDebt_spec q.ctx q.phase
    exact ⟨x, hx, fun c hc => (hother c hc).trans (hfin.kept.1 c hc), fun _ _ _ => hfinished _ _ (hfin.finished fun _ => rfl)⟩
  · rename_i hno
    obtain ⟨f, hf, hsame, -⟩ := maps_listEnd s q.ctx q.uid
    exact ⟨_, hsame, fun c hc => hf.kept.1 c hc, fun h1 h2 h3 => absurd (by rw [h1, h2, State.asks_of_answered h3]; rfl) hno⟩

/-! ### Reads of host memory -/

section
variable {s : State} {q : Outstanding} {r : List Outstanding} (hr : s.reads = q :: r) (hup : s.hostUp = true)
include hr hup

theorem exec_hostReadCompletion_ok (bs : List Byte) (ep : Bool) :
    ∃ k, exec (.hostReadCompletion (.ok bs ep)) s = .next ((State.readData { s with reads := r, counters := k } q bs ep).answered q) := by
  obtain ⟨k, hk⟩ := State.received_shape { s with reads := r } bs.length
  simp only [exec, execHostReadCompletion, hr]
  rw [if_neg (by simp [hup]), State.fetched, hk]
  exact ⟨k, rfl⟩

theorem exec_hostReadCompletion_failed : exec (.hostReadCompletion .failed) s = .next (State.failAsker { s with reads := r } q.toAsker 0x314) := by
  simp only [exec, execHostReadCompletion, hr]
  rw [if_neg (by simp [hup])]
  rfl

theorem exec_hostReadTimeout : exec .hostReadTimeout s = .next (if s.now.toNat - q.issued.toNat < 50000000 then s
    else State.failAsker { s with reads := r } q.toAsker 0x314) := by
  simp only [exec, execHostReadTimeout, hr, State.up_of_hostUp hup, State.since]
  by_cases h : s.now.toNat - q.issued.toNat < 50000000
  · rw [if_pos h, if_pos (by simp [h])]
  · rw [if_neg h, if_neg (by simp [h])]

end

/-! ### Requests to other devices -/

section
variable {s : State} {q : Outstanding} {r : List Outstanding} (hr : s.remote = q :: r) (hup : s.up = true)
include hr hup

theorem exec_remoteAck_mgmt (hq : q.ctx = mgmtCtx) (bs : List Byte) (pz refused : Bool) :
    exec (.remoteAck bs pz refused) s = .next (State.mgmtDone { s with remote := r } (if refused then 0x315 else 0) 0) := by
  simp only [exec, execRemoteAck, hr]
  rw [if_neg (by simp [hup]), if_pos hq]

variable (hq : q.ctx ≠ mgmtCtx)
include hq

theorem exec_remoteTimeout : exec .remoteTimeout s = .next (if s.now.toNat - q.issued.toNat < 100000 then s
    else State.failAsker { s with remote := r } q.toAsker 0x315) := by
  simp only [exec, execRemoteTimeout, hr, hup, State.since]
  by_cases h : s.now.toNat - q.issued.toNat < 100000
  · rw [if_pos h, if_pos (by simp [h])]
  · rw [if_neg h, if_neg (by simp [h]), if_neg hq]

variable (ha : (s.ctx q.ctx).alive = true)
include ha

theorem exec_remoteAck (bs : List Byte) (pz refused : Bool) : exec (.remoteAck bs pz refused) s = .next (
    if refused then State.failAsker { s with remote := r } q.toAsker 0x315
    else match q.kind with
      | .data => (State.readData { s with remote := r } q bs pz).answered q
      | .added => if pz then State.failAsker { s with remote := r } q.toAsker 0x310 else State.answered { s with remote := r } q
      | .written => State.answered { s with remote := r } q) := by
  have halive : ¬ (!(State.ctx { s with remote := r } q.ctx).alive) = true := by
    rw [show (State.ctx { s with remote := r } q.ctx).alive = true from ha]
    decide
  simp only [exec, execRemoteAck, hr]
  rw [if_neg (by simp [hup]), if_neg hq, if_neg halive] <;> rfl

end

end Sys2Proof.Machine
end

open Sys2Proof Sys2Proof.Machine

/-- Settles O58: data by `State.readData_spec`, the end of a command by `State.answered_spec`, failures by `State.failAsker_torn`. -/
theorem answersOfRequests : Obligations.AnswersOfRequests := by
  unfold Obligations.AnswersOfRequests
  intro s hs hl asked
  refine ⟨fun q r hr hup => ⟨fun bs ep hn hslip => ?_, fun ha => ?_, fun ht ha => ?_, fun ht => ?_⟩,
    fun q r hr hup ha hq => ⟨fun bs pz hk hn hslip => ?_, fun bs pz hk hslip => ?_, fun bs hk => ?_, fun bs pz => ?_, fun ht => ?_, fun ht => ?_⟩,
    fun q r hr hup hq bs pz refused => ?_⟩
  · obtain ⟨k, heq⟩ := exec_hostReadCompletion_ok hr hup bs ep
    obtain ⟨m, k', e, hdata, hread, hout⟩ := State.readData_spec (s := { s with reads := r, counters := k }) hs hl q hn ep
    rw [hdata] at heq
    obtain ⟨x, hx, hother, hfin⟩ := State.answered_spec (s := { s with reads := r, mem := m, counters := k', dbg := { s.dbg with eccArmed := e } }) hslip
    refine ⟨_, heq, ?_, ?_, ?_, ?_, hother, hfin⟩
    all_goals rw [hx]
    · exact hread
    · exact hout
  · exact ⟨_, exec_hostReadCompletion_failed hr hup, State.failAsker_torn (s := { s with reads := r }) ha _⟩
  · have heq := exec_hostReadTimeout hr hup
    rw [if_neg (by omega)] at heq
    exact ⟨_, heq, State.failAsker_torn (s := { s with reads := r }) ha _⟩
  · rw [exec_hostReadTimeout hr hup, if_pos ht]
  · have heq := exec_remoteAck hr hup hq ha bs pz false
    obtain ⟨m, k', e, hdata, hread, hout⟩ := State.readData_spec (s := { s with remote := r }) hs hl q hn pz
    rw [hk] at heq
    dsimp only at heq
    rw [if_neg (by decide), hdata] at heq
    obtain ⟨x, hx, hother, -⟩ := State.answered_spec (s := { s with remote := r, mem := m, counters := k', dbg := { s.dbg with eccArmed := e } }) hslip
    refine ⟨_, heq, ?_, ?_, ?_, hother⟩
    all_goals rw [hx]
    · exact hread
    · exact hout
  · have heq : exec (.remoteAck bs pz false) s = .next (State.answered { s with remote := r } q) := by
      rw [exec_remoteAck hr hup hq ha bs pz false, if_neg (by decide)]
      rcases hk with hk | ⟨hk, rfl⟩ <;> rw [hk]
      rfl
    obtain ⟨x, hx, -, hfin⟩ := State.answered_spec (s := { s with remote := r }) hslip
    refine ⟨_, heq, ?_, ?_, fun hlast hno => hfin hlast ha hno⟩
    all_goals rw [hx]
  · have heq := exec_remoteAck hr hup hq ha bs true false
    rw [hk] at heq
    exact ⟨_, heq, State.failAsker_torn (s := { s with remote := r }) ha _⟩
  · exact ⟨_, exec_remoteAck hr hup hq ha bs pz true, State.failAsker_torn (s := { s with remote := r }) ha _⟩
  · have heq := exec_remoteTimeout hr hup hq
    rw [if_neg (by omega)] at heq
    exact ⟨_, heq, State.failAsker_torn (s := { s with remote := r }) ha _⟩
  · rw [exec_remoteTimeout hr hup hq, if_pos ht]
  · refine ⟨_, exec_remoteAck_mgmt hr hup hq bs pz refused, ?_, State.mgmtDone_running _ _ _, ?_⟩
    all_goals
      obtain ⟨t, g, k, p, h⟩ := State.mgmtDone_shape { s with remote := r } (if refused then 0x315 else 0) 0
      rw [h]

section
/-! PROOFS. Reads of protected units. -/

namespace Sys2Proof.Machine

/-! ### Memories by their names -/

/-- A memory whose bad symbols alone change keeps its bytes and its poison. -/
theorem State.memOf_setMem_latent (s : State) (m : MemTarget) (l : List (Nat × Nat)) :
    ((s.setMem m { s.memOf m with latent := l }).memOf m).cells = (s.memOf m).cells ∧
      ((s.setMem m { s.memOf m with latent := l }).memOf m).poison = (s.memOf m).poison := by
  cases m with
  | dram => exact ⟨rfl, rfl⟩
  | hub => exact ⟨rfl, rfl⟩
  | dieBuf d =>
    show ((s.dieBuf.set d _).getD d {}).cells = _ ∧ ((s.dieBuf.set d _).getD d {}).poison = _
    by_cases h : d < s.dieBuf.length
    · rw [list_getD_set_self h]
      exact ⟨rfl, rfl⟩
    · rw [List.set_eq_of_length_le (Nat.le_of_not_lt h)]
      exact ⟨rfl, rfl⟩
  | core k =>
    show ((s.setCore k _).core k).mem.cells = _ ∧ ((s.setCore k _).core k).mem.poison = _
    by_cases h : k < s.cores.length
    · rw [State.core_setCore_self h]
      exact ⟨rfl, rfl⟩
    · rw [State.setCore, List.set_eq_of_length_le (Nat.le_of_not_lt h)]
      exact ⟨rfl, rfl⟩

/-- A memory in lines of 64 bytes that the model has. -/
theorem State.memOf_setMem_line {s : State} {m : MemTarget} (hu : memUnit m = 64) (h : ∀ b, m = .dieBuf b → b < s.dieBuf.length) (y : Mem) :
    (s.setMem m y).memOf m = y := by
  cases m with
  | dram => rfl
  | dieBuf d => exact list_getD_set_self (h d rfl) _ _
  | core _ => cases hu
  | hub => cases hu

theorem Mem.poisoned_unit {m : Mem} {t : MemTarget} {a : Nat} : m.poisoned (memUnit t) a 1 = NatSet.mem (a / memUnit t) m.poison := by
  cases t <;> simp [Mem.poisoned, unitsOf, memUnit]

/-! ### Events -/

section
variable (s : State)

/-- A memory error counts on its die, and its log and the messages change. -/
theorem State.memError_spec (d source addr stack ch core : Nat) (ctx : Option Nat) :
    ∃ lo hi t g k p, s.memError d source addr stack ch core ctx = { s with
      dies := s.dies.set d { s.die d with uncorr := min ((s.die d).uncorr + 1) 0xFFFF, logLo := lo, logHi := hi }
      tx := t, mgmt := g, counters := k, pba := p } := by
  obtain ⟨lo, hi, hy⟩ : ∃ lo hi, (if (s.die d).logLo.toNat % 2 = 1 then { s.die d with uncorr := min ((s.die d).uncorr + 1) 0xFFFF }
      else { s.die d with uncorr := min ((s.die d).uncorr + 1) 0xFFFF, logLo := (logWords source addr stack ch core ctx).1, logHi := (logWords source addr stack ch core ctx).2 }) =
      { s.die d with uncorr := min ((s.die d).uncorr + 1) 0xFFFF, logLo := lo, logHi := hi } := by
    split
    · exact ⟨(s.die d).logLo, (s.die d).logHi, rfl⟩
    · exact ⟨_, _, rfl⟩
  unfold State.memError
  dsimp only
  rw [hy]
  obtain ⟨t, g, k, p, h⟩ := State.message_shape (s.setDie d { s.die d with uncorr := min ((s.die d).uncorr + 1) 0xFFFF, logLo := lo, logHi := hi })
    0x02 0 (ctx.getD 0) (d % 4) false 0 (hi.toNat * 2 ^ 32 + lo.toNat)
  exact ⟨lo, hi, t, g, k, p, h⟩

/-- The event of an uncorrectable unit counts on the die of its memory. -/
theorem State.badEvent_spec (m : MemTarget) (a : Nat) (v : Option Nat) :
    ∃ lo hi t g k p, s.badEvent m a v = { s with
      dies := s.dies.set (s.countDie m a) { s.die (s.countDie m a) with
        uncorr := min ((s.die (s.countDie m a)).uncorr + 1) 0xFFFF, logLo := lo, logHi := hi }
      tx := t, mgmt := g, counters := k, pba := p } := by
  obtain ⟨k, hk⟩ := s.errCounter_shape m a 3
  unfold State.badEvent
  dsimp only
  rw [hk]
  cases m <;> exact State.memError_spec { s with counters := k } ..

/-- A read of a unit changes no context, and the dies only by counting. -/
theorem State.consume_dies (m : MemTarget) (a : Nat) (v : Option Nat) : (s.consume m a v).dies = s.dies := by
  unfold State.consume
  split
  · rfl
  · rename_i c
    split
    · obtain ⟨_, _, _, _, _, _, _, _, h, -⟩ := s.faultCtx_shape c 0x310 none
      rw [h]
    · rfl

/-- What an event beside a change of its memory leaves and counts. -/
theorem State.badEvent_setMem_spec (m : MemTarget) (y : Mem) (n a : Nat) (v : Option Nat) :
    (State.badEvent { s.setMem m y with free := n } m a v).memOf m = (s.setMem m y).memOf m ∧
    (State.badEvent { s.setMem m y with free := n } m a v).ctxs = s.ctxs ∧
    (s.countDie m a < s.dies.length →
      ((State.badEvent { s.setMem m y with free := n } m a v).die (s.countDie m a)).uncorr = min ((s.die (s.countDie m a)).uncorr + 1) 0xFFFF ∧
      ((State.badEvent { s.setMem m y with free := n } m a v).die (s.countDie m a)).corr = (s.die (s.countDie m a)).corr) := by
  obtain ⟨q, b, c, e, hset⟩ := s.setMem_shape m y
  have hcount : State.countDie { s.setMem m y with free := n } m a = s.countDie m a := by cases m <;> rfl
  obtain ⟨lo, hi, t, g, k, p, hev⟩ := State.badEvent_spec { s.setMem m y with free := n } m a v
  rw [hcount] at hev
  rw [hev]
  refine ⟨by cases m <;> rfl, by rw [hset], fun hd => ?_⟩
  rw [hset]
  simp only [State.die, list_getD_set_self hd]
  exact ⟨trivial, trivial⟩

end

section
variable {s : State} {m : MemTarget} {a : Nat}

/-- Poison tears down the context that uses it. -/
theorem State.consume_torn {c : Nat} (hp : NatSet.mem (a / memUnit m) (s.memOf m).poison = true) (ha : (s.ctx c).alive = true) :
    ((s.consume m a (some c)).ctx c).torn = true := by
  rw [State.consume, Mem.poisoned_unit, if_pos hp]
  exact s.faultCtx_torn c 0x310 none ha

theorem State.consume_clean (hp : NatSet.mem (a / memUnit m) (s.memOf m).poison = false) (v : Option Nat) : s.consume m a v = s := by
  unfold State.consume
  split
  · rfl
  · rw [Mem.poisoned_unit, if_neg (by simp [hp])]

/-- MEMORY_READ is a read of the unit, then the use of its bytes. -/
theorem exec_memoryRead (hup : s.up = true) (hm : memHas m a = true) (n : Nat) (user : Option Nat) :
    ∃ k, exec (.memoryRead m a n user) s = .next ((State.unitRead { s with counters := k } m (a / memUnit m) n user).consume m a user) := by
  simp only [exec, execMemoryRead]
  rw [if_neg (by simp [hm]), if_neg (by simp [hup])]
  cases m
  · exact ⟨_, rfl⟩
  · exact ⟨_, rfl⟩
  · exact ⟨s.counters, rfl⟩
  · exact ⟨s.counters, rfl⟩

end

/-! ### What a read of a unit finds -/

section
variable {s : State} {m : MemTarget} {x n : Nat} (v : Option Nat)

/-- The memory with the bad symbols of unit x gone. -/
def State.healed (s : State) (m : MemTarget) (x : Nat) : Mem := { s.memOf m with latent := Cells.set 0 x 0 (s.memOf m).latent }

/-- Bad symbols that a read of unit x sees. -/
def State.badSymbols (s : State) (m : MemTarget) (x n : Nat) : Nat := Cells.get 0 x (s.memOf m).latent + n

theorem State.unitRead_poisoned (hp : NatSet.mem x (s.memOf m).poison = true) :
    (s.badSymbols m x n ≤ 2 → s.unitRead m x n v = s) ∧
    (2 < s.badSymbols m x n → ∃ w, s.unitRead m x n v = (s.setMem m (s.healed m x)).badEvent m (x * memUnit m) w) := by
  unfold State.badSymbols
  refine ⟨fun h => ?_, fun h => ?_⟩
  · unfold State.unitRead
    dsimp only
    rw [if_pos hp, if_pos h]
  · unfold State.unitRead
    dsimp only
    rw [if_pos hp, if_neg (Nat.not_le.2 h)]
    exact ⟨_, rfl⟩

theorem State.unitRead_good (hp : NatSet.mem x (s.memOf m).poison = false) (hn : s.badSymbols m x n = 0) : s.unitRead m x n v = s := by
  unfold State.badSymbols at hn
  unfold State.unitRead
  dsimp only
  rw [if_neg (by simp [hp]), found, if_pos hn]

theorem State.unitRead_fixed (hp : NatSet.mem x (s.memOf m).poison = false) (hn : s.badSymbols m x n = 1 ∨ s.badSymbols m x n = 2) :
    s.unitRead m x n v = ((s.setMem m (s.healed m x)).errCounter m (x * memUnit m) 2).corrected (s.countDie m (x * memUnit m)) := by
  unfold State.badSymbols at hn
  unfold State.unitRead
  dsimp only
  rw [if_neg (by simp [hp]), found, if_neg (by omega), if_pos (by omega)]
  rfl

theorem State.unitRead_bad (hp : NatSet.mem x (s.memOf m).poison = false) (hn : s.badSymbols m x n = 3 ∨ s.badSymbols m x n = 4) (hu : memUnit m = 64) :
    ∃ w, s.unitRead m x n v = State.badEvent { s.setMem m { s.healed m x with poison := NatSet.add x (s.healed m x).poison } with
      free := s.free + 1 } m (x * memUnit m) w := by
  unfold State.badSymbols at hn
  unfold State.unitRead
  dsimp only
  rw [if_neg (by simp [hp]), found, if_neg (by omega), if_neg (by omega), if_pos (by simp [hu]; omega)]
  exact ⟨_, rfl⟩

end

end Sys2Proof.Machine
end

open Sys2Proof Sys2Proof.Machine

/-- Settles O51, by what a read of the unit finds. -/
theorem memoryReadRule : Obligations.MemoryReadRule := by
  unfold Obligations.MemoryReadRule
  intro s m a n user hup
  refine ⟨fun hm => ?_, fun hm => ?_⟩
  · simp only [exec, execMemoryRead]
    rw [if_pos (by simp [hm])]
  intro x bad d
  obtain ⟨k, heq⟩ := exec_memoryRead hup hm n user
  let u : State := { s with counters := k }
  have hmem : u.memOf m = s.memOf m := by cases m <;> rfl
  have hcount : u.countDie m (x * memUnit m) = d := by cases m <;> rfl
  have hbad : u.badSymbols m x n = bad := by rw [State.badSymbols, hmem]
  refine ⟨fun hp => ?_, fun hp => ⟨fun h0 => ?_, fun h12 hd => ?_, fun h34 hu hd hbuf => ?_, fun _ => ⟨_, heq⟩⟩⟩
  all_goals rw [← hmem] at hp
  · obtain ⟨hfew, hmany⟩ := State.unitRead_poisoned (s := u) (n := n) user hp
    rw [hbad] at hfew hmany
    by_cases h2 : bad ≤ 2
    · rw [hfew h2] at heq
      refine ⟨_, heq, ?_, fun _ => ⟨State.consume_dies u m a user, ?_⟩, fun h => absurd h (by omega)⟩
      · rintro c rfl ha
        exact State.consume_torn (s := u) hp ha
      · rintro rfl
        exact ⟨k, rfl⟩
    · obtain ⟨w, hread⟩ := hmany (by omega)
      obtain ⟨hkeep, hctxs, hdie⟩ := u.badEvent_setMem_spec m (u.healed m x) (u.setMem m (u.healed m x)).free (x * memUnit m) w
      rw [hread] at heq
      refine ⟨_, heq, ?_, fun h => absurd h h2, fun _ hlt => ?_⟩
      · rintro c rfl ha
        refine State.consume_torn ?_ ?_
        · refine (congrArg (fun y : Mem => NatSet.mem (a / memUnit m) y.poison) hkeep).trans ?_
          exact (congrArg (NatSet.mem (a / memUnit m)) (u.memOf_setMem_latent m _).2).trans hp
        · exact (congrArg Ctx.alive (State.ctx_of_ctxs hctxs c)).trans ha
      · rw [hcount] at hdie
        rw [State.die, State.consume_dies]
        exact hdie hlt
  · rw [State.unitRead_good (s := u) user hp (hbad.trans h0), State.consume_clean hp] at heq
    exact ⟨_, k, heq, rfl⟩
  · have hread := State.unitRead_fixed (s := u) user hp (by rw [hbad]; exact h12)
    obtain ⟨k', hk⟩ := (u.setMem m (u.healed m x)).errCounter_shape m (x * memUnit m) 2
    obtain ⟨q, b, c, e, hset⟩ := u.setMem_shape m (u.healed m x)
    obtain ⟨hcells, hpoison⟩ := u.memOf_setMem_latent m (Cells.set 0 x 0 (u.memOf m).latent)
    have hkeep : (u.unitRead m x n user).memOf m = (u.setMem m (u.healed m x)).memOf m := by
      rw [hread, hk]
      cases m <;> rfl
    rw [State.consume_clean (by rw [hkeep]; exact (congrArg (NatSet.mem _) hpoison).trans hp)] at heq
    refine ⟨_, heq, ?_, ?_, ?_⟩
    · rw [hkeep]
      exact hcells.trans (congrArg Mem.cells hmem)
    · rw [hkeep]
      exact hpoison.trans (congrArg Mem.poison hmem)
    · rw [hread, hk, hset, hcount]
      refine ⟨?_, ?_, rfl⟩
      · exact congrArg Die.corr (list_getD_set_self hd _ _)
      · show ((s.dies.set d { s.die d with corr := min ((s.die d).corr + 1) 0xFFFF }).getD d {}).uncorr = _
        rw [list_getD_set_self hd]
  · obtain ⟨w, hread⟩ := State.unitRead_bad (s := u) user hp (by rw [hbad]; exact h34) hu
    obtain ⟨hkeep, hctxs, hdie⟩ := u.badEvent_setMem_spec m { u.healed m x with poison := NatSet.add x (u.healed m x).poison } (u.free + 1) (x * memUnit m) w
    rw [hcount] at hdie
    rw [State.memOf_setMem_line (s := u) hu hbuf] at hkeep
    rw [hread] at heq
    obtain ⟨h1, h2⟩ := hdie hd
    have hpoison : NatSet.mem x (NatSet.add x (u.healed m x).poison) = true := by simp
    refine ⟨_, heq, ?_, ?_, ?_, ?_⟩
    · rw [State.die, State.consume_dies]
      exact h1
    · rw [State.die, State.consume_dies]
      exact h2
    · rintro rfl
      refine ⟨(congrArg Mem.cells hkeep).trans (congrArg Mem.cells hmem : (u.memOf m).cells = (s.memOf m).cells), ?_, hctxs⟩
      exact (congrArg (fun y : Mem => NatSet.mem x y.poison) hkeep).trans hpoison
    · rintro c rfl ha
      refine State.consume_torn ?_ ((congrArg Ctx.alive (State.ctx_of_ctxs hctxs c)).trans ha)
      exact (congrArg (fun y : Mem => NatSet.mem x y.poison) hkeep).trans hpoison

section
/-! PROOFS. Writes that reach their home, scrubbing and refreshes. -/

namespace Sys2Proof.Machine

/-! ### Writes that reach their home -/

/-- Is a slot the output slot at an offset. -/
def Slot.outAt (z : Slot) (off : Nat) : Bool := z.off == off && match z.operand with | .out _ => true | _ => false

theorem State.slotHome_some {s : State} {q : Pending} {off : Nat} (h : q.out = some off) :
    s.slotHome q = s.setCore q.core { s.core q.core with slots := (s.core q.core).slots.filter fun z => !z.outAt off } := by
  rw [State.slotHome, h]
  rfl

theorem State.slotHome_shape (s : State) (q : Pending) : ∃ y, s.slotHome q = { s with cores := y } := by
  unfold State.slotHome
  split
  · exact ⟨s.cores, rfl⟩
  · exact ⟨_, rfl⟩

/-- The slot that a write was the last to drain is free. -/
theorem State.slotHome_free {s : State} {q : Pending} {off : Nat} (h : q.out = some off) :
    ∀ z ∈ ((s.slotHome q).core q.core).slots, z.off = off → ∀ o, z.operand ≠ .out o := by
  intro z hz hoff o ho
  rw [State.slotHome_some h] at hz
  by_cases hk : q.core < s.cores.length
  · rw [State.core_setCore_self hk] at hz
    simp [Slot.outAt, hoff, ho] at hz
  · rw [State.setCore, List.set_eq_of_length_le (Nat.le_of_not_lt hk)] at hz
    rw [State.core, List.getD_eq_getElem?_getD, List.getElem?_eq_none (by exact Nat.le_of_not_lt hk)] at hz
    cases hz

section
variable (s : State) (c u : Nat) (e : Option Nat)

/-- What a command's tile commands kept is over: no command of any context changes, and of the cores only their rings. -/
theorem State.tilesOver_spec : ∃ x y, s.tilesOver c u e = { s with ctxs := x, cores := y } ∧ (∀ d, d ≠ c → (s.tilesOver c u e).ctx d = s.ctx d) ∧
    ((s.tilesOver c u e).ctx c).cmds = (s.ctx c).cmds ∧ ∀ k, ((s.tilesOver c u e).core k).slots = (s.core k).slots := by
  refine ⟨_, _, rfl, fun d hd => State.ctx_setCtx_ne s hd _, ?_, fun k => ?_⟩
  · show ((s.setCtx c _).ctx c).cmds = _
    by_cases hc : c < s.ctxs.length
    · rw [State.ctx_setCtx_self hc]
    · rw [State.setCtx, List.set_eq_of_length_le (Nat.le_of_not_lt hc)]
  · simp only [State.core, State.tilesOver, List.getD_eq_getElem?_getD, List.getElem?_map]
    cases s.cores[k]? <;> rfl

end

/-- The progress of a list once one more of the tile commands of execution e is home. -/
def StepProg.homed (p : StepProg) (e : Nat) : StepProg := { p with tiles := p.tiles.map fun x => if x.1 = e then (e, x.2.1, x.2.2 - 1) else x }

theorem StepProg.tilesOf_homed {p : StepProg} {e n : Nat} {un : List Nat} (h : p.tilesOf e = some (un, n)) : (p.homed e).tilesOf e = some (un, n - 1) := by
  unfold StepProg.tilesOf at h ⊢
  have hkey : ∀ x : Nat × List Nat × Nat, ((if x.1 = e then (e, x.2.1, x.2.2 - 1) else x).1 == e) = (x.1 == e) := by
    intro x
    split
    case isTrue hx => simp [hx]
    case isFalse => rfl
  simp only [StepProg.homed, List.find?_map, Function.comp_def, hkey]
  cases hf : p.tiles.find? (fun x => x.1 == e) with
  | none => rw [hf] at h; cases h
  | some x =>
    rw [hf] at h
    have hx : x.1 = e := by simpa using List.find?_some hf
    have h2 : x.2 = (un, n) := Option.some.inj h
    simp [hx, h2]

/-- The last write of a tile command counts it home. -/
theorem State.tileHome_spec (s : State) (q : Pending) : ∃ x y, s.tileHome q = { s with ctxs := x, cores := y } ∧
    (∀ c, c ≠ q.ctx → (s.tileHome q).ctx c = s.ctx c) ∧ (∀ k, ((s.tileHome q).core k).slots = (s.core k).slots) ∧
    (∀ m, q.exec = none → (s.ctx q.ctx).byUid q.uid = some m → m.tilesDone = 1 → m.unplaced = [] → (s.tileHome q).Finished q.ctx q.uid s.now) ∧
    (∀ m e un n, q.exec = some e → (s.ctx q.ctx).byUid q.uid = some m → m.steps.tilesOf e = some (un, n) →
      ∀ z ∈ ((s.tileHome q).ctx q.ctx).cmds, z.uid = q.uid → z.steps.tilesOf e = some (un, n - 1)) := by
  cases hm : (s.ctx q.ctx).byUid q.uid with
  | none =>
    have heq : s.tileHome q = s := by
      unfold State.tileHome
      simp only [hm]
    rw [heq]
    exact ⟨_, _, rfl, fun _ _ => rfl, fun _ => rfl, fun _ _ h => (by cases h), fun _ _ _ _ _ h => (by cases h)⟩
  | some m =>
    have hu : m.uid = q.uid := by simpa using List.find?_some hm
    cases he : q.exec with
    | none =>
      let m' : Cmd := { m with tilesDone := m.tilesDone - 1 }
      have hput : Maps q.ctx m.uid (fun _ => m') s (s.putCmd q.ctx m') := maps_putCmd s q.ctx m'
      have heq : s.tileHome q = if m'.tilesDone = 0 && m'.unplaced.isEmpty then ((s.putCmd q.ctx m').tilesOver q.ctx q.uid none).finish q.ctx q.uid
          else s.putCmd q.ctx m' := by
        unfold State.tileHome
        simp only [hm, he]
        rfl
      rw [heq]
      split
      · obtain ⟨x, y, hover, hother, -, hslots⟩ := (s.putCmd q.ctx m').tilesOver_spec q.ctx q.uid none
        have hfin := maps_finish ((s.putCmd q.ctx m').tilesOver q.ctx q.uid none) q.ctx q.uid
        refine ⟨(((s.putCmd q.ctx m').tilesOver q.ctx q.uid none).finish q.ctx q.uid).ctxs, y, ?_, fun c hc => ?_, hslots, fun _ _ _ _ _ => ?_, fun _ _ _ _ h => (by cases h)⟩
        · rw [State.finish_eq, hover]
          rfl
        · rw [hfin.kept.1 c hc, hother c hc, hput.kept.1 c hc]
        · refine hfin.finished fun _ => ?_
          rw [hover]
          rfl
      · rename_i hno
        refine ⟨_, _, rfl, hput.kept.1, fun _ => rfl, fun m₂ _ hm₂ hdone hun => absurd ?_ hno, fun _ _ _ _ h => (by cases h)⟩
        cases hm₂
        simp [m', hdone, hun]
    | some e =>
      let m' : Cmd := { m with steps := m.steps.homed e }
      have hput : Maps q.ctx m.uid (fun _ => m') s (s.putCmd q.ctx m') := maps_putCmd s q.ctx m'
      have heq : s.tileHome q = if (m.steps.homed e).tiles.any fun x => x.1 == e && x.2.2 == 0 then (s.putCmd q.ctx m').tilesOver q.ctx q.uid (some e)
          else s.putCmd q.ctx m' := by
        unfold State.tileHome
        simp only [hm, he]
        rfl
      have hall : ∀ m₂ e₂ un n, some e = some e₂ → some m = some m₂ → m₂.steps.tilesOf e₂ = some (un, n) →
          ∀ z ∈ ((s.putCmd q.ctx m').ctx q.ctx).cmds, z.uid = q.uid → z.steps.tilesOf e₂ = some (un, n - 1) := by
        rintro m₂ e₂ un n h1 h2 ht z hz hzu
        cases h1
        cases h2
        exact hput.all (P := fun z => z.steps.tilesOf e = some (un, n - 1)) (fun _ _ _ => StepProg.tilesOf_homed ht) z hz (hzu.trans hu.symm)
      rw [heq]
      split
      · obtain ⟨x, y, hover, hother, hcmds, hslots⟩ := (s.putCmd q.ctx m').tilesOver_spec q.ctx q.uid (some e)
        refine ⟨x, y, hover.trans rfl, fun c hc => ?_, hslots, fun _ h => (by cases h), ?_⟩
        · rw [hother c hc, hput.kept.1 c hc]
        · rw [hcmds]
          exact hall
      · exact ⟨_, _, rfl, hput.kept.1, fun _ => rfl, fun _ h => (by cases h), hall⟩

/-- The oldest write sent reaches its home. -/
theorem exec_memoryWriteHome {s : State} {q : Pending} {r : List Pending} (hr : s.writes = q :: r) (hup : s.up = true) (hs : s.Canonical) (hl : s.mem.latent = []) :
    ∃ m k e, exec .memoryWriteHome s = .next (
        let u := State.slotHome { s with writes := r, mem := m, counters := k, dbg := { s.dbg with eccArmed := e } } q
        if q.last then u.tileHome q else u) ∧
      m.read q.addr q.data.length = q.data ∧ SameOutside s.mem m [(q.addr, q.data.length)] := by
  obtain ⟨k, hk⟩ := State.carryTo_shape { s with writes := r } (q.core / 64) q.addr q.data.length
  obtain ⟨m, e, hw, hread, hout, -⟩ := State.devWrite_spec { s with writes := r, counters := k } q.addr q.data q.poison hl hs.1
  refine ⟨m, k, e, ?_, hread, hout⟩
  simp only [exec, execMemoryWriteHome, hr]
  rw [if_neg (by simp [hup]), hk, hw]

/-! ### Scrub reads and refreshes -/

theorem State.memError_die {s : State} {d : Nat} (hd : d < s.dies.length) (source addr stack ch core : Nat) (ctx : Option Nat) :
    ((s.memError d source addr stack ch core ctx).die d).uncorr = min ((s.die d).uncorr + 1) 0xFFFF ∧
    ((s.memError d source addr stack ch core ctx).die d).scrubPos = (s.die d).scrubPos ∧
    ((s.memError d source addr stack ch core ctx).die d).scrubBad = (s.die d).scrubBad ∧
    (s.memError d source addr stack ch core ctx).mem = s.mem ∧ (s.memError d source addr stack ch core ctx).ctxs = s.ctxs := by
  obtain ⟨lo, hi, t, g, k, p, h⟩ := s.memError_spec d source addr stack ch core ctx
  rw [h]
  simp only [State.die, list_getD_set_self hd]
  exact ⟨trivial, trivial, trivial, trivial, trivial⟩

theorem State.corrected_die {s : State} {d : Nat} (hd : d < s.dies.length) :
    (s.corrected d).die d = { s.die d with corr := min ((s.die d).corr + 1) 0xFFFF } := list_getD_set_self hd _ _

/-- The state in which a scrub read of die d has moved its position on. -/
def State.scrubbed (s : State) (d : Nat) : State :=
  let ch := scrubChannel d (s.die d).scrubPos
  (s.setDie d { s.die d with scrubPos := ((s.die d).scrubPos + 1) % (192 * 8388608) }).count (4720 + 6 * (ch.1 * 32 + ch.2) + 5) 1

section
variable {s : State} {d n : Nat} (hup : s.up = true) (hd : d < 4) (hlt : d < s.dies.length) (hcur : s.power.cur ≤ 2) (hs : s.cfg.scrub.getD d 0 ≠ 0)

include hlt in
theorem State.scrubbed_die : (s.scrubbed d).die d = { s.die d with scrubPos := ((s.die d).scrubPos + 1) % 1610612736 } :=
  list_getD_set_self hlt _ _

include hlt in
theorem State.scrubbed_length : d < (s.scrubbed d).dies.length := by
  simpa [State.scrubbed, State.count, State.setDie] using hlt

/-- An uncorrectable line of the reserved area is remembered, and so is what of the tables' images it holds. -/
def State.reservedBad (s : State) (d pos base : Nat) : State :=
  let k := Config.freeNat s.free % 7
  let s := { s with tables := { s.tables with bad := if k < 6 then NatSet.add k s.tables.bad else s.tables.bad }, free := s.free + 1 }
  (s.setDie d { s.die d with scrubBad := NatSet.add pos (s.die d).scrubBad }).count (base + 3) 1

/-- What a scrub read finds in the reserved area, at a line known to be bad or not. -/
def State.reservedRead (s : State) (d pos n stack ch : Nat) (known : Bool) : State :=
  let base := 4720 + 6 * (stack * 32 + ch)
  if known then s
  else match found true n s.free with
    | .good => s
    | .bad => (s.reservedBad d pos base).memError d 1 0 stack ch 0 none
    | _ => (State.count { s with free := s.free + 1 } (base + 2) 1).corrected d

theorem State.reservedRead_spec {s : State} {d : Nat} (hd : d < s.dies.length) (pos n stack ch : Nat) (known : Bool) :
    let t := s.reservedRead d pos n stack ch known
    (t.die d).scrubPos = (s.die d).scrubPos ∧ t.mem = s.mem ∧ t.ctxs = s.ctxs ∧
      (known = true → (t.die d).uncorr = (s.die d).uncorr) ∧
      (known = false → n = 3 ∨ n = 4 →
        (t.die d).uncorr = min ((s.die d).uncorr + 1) 0xFFFF ∧ NatSet.mem pos (t.die d).scrubBad = true) := by
  intro t
  by_cases hbad : known = true
  · have ht : t = s := if_pos hbad
    rw [ht]
    exact ⟨rfl, rfl, rfl, fun _ => rfl, fun h => by rw [hbad] at h; cases h⟩
  · cases hf : found true n s.free with
    | good =>
      have ht : t = s := (if_neg hbad).trans (by rw [hf])
      rw [ht]
      exact ⟨rfl, rfl, rfl, fun _ => rfl, fun _ h => by rcases h with rfl | rfl <;> cases hf⟩
    | bad =>
      let w := s.reservedBad d pos (4720 + 6 * (stack * 32 + ch))
      have ht : t = w.memError d 1 0 stack ch 0 none := (if_neg hbad).trans (by rw [hf])
      have hdie : w.die d = { s.die d with scrubBad := NatSet.add pos (s.die d).scrubBad } := list_getD_set_self hd _ _
      have hlen : d < w.dies.length := lt_of_lt_of_eq hd (List.length_set ..).symm
      obtain ⟨h1, h2, h3, h4, h5⟩ := State.memError_die hlen 1 0 stack ch 0 none
      rw [hdie] at h1 h2 h3
      rw [ht]
      refine ⟨h2, h4, h5, fun h => absurd h hbad, fun _ _ => ⟨h1, ?_⟩⟩
      rw [h3]
      simp
    | _ =>
      let w : State := State.count { s with free := s.free + 1 } (4720 + 6 * (stack * 32 + ch) + 2) 1
      have ht : t = w.corrected d := (if_neg hbad).trans (by rw [hf])
      rw [ht, State.corrected_die (s := w) hd]
      exact ⟨rfl, rfl, rfl, fun h => absurd h hbad,
        fun _ h => by rcases h with rfl | rfl <;> cases hf⟩

/-- What a scrub read finds in the line of an address. -/
def State.lineRead (s : State) (d a n stack ch : Nat) : State :=
  let base := 4720 + 6 * (stack * 32 + ch)
  let x := a / 64
  if NatSet.mem x s.mem.poison then s
  else
    let clean := { s.mem with latent := Cells.set 0 x 0 s.mem.latent }
    match found true (Cells.get 0 x s.mem.latent + n) s.free with
    | .good => s
    | .fixed => (State.count { s with mem := clean } (base + 2) 1).corrected d
    | .bad => (State.count { s with mem := { clean with poison := NatSet.add x clean.poison }, free := s.free + 1 } (base + 3) 1).memError d 1 a stack ch 0 none
    | .wrong _ => (State.count { s with mem := clean.havoc 64 (x * 64) 64 s.free, free := s.free + 1 } (base + 2) 1).corrected d

theorem State.lineRead_spec {s : State} {d a : Nat} (hd : d < s.dies.length) (n stack ch : Nat) (hp : NatSet.mem (a / 64) s.mem.poison = false)
    (h4 : Cells.get 0 (a / 64) s.mem.latent + n ≤ 4) :
    let t := s.lineRead d a n stack ch
    let bad := Cells.get 0 (a / 64) s.mem.latent + n
    (t.die d).scrubPos = (s.die d).scrubPos ∧ t.mem.cells = s.mem.cells ∧ t.ctxs = s.ctxs ∧
      (bad = 0 → (t.die d).corr = (s.die d).corr ∧ (t.die d).uncorr = (s.die d).uncorr ∧ t.mem = s.mem) ∧
      (bad = 1 ∨ bad = 2 → (t.die d).corr = min ((s.die d).corr + 1) 0xFFFF ∧ t.mem.poison = s.mem.poison) ∧
      (3 ≤ bad → (t.die d).uncorr = min ((s.die d).uncorr + 1) 0xFFFF ∧ NatSet.mem (a / 64) t.mem.poison = true) := by
  intro t bad
  have hno : ¬ NatSet.mem (a / 64) s.mem.poison = true := by simp [hp]
  let base := 4720 + 6 * (stack * 32 + ch)
  by_cases h0 : bad = 0
  · have ht : t = s := (if_neg hno).trans (by rw [show found true (Cells.get 0 (a / 64) s.mem.latent + n) s.free = .good from if_pos h0])
    rw [ht]
    exact ⟨rfl, rfl, rfl, fun _ => ⟨rfl, rfl, rfl⟩, fun h => by omega, fun h => by omega⟩
  · by_cases h2 : bad ≤ 2
    · let w : State := State.count { s with mem := { s.mem with latent := Cells.set 0 (a / 64) 0 s.mem.latent } } (base + 2) 1
      have ht : t = w.corrected d := (if_neg hno).trans (by
        rw [show found true (Cells.get 0 (a / 64) s.mem.latent + n) s.free = .fixed from (if_neg h0).trans (if_pos h2)])
      have hdie : (w.corrected d).die d = { s.die d with corr := min ((s.die d).corr + 1) 0xFFFF } := State.corrected_die (s := w) hd
      rw [ht, hdie]
      exact ⟨rfl, rfl, rfl, fun h => absurd h h0, fun _ => ⟨rfl, rfl⟩, fun h => by omega⟩
    · let w : State := State.count { s with
        mem := { s.mem with latent := Cells.set 0 (a / 64) 0 s.mem.latent, poison := NatSet.add (a / 64) s.mem.poison }, free := s.free + 1 } (base + 3) 1
      have ht : t = w.memError d 1 a stack ch 0 none := (if_neg hno).trans (by
        rw [show found true (Cells.get 0 (a / 64) s.mem.latent + n) s.free = .bad from
          (if_neg h0).trans ((if_neg h2).trans (if_pos (by simpa using h4)))])
      obtain ⟨h1, h3, -, hmem, hctxs⟩ := State.memError_die (s := w) hd 1 a stack ch 0 none
      rw [ht]
      refine ⟨h3, (congrArg Mem.cells hmem : _ = w.mem.cells), hctxs, fun h => absurd h h0, fun h => by omega, fun _ => ⟨h1, ?_⟩⟩
      rw [hmem]
      simp [w, State.count]

include hup hd hcur hs

theorem scrubRead_enabled : ¬ (!s.up || decide (4 ≤ d) || decide (2 < s.power.cur) || s.cfg.scrub.getD d 0 == 0) = true := by
  simp [hup]
  exact ⟨⟨hd, hcur⟩, hs⟩

theorem exec_scrubRead : exec (.scrubRead d n) s = .next (
    let ch := scrubChannel d (s.die d).scrubPos
    match scrubAddr (s.cfg.memMap.toNat % 4) d (s.die d).scrubPos with
    | none => (s.scrubbed d).reservedRead d (s.die d).scrubPos n ch.1 ch.2 (NatSet.mem (s.die d).scrubPos (s.die d).scrubBad)
    | some a => (s.scrubbed d).lineRead d a n ch.1 ch.2) := by
  simp only [exec, execScrubRead]
  rw [if_neg (scrubRead_enabled hup hd hcur hs)] <;> rfl

end

end Sys2Proof.Machine
end

open Sys2Proof Sys2Proof.Machine

/-- Settles O52: a write by `exec_memoryWriteHome`, a scrub read by what it finds. -/
theorem homeWriteScrubRefresh : Obligations.HomeWriteScrubRefresh := by
  unfold Obligations.HomeWriteScrubRefresh
  refine ⟨fun s => ⟨fun hr => ?_, fun q r hr hup hs hl => ?_⟩, fun s d n hup => ⟨fun hd hlt hcur hs => ?_, fun hs => ?_, fun stack ch h1 h2 hcur => ?_, fun stack ch hcur => ?_⟩⟩
  · simp only [exec, execMemoryWriteHome, hr]
  · obtain ⟨m, k, e, heq, hread, hout⟩ := exec_memoryWriteHome hr hup hs hl
    let v : State := { s with writes := r, mem := m, counters := k, dbg := { s.dbg with eccArmed := e } }
    obtain ⟨y, hslot⟩ := v.slotHome_shape q
    obtain ⟨x, z, htile, hother, hslots, hdone, htiles⟩ := (v.slotHome q).tileHome_spec q
    have hctx : ∀ c, (v.slotHome q).ctx c = s.ctx c := fun c => by rw [hslot]; rfl
    cases hlast : q.last with
    | false =>
      rw [hlast] at heq
      have heq : exec .memoryWriteHome s = .next (v.slotHome q) := heq
      refine ⟨_, heq, by rw [hslot], ?_, ?_, fun c _ => hctx c, fun _ => by rw [hslot], fun hq _ => ?_, fun off hq => State.slotHome_free hq,
        fun _ h => (by cases h), fun _ _ _ _ h => (by cases h)⟩
      · rw [hslot]
        exact hread
      · rw [hslot]
        exact hout
      · rw [State.slotHome, hq]
    | true =>
      rw [hlast] at heq
      have heq : exec .memoryWriteHome s = .next ((v.slotHome q).tileHome q) := heq
      refine ⟨_, heq, by rw [htile, hslot], ?_, ?_, fun c hc => (hother c hc).trans (hctx c), fun h => (by cases h), fun _ h => (by cases h), fun off hq => ?_,
        fun m _ he hm => ?_, fun m e un n _ he hm => ?_⟩
      · rw [htile, hslot]
        exact hread
      · rw [htile, hslot]
        exact hout
      · rw [hslots]
        exact State.slotHome_free hq
      · rw [← hctx] at hm
        have hnow : (v.slotHome q).now = s.now := by rw [hslot]
        rw [← hnow]
        exact hdone m he hm
      · rw [← hctx] at hm
        exact htiles m e un n he hm
  · intro pos
    have hdie := State.scrubbed_die hlt
    have hlen := State.scrubbed_length hlt
    have heq := exec_scrubRead (n := n) hup hd hcur hs
    refine ⟨fun ha => ?_, fun a ha hp => ?_⟩
    · rw [ha] at heq
      obtain ⟨h1, h2, h3, h4, h5⟩ := State.reservedRead_spec hlen (s.die d).scrubPos n (scrubChannel d (s.die d).scrubPos).1
        (scrubChannel d (s.die d).scrubPos).2 (NatSet.mem (s.die d).scrubPos (s.die d).scrubBad)
      rw [hdie] at h1 h4 h5
      exact ⟨_, heq, h1, h2, h3, h4, h5⟩
    · intro bad h4
      rw [ha] at heq
      have h := State.lineRead_spec hlen (a := a) n (scrubChannel d (s.die d).scrubPos).1 (scrubChannel d (s.die d).scrubPos).2 hp h4
      dsimp only at h
      rw [hdie] at h
      exact ⟨_, heq, h⟩
  · simp only [exec, execScrubRead]
    rw [if_pos (by rw [hs]; simp)]
  · refine ⟨Cells.set 0 (4720 + 6 * (stack * 32 + ch) + 4) ((Cells.get 0 (4720 + 6 * (stack * 32 + ch) + 4) s.counters +
      (if s.power.doubleRefresh.getD (stack / 6) false then 2 else 1)) % 2 ^ 64) s.counters, ?_, ?_⟩
    · simp only [exec, execRefresh]
      rw [if_neg (by simp [hup]; omega)]
      rfl
    · intro i hi hw
      have hi' : Cells.get 0 (4720 + 6 * (stack * 32 + ch) + 4) s.counters + 2 < 2 ^ 64 := hi
      rw [Cells.get_set_self 0 _ _ _ hw, Nat.mod_eq_of_lt]
      split <;> omega
  · simp only [exec, execRefresh]
    rw [if_pos (by simp [hcur])]

section
/-! PROOFS. What a unit leaves of device memory. -/

namespace Sys2Proof.Machine

/-! ### Memory in canonical form without bad symbols -/

/-- A memory in canonical form that holds no bad symbols. -/
structure Mem.Sound (m : Mem) : Prop where
  wf : Memory.wf m = true
  clean : m.latent = []

section
variable {m : Mem}

theorem Mem.Sound.write (h : m.Sound) (u a : Nat) (bs : List Byte) (pz : Bool) : (m.write u a bs pz).Sound := by
  refine ⟨Mem.write_wf _ _ _ _ _ h.wf, ?_⟩
  show ((unitsOf u a bs.length).foldl (Mem.markUnit u a bs.length pz) m).latent = []
  refine List.foldlRecOn (motive := fun y : Mem => y.latent = []) _ _ h.clean fun y hy x _ => ?_
  unfold Mem.markUnit
  dsimp only
  rw [hy]
  split
  · rfl
  · split <;> rfl

theorem Mem.Sound.havoc (h : m.Sound) (u a n d : Nat) : (m.havoc u a n d).Sound := h.write ..

theorem Mem.Sound.foldl {β : Type} {f : Mem → β → Mem} (hf : ∀ y x, y.Sound → (f y x).Sound) (l : List β) (h : m.Sound) : (l.foldl f m).Sound :=
  List.foldlRecOn l f h fun y hy x _ => hf y x hy

theorem Mem.Sound.putPicture (h : m.Sound) (base b : Nat) (ps : List Plane) (f : Nat → Nat → Nat → Nat) : (m.putPicture base b ps f).Sound :=
  Mem.Sound.foldl (fun _ _ h => Mem.Sound.foldl (fun _ _ h => h.write ..) _ h) _ h

theorem Mem.Sound.putStats (h : m.Sound) (a key w hh : Nat) (lost mustIntra : Nat → Bool) (vs : List (Int × Int)) (luma : Nat → Nat → Nat) :
    (m.putStats a key w hh lost mustIntra vs luma).Sound := Mem.Sound.foldl (fun _ _ h => h.write ..) _ h

theorem Mem.Sound.newState (h : m.Sound) (q : Session) (key : Nat) : (m.newState q key).Sound := by
  refine Mem.Sound.foldl (fun y j hy => ?_) _ (h.write ..)
  split
  · exact hy.write ..
  · exact hy

theorem Mem.Sound.ite {c : Prop} [Decidable c] {y : Mem} (h : m.Sound) (hy : y.Sound) : (if c then m else y).Sound := by
  split
  · exact h
  · exact hy

end

theorem UnitOut.sound_ite {c : Prop} [Decidable c] {o o' : UnitOut} (h : o.mem.Sound) (h' : o'.mem.Sound) : (if c then o else o').mem.Sound := by
  split
  · exact h
  · exact h'

/-! ### Units -/

section
variable {m : Mem} (h : m.Sound)
include h

theorem decodeUnit_sound (b : CodecBody) (q : Session) : (decodeUnit m b q).mem.Sound := by
  unfold decodeUnit
  dsimp only
  exact UnitOut.sound_ite h (UnitOut.sound_ite (h.newState ..) (Mem.Sound.ite ((h.newState ..).putPicture ..) (((h.newState ..).putPicture ..).putStats ..)))

theorem encodeUnit_sound (b : CodecBody) (q : Session) : (encodeUnit m b q).mem.Sound := by
  unfold encodeUnit
  dsimp only
  have hout := h.write 64 b.dst
  exact UnitOut.sound_ite (Mem.Sound.ite (hout ..) ((hout ..).putStats ..)) ((Mem.Sound.ite (hout ..) ((hout ..).putStats ..)).newState ..)

theorem jpegDecodeUnit_sound (b : CodecBody) : (jpegDecodeUnit m b).mem.Sound := by
  unfold jpegDecodeUnit
  dsimp only
  exact UnitOut.sound_ite h (Mem.Sound.ite ((h.putPicture ..).havoc ..) (h.putPicture ..))

theorem jpegEncodeUnit_sound (b : CodecBody) : (jpegEncodeUnit m b).mem.Sound := h.write ..

theorem scaleUnit_sound (q : ScaleBlock) : (scaleUnit m q).mem.Sound := h.putPicture ..

end

theorem State.runUnit_sound {s : State} (h : s.mem.Sound) (b : CodecBody) (sc : Option ScaleBlock) (ses : Option Session) : (s.runUnit b sc ses).mem.Sound := by
  unfold State.runUnit
  split
  · exact decodeUnit_sound h _ _
  · exact encodeUnit_sound h _ _
  · exact jpegDecodeUnit_sound h _
  · exact jpegEncodeUnit_sound h _
  · exact scaleUnit_sound h _
  · exact h

end Sys2Proof.Machine
end

section
/-! PROOFS. Sessions, and units on their engines. -/

namespace Sys2Proof.Machine

/-! ### Turns -/

section
variable {s : State} {c i op : Nat} {m : Cmd} {b : CodecBody}

/-- What a codec command in its turn is. -/
theorem State.codecTurn_spec (h : s.codecTurn c i op = some (m, b)) :
    (s.ctx c).cmd? i = some m ∧ m.codec? = some b ∧ m.phase = .checked ∧ s.ready c = true := by
  unfold State.codecTurn at h
  dsimp only at h
  split at h
  · cases h
  · rename_i m' hm
    split at h
    · cases h
    · rename_i b' hb
      split at h
      · rename_i hturn
        cases h
        simp only [Bool.and_eq_true, beq_iff_eq] at hturn
        obtain ⟨⟨⟨⟨⟨hphase, -⟩, -⟩, hready⟩, -⟩, -⟩ := hturn
        exact ⟨hm, hb, hphase, hready⟩
      · cases h

end

/-! ### Sessions -/

/-- What SESSION_OPEN finds wrong. -/
def State.openFails (s : State) (n : Nat) (q : SessionBlock) : List Failure :=
  flag (s.session? n).isSome (0x0292, 0, 0) ++ flag (s.blockBad q) (0x0293, 0, 0) ++ flag (decide (512 ≤ s.sessions.length)) (0x0294, 0, 0)

theorem State.lowest_openFails_taken {s : State} {n : Nat} (h : s.session? n ≠ none) (q : SessionBlock) : lowest (s.openFails n q) = some (0x0292, 0, 0) := by
  unfold State.openFails
  rw [Option.isSome_iff_ne_none.2 h]
  cases s.blockBad q <;> cases decide (512 ≤ s.sessions.length) <;> rfl

theorem State.openFails_free {s : State} {n : Nat} {q : SessionBlock} (h : s.session? n = none) (hq : s.blockBad q = false) (hn : s.sessions.length < 512) :
    s.openFails n q = [] := by
  simp [State.openFails, h, hq, flag, Nat.not_le.2 hn]

section
variable {s : State} {c i : Nat} {m : Cmd} {b : CodecBody}

theorem exec_sessionOpen {q : SessionBlock} {sc : Option ScaleBlock} (h : s.codecTurn c i 1 = some (m, b)) (hj : m.job = some (.work (.codec b sc (some q)))) :
    exec (.sessionOpen c i) s = .next (match lowest (s.openFails b.session q) with
      | some f => s.setPhase c m.uid (.rejected f.1 f.2.1 f.2.2)
      | none => { s.finish c m.uid with sessions := s.sessions ++ [{ num := b.session, ctx := c, ring := m.ring, blk := q }] }) := by
  simp only [exec, execSessionOpen, h, hj] <;> rfl

theorem exec_sessionClose (h : s.codecTurn c i 2 = some (m, b)) : exec (.sessionClose c i) s = .next (match s.ownSession c m.ring b.session with
    | none => s.setPhase c m.uid (.rejected 0x0292 0 0)
    | some q => (s.dropSessions fun y => y.num == q.num).finish c m.uid) := by
  simp only [exec, execSessionClose, h] <;> rfl

/-- Sessions that close leave their state memory undefined. -/
theorem State.dropSessions_spec (s : State) (f : Session → Bool) :
    ∃ m n, s.dropSessions f = { s with mem := m, free := n, sessions := s.sessions.filter fun q => !f q } ∧
      SameOutside s.mem m ((s.sessions.filter f).map fun y => (y.blk.state, y.blk.stateBytes)) := by
  obtain ⟨m, n, h, hout, -⟩ := State.havoc_shape ((s.sessions.filter f).map fun y => (y.blk.state, y.blk.stateBytes)) s
  exact ⟨m, n, by rw [State.dropSessions, h], hout⟩

/-! ### A unit's turn -/

theorem State.queueUnit_eq {op : Nat} (h : s.codecTurn c i op = some (m, b)) : s.queueUnit c i op = match lowest (s.unitFails c m b) with
    | some f => s.setPhase c m.uid (.rejected f.1 f.2.1 f.2.2)
    | none => s.putCmd c { m with unplaced := [0] } := by
  simp only [State.queueUnit, h] <;> rfl

theorem exec_unit {op : Nat} {cmd : Instr} (h : (op, cmd) ∈ [(3, Instr.decode c i), (4, .encode c i), (5, .jpegDec c i), (6, .jpegEnc c i), (7, .scale c i)]) :
    exec cmd s = .next (s.queueUnit c i op) := by
  simp only [List.mem_cons, List.not_mem_nil, or_false, Prod.mk.injEq] at h
  rcases h with ⟨rfl, rfl⟩ | ⟨rfl, rfl⟩ | ⟨rfl, rfl⟩ | ⟨rfl, rfl⟩ | ⟨rfl, rfl⟩ <;> rfl

end

/-! ### Engines -/

section
variable {s : State} {e c : Nat}

theorem exec_codecUnitStart_busy (h : s.engineFree e = false) : exec (.codecUnitStart e) s = .next s := by
  simp only [exec, execCodecUnitStart]
  rw [if_pos (by simp [h])]

theorem exec_codecUnitStart {m : Cmd} (h : s.engineFree e = true) (hm : s.nextUnit c (engineOp e) = some m)
    (hw : s.winner (kindRes (engineOp e - 3)) true ((List.range 64).filter fun d => (s.nextUnit d (engineOp e)).isSome) = some c) :
    exec (.codecUnitStart e) s = .next { (s.putCmd c { m with phase := .started, unplaced := [] }).granted (kindRes (engineOp e - 3)) c with
      engines := s.engines.set e { (s.engines.getD e {}) with unit := some (c, m.uid), started := s.now } } := by
  simp only [exec, execCodecUnitStart, hw, hm]
  rw [if_neg (by simp [h])]
  rfl

/-- The end of a unit is that of its command. -/
theorem exec_codecUnitDone {uid : Nat} {m : Cmd} {b : CodecBody} {sc : Option ScaleBlock} {q : Option SessionBlock} (hup : s.up = true)
    (hu : (s.engines.getD e {}).unit = some (c, uid)) (hm : (s.ctx c).byUid uid = some m) (hj : m.job = some (.work (.codec b sc q))) :
    exec (.codecUnitDone e) s = .next (s.endUnit e c m b sc) := by
  simp only [exec, execCodecUnitDone, hu, hm, hj]
  rw [if_neg (by simp [hup])]

/-- An engine that is idle again. -/
theorem State.releaseEngine_shape (s : State) (e px lost : Nat) : ∃ k, s.releaseEngine e px lost = { s with
    counters := k
    engines := s.engines.set e { (s.engines.getD e {}) with unit := none, idleFrom := s.now, lastRun := s.now.toNat - (s.engines.getD e {}).started.toNat } } :=
  ⟨_, rfl⟩

end

/-- What the end of a unit leaves. -/
theorem State.endUnit_spec {s : State} {e c : Nat} {m : Cmd} {b : CodecBody} {sc : Option ScaleBlock} (hs : s.mem.Sound)
    (hp : (s.unitReads b sc (if b.named then s.ownSession c m.ring b.session else none)).any (fun r => s.mem.poisoned 64 r.1 r.2) = false) :
    let ses := if b.named then s.ownSession c m.ring b.session else none
    let o := s.runUnit b sc ses
    ∃ y k f z r, s.endUnit e c m b sc = State.finish { s with
        mem := y, counters := k, free := f, sessions := z, dbg := { s.dbg with eccArmed := r }
        engines := s.engines.set e { (s.engines.getD e {}) with
          unit := none, idleFrom := s.now, lastRun := s.now.toNat - (s.engines.getD e {}).started.toNat } } c m.uid ∧
      y.read b.rec_ 64 = leBytes 64 (frameBits s.now m.seq b.session o) ∧ SameOutside o.mem y [(b.rec_, 64)] := by
  intro ses o
  obtain ⟨k, hfrom⟩ := s.carryFrom_shape (s.unitReads b sc ses) 4
  obtain ⟨k', hto⟩ := State.foldl_counters (fun s r => s.carryTo 4 r.1 r.2) (fun s r => s.carryTo_shape 4 r.1 r.2) (unitWrites b sc ses o) { s with counters := k }
  have hsound : o.mem.Sound := s.runUnit_sound hs b sc ses
  obtain ⟨y, e', hw, hread, hout, -⟩ := State.devWrite_spec { s with
    counters := k', mem := o.mem, free := s.free + 2
    sessions := match o.ses with
      | some q => s.sessions.map fun (y : Session) => if y.num = q.num then q else y
      | none => s.sessions } b.rec_ (leBytes 64 (frameBits s.now m.seq b.session o)) false hsound.clean hsound.wf
  rw [leBytes_length] at hread hout
  have hrun : ({ s with counters := k } : State).runUnit b sc ses = o := rfl
  clear_value o
  let v : State := { s with
    counters := k', mem := y, free := s.free + 2, dbg := { s.dbg with eccArmed := e' }
    sessions := match o.ses with
      | some q => s.sessions.map fun (y : Session) => if y.num = q.num then q else y
      | none => s.sessions }
  have hend : s.endUnit e c m b sc = (v.releaseEngine e (o.w * o.h) (if b.op = 3 ∨ b.op = 5 then o.concealed else 0)).finish c m.uid := by
    unfold State.endUnit
    dsimp only
    rw [State.settle_clean _ _ _ hs.clean, hfrom]
    refine (if_neg (ne_true_of_eq_false hp)).trans ?_
    rw [hrun, hto]
    exact congrArg (fun z : State => (z.releaseEngine e (o.w * o.h) (if b.op = 3 ∨ b.op = 5 then o.concealed else 0)).finish c m.uid) hw
  obtain ⟨k'', hrel⟩ := v.releaseEngine_shape e (o.w * o.h) (if b.op = 3 ∨ b.op = 5 then o.concealed else 0)
  exact ⟨y, k'', s.free + 2, v.sessions, e', hend.trans (congrArg (State.finish · c m.uid) hrel), hread, hout⟩

/-- Poisoned data tears the unit's context down. -/
theorem State.endUnit_poisoned {s : State} {e c : Nat} {m : Cmd} {b : CodecBody} {sc : Option ScaleBlock} (hs : s.mem.latent = [])
    (hp : (s.unitReads b sc (if b.named then s.ownSession c m.ring b.session else none)).any (fun r => s.mem.poisoned 64 r.1 r.2) = true) :
    ∃ k, s.endUnit e c m b sc = ({ s with counters := k } : State).faultCtx c 0x310 (some m.uid) := by
  obtain ⟨k, hfrom⟩ := s.carryFrom_shape (s.unitReads b sc (if b.named then s.ownSession c m.ring b.session else none)) 4
  refine ⟨k, ?_⟩
  unfold State.endUnit
  dsimp only
  rw [State.settle_clean _ _ _ hs, hfrom, if_pos hp]

/-- What poison leaves of a context. -/
theorem State.faultCtx_teardown {s : State} {c uid : Nat} (h : (s.ctx c).alive = true) :
    ((s.faultCtx c 0x310 (some uid)).ctx c).torn = true ∧ ((s.faultCtx c 0x310 (some uid)).ctx c).teardown = some (0x310, 4, some uid) := by
  rw [State.faultCtx_ctx _ _ h]
  exact ⟨rfl, rfl⟩

end Sys2Proof.Machine
end

open Sys2Proof Sys2Proof.Machine

/-- Settles O42: sessions open and close by their checks, a unit waits for an engine, and its end is that of its command. -/
theorem sessionsAndUnits : Obligations.SessionsAndUnits := by
  unfold Obligations.SessionsAndUnits
  refine ⟨fun s c i m b q sc => ⟨?_, ?_⟩, ?_, ?_, ?_⟩
  · intro h hj
    refine ⟨fun hfree hq hn => ?_, fun htaken => ?_⟩
    · refine ⟨{ s.finish c m.uid with sessions := s.sessions ++ [{ num := b.session, ctx := c, ring := m.ring, blk := q }] },
        (exec_sessionOpen h hj).trans ?_, rfl, (maps_finish s c m.uid).finished fun _ => rfl, (maps_finish s c m.uid).kept⟩
      rw [State.openFails_free hfree hq hn] <;> rfl
    · refine ⟨s.setPhase c m.uid (.rejected 0x0292 0 0), (exec_sessionOpen h hj).trans ?_, rfl, (maps_setPhase s c m.uid (.rejected 0x0292 0 0)).kept,
        (maps_setPhase s c m.uid (.rejected 0x0292 0 0)).all fun _ _ _ => rfl⟩
      rw [State.lowest_openFails_taken htaken]
  · intro h
    refine ⟨fun z hz _ => ?_, fun hz => ?_⟩
    · obtain ⟨y, n, hdrop, hout⟩ := s.dropSessions_spec fun y => y.num == z.num
      have hrun : exec (.sessionClose c i) s = .next ((s.dropSessions fun y => y.num == z.num).finish c m.uid) := by
        rw [exec_sessionClose h, hz]
      have hf : Maps c m.uid (fun m => { m with phase := .written s.now }) s ((s.dropSessions fun y => y.num == z.num).finish c m.uid) := by
        rw [hdrop]
        rfl
      exact ⟨_, hrun, by rw [hdrop]; rfl, hf.finished fun _ => rfl, hf.kept, by rw [hdrop]; exact hout, by rw [hdrop]; rfl⟩
    · refine ⟨s.setPhase c m.uid (.rejected 0x0292 0 0), (exec_sessionClose h).trans ?_, rfl, (maps_setPhase s c m.uid (.rejected 0x0292 0 0)).kept,
        (maps_setPhase s c m.uid (.rejected 0x0292 0 0)).all fun _ _ _ => rfl⟩
      rw [hz]
  · intro s c i m b op cmd hcmd h
    rw [exec_unit hcmd, State.queueUnit_eq h]
    obtain ⟨-, -, hphase, -⟩ := State.codecTurn_spec h
    cases hl : lowest (s.unitFails c m b) with
    | none =>
      exact ⟨s.putCmd c { m with unplaced := [0] }, rfl, rfl, (maps_putCmd s c { m with unplaced := [0] }).kept,
        fun _ => (maps_putCmd s c { m with unplaced := [0] }).all fun _ _ _ => ⟨hphase, rfl⟩, fun _ hf => (Option.some_ne_none _ hf.symm).elim⟩
    | some f =>
      refine ⟨s.setPhase c m.uid (.rejected f.1 f.2.1 f.2.2), rfl, rfl, (maps_setPhase s c m.uid (.rejected f.1 f.2.1 f.2.2)).kept,
        fun hn => (Option.some_ne_none _ hn).elim, fun f' hf => ?_⟩
      cases hf
      exact (maps_setPhase s c m.uid (.rejected f.1 f.2.1 f.2.2)).all fun _ _ _ => rfl
  · intro s e c m
    refine ⟨exec_codecUnitStart_busy, fun hfree hm he hw => ⟨_, exec_codecUnitStart hfree hm hw, rfl, rfl, rfl,
      (maps_putCmd s c { m with phase := .started, unplaced := [] }).kept,
      (maps_putCmd s c { m with phase := .started, unplaced := [] }).all fun _ _ _ => ⟨rfl, rfl⟩⟩⟩
  · intro s e c uid m b sc q hup hu hm hj hlat he hc ses o
    have huid : m.uid = uid := by simpa using List.find?_some hm
    subst huid
    refine ⟨fun hp => ?_, fun hp ha => ?_⟩
    · obtain ⟨y, k, f, z, r, hend, hread, hout⟩ := State.endUnit_spec ⟨hc.1, hlat⟩ hp
      refine ⟨_, exec_codecUnitDone hup hu hm hj, ?_⟩
      rw [hend]
      have hf := State.finish_spec (s := s) (c := c) (u := m.uid) (t := { s with
        mem := y, counters := k, free := f, sessions := z, dbg := { s.dbg with eccArmed := r }
        engines := s.engines.set e { (s.engines.getD e {}) with
          unit := none, idleFrom := s.now, lastRun := s.now.toNat - (s.engines.getD e {}).started.toNat } }) rfl
      refine ⟨hf.1, ?_, ?_, fun j hj => list_getD_set_ne hj _ _ _, hf.2, hread, hout, rfl⟩
      · exact congrArg Engine.unit (list_getD_set_self he _ _)
      · exact congrArg Engine.idleFrom (list_getD_set_self he _ _)
    · obtain ⟨k, hend⟩ := State.endUnit_poisoned (s := s) (e := e) (c := c) (m := m) hlat hp
      refine ⟨_, (exec_codecUnitDone hup hu hm hj).trans (congrArg _ hend), ?_⟩
      exact State.faultCtx_teardown ha

section
/-! PROOFS. One core cycle of a matrix unit (03 R65, R66, R78 to R81). -/

namespace Sys2Proof.Machine

/-! ### What the operations on a core keep -/

theorem Core.stepped_eq (y : Core) : ∃ d l, y.stepped = { y with dbgStop := d, stepLeft := l } := by
  unfold Core.stepped
  split
  · exact ⟨_, _, rfl⟩
  · split
    · exact ⟨_, _, rfl⟩
    · exact ⟨_, _, rfl⟩

/-- Tile commands that move on keep the core's accumulators, memory, banks and ramp, and the groups in flight. -/
def Core.Kept (y z : Core) : Prop := z.ramp = y.ramp ∧ z.acc = y.acc ∧ z.mem = y.mem ∧ z.banks = y.banks ∧ z.pipe.length = y.pipe.length

theorem Core.promote_kept (y : Core) : y.Kept y.promote := by
  unfold Core.promote
  split <;> exact ⟨rfl, rfl, rfl, rfl, rfl⟩

theorem Core.retire_kept (y : Core) : y.Kept y.retire := ⟨rfl, rfl, rfl, rfl, by simp [Core.retire]⟩

theorem Core.Kept.trans {x y z : Core} (h : x.Kept y) (h' : y.Kept z) : x.Kept z := by
  obtain ⟨hr, ha, hm, hb, hp⟩ := h
  obtain ⟨hr', ha', hm', hb', hp'⟩ := h'
  exact ⟨hr'.trans hr, ha'.trans ha, hm'.trans hm, hb'.trans hb, hp'.trans hp⟩

theorem Core.turnOver_kept (y : Core) (w : TileWork) : y.Kept (y.turnOver w) := by
  unfold Core.turnOver
  split
  · exact y.retire_kept.trans y.retire.promote_kept
  · exact ⟨rfl, rfl, rfl, rfl, rfl⟩

theorem Core.open_mem (y : Core) (t : TileCmd) (w : TileWork) (p : MatPart) (held : List (Nat × Nat)) : (y.open t w p held).mem = y.mem := by
  unfold Core.open
  split <;> rfl

theorem Core.skip_mem (w : TileWork) (p : MatPart) : ∀ (n : Nat) (y : Core), (Core.skip w p n y).mem = y.mem
  | 0, _ => rfl
  | n + 1, y => by
    unfold Core.skip
    split
    · rfl
    · dsimp only
      split
      · rfl
      · split
        · rfl
        · exact Core.skip_mem w p n _

theorem Core.prepared_mem (y : Core) (t : TileCmd) (w : TileWork) (held : List (Nat × Nat)) : (y.prepared t w held).mem = y.mem := by
  unfold Core.prepared
  split
  · split
    · rw [Core.skip_mem, Core.open_mem]
    · rfl
  · rfl

section
variable {s : State} {k who : Nat} {y : Core} {t : TileCmd} {w : TileWork}

/-- A tile command that may act is one of a context that runs. -/
theorem State.onCore_spec (h : s.onCore k who = some (y, t, w)) :
    y = s.core k ∧ s.workOf k who = some (t, w) ∧ s.awake = true ∧ (s.ctx t.ctx).alive = true := by
  unfold State.onCore State.tileOn at h
  cases hw : s.workOf k who with
  | none => rw [hw] at h; cases h
  | some x =>
    rw [hw] at h
    obtain ⟨t', w'⟩ := x
    dsimp only at h
    split at h
    · cases h
    · rename_i x hx
      split at hx
      · rename_i hr
        cases hx
        split at h
        · cases h
          simp only [Bool.and_eq_true] at hr
          obtain ⟨⟨hawake, hruns⟩, -⟩ := hr
          exact ⟨rfl, rfl, hawake, Ctx.alive_of_runs hruns⟩
        · cases h
      · cases hx

end

/-! ### A slot that is used -/

/-- A debug step that ends sends a message and stops a context: cores and memory stay. -/
theorem State.afterStep_kept (s : State) (k c : Nat) : (s.afterStep k c).cores = s.cores ∧ (s.afterStep k c).mem = s.mem := by
  unfold State.afterStep State.stepEnded State.debugMsg
  split
  · split
    · exact ⟨rfl, rfl⟩
    · obtain ⟨t, g, j, p, h⟩ := State.message_shape (s.setCtx c { (s.ctx c).pauseSlice s.now with dbgStopped := true }) 0x20 0 0 0 false 0 (c + 256 * b2n true)
      rw [h]
      exact ⟨rfl, rfl⟩
  · exact ⟨rfl, rfl⟩

/-- The core after a slot that carries work. -/
theorem State.slot_spec {s : State} {k : Nat} (hk : k < s.cores.length) (z : Core) (j c : Nat) :
    ∃ d l, (((s.setCore k z.stepped).coreCount k j 1).afterStep k c).core k = { z with dbgStop := d, stepLeft := l } ∧
      OtherCoresKept s (((s.setCore k z.stepped).coreCount k j 1).afterStep k c) k ∧
      (((s.setCore k z.stepped).coreCount k j 1).afterStep k c).mem = s.mem := by
  obtain ⟨d, l, hz⟩ := z.stepped_eq
  obtain ⟨hcores, hmem⟩ := State.afterStep_kept ((s.setCore k z.stepped).coreCount k j 1) k c
  refine ⟨d, l, ?_, fun i hi => ?_, hmem⟩
  · rw [State.core_of_cores hcores, ← hz]
    exact State.core_setCore_self hk _
  · rw [State.core_of_cores hcores]
    exact State.core_setCore_ne s hi _

/-! ### The next group of a pass -/

section
variable {s : State} {k a : Nat} {y : Core} {t : TileCmd} {w : TileWork} {par : Bool} {f : Word} {rest : List (Nat × Word)} {p : MatPart}

/-- A factor that waits goes into the pipe first. -/
theorem State.issue_scale (hk : k < s.cores.length) (h : y.scales = (a, f) :: rest) : ∃ i,
    ((s.issue k y t w par).core k).pipe = y.pipe ++ [i] ∧ i.row = a ∧ i.factor = some f ∧ i.age = 0 ∧
    ((s.issue k y t w par).core k).scales = rest ∧ ((s.issue k y t w par).core k).pos = y.pos ∧
    ((s.issue k y t w par).core k).acc = y.acc ∧ OtherCoresKept s (s.issue k y t w par) k ∧ (s.issue k y t w par).mem = s.mem := by
  let i : Issued := {
    who := 1, age := 0, row := a, bank := 0, entry := 0, chunk := [], scale := 127, kIndex := 0xFFFFFFFF, factor := some f, inject := none
    mode := .half, fa := bf16Fmt, fw := bf16Fmt, cols := ((w.mat y.pos.pass).map fun p => p.cols).getD 1024
    lane := ((w.mat y.pos.pass).map fun p => p.rows.getD (a - p.base) { base := [0, 0, 0, 0] }).getD { base := [0, 0, 0, 0] }
    first := false, final := none }
  have hissue : s.issue k y t w par = ((s.setCore k ({ y with pipe := y.pipe ++ [i], scales := rest } : Core).stepped).coreCount k 3 1).afterStep k t.ctx := by
    unfold State.issue
    rw [h] <;> rfl
  obtain ⟨d, l, hcore, hother, hmem⟩ := State.slot_spec hk { y with pipe := y.pipe ++ [i], scales := rest } 3 t.ctx
  rw [hissue, hcore]
  exact ⟨i, rfl, rfl, rfl, rfl, rfl, rfl, rfl, hother, hmem⟩

/-- Elements of the group at the issue position. -/
def Core.groupRefs (y : Core) (p : MatPart) : List Ref :=
  (List.range p.mode.g).map fun j => p.act y.pos.row (p.k0 + (32 * y.pos.seg + y.pos.entry) * p.mode.g + j)

theorem State.settleRefs_clean {s : State} {k who v : Nat} {w : TileWork} {rs : List Ref} (h : (s.core k).mem.latent = []) : s.settleRefs k w who rs v = s :=
  State.settleIn_clean s (.core k) _ (some v) h

/-- The core once its issue position has gone on. -/
def Core.movedOn (y : Core) (w : TileWork) (p : MatPart) : Core :=
  if (y.pos.advance p).2 then ({ y with pos := (y.pos.advance p).1 }.passOver w).turnOver w else { y with pos := (y.pos.advance p).1 }

/-- The slot of a group's activations is in use. -/
def Core.actUsed (y : Core) (p : MatPart) : Core := match p.actFill y.pos.seg with | some j => y.markFill 1 j .inUse | none => y

theorem Core.actUsed_eq (y : Core) (p : MatPart) : ∃ q, y.actUsed p = { y with slots := q } := by
  unfold Core.actUsed
  split <;> exact ⟨_, rfl⟩

theorem Core.movedOn_kept (y : Core) (w : TileWork) (p : MatPart) : y.Kept (y.movedOn w p) := by
  unfold Core.movedOn
  split
  · exact Core.Kept.trans ⟨rfl, rfl, rfl, rfl, rfl⟩ (Core.turnOver_kept _ w)
  · exact ⟨rfl, rfl, rfl, rfl, rfl⟩

theorem Core.movedOn_inside (y : Core) (w : TileWork) (p : MatPart) (h : (y.pos.advance p).2 = false) :
    y.movedOn w p = { y with pos := (y.pos.advance p).1 } := by
  rw [Core.movedOn, h]
  rfl

/-- A row past the pass's last is an empty slot. -/
theorem State.issue_empty (hs : y.scales = []) (hp : w.mat y.pos.pass = some p) (hr : p.rows.length ≤ y.pos.row) :
    s.issue k y t w par = (s.setCore k ((y.actUsed p).movedOn w p)).coreCount k 1 1 := by
  unfold State.issue
  rw [hs]
  dsimp only
  rw [hp]
  dsimp only
  rw [if_neg (by omega)]
  unfold Core.actUsed
  cases p.actFill y.pos.seg <;> rfl

section
variable (hs : y.scales = []) (hp : w.mat y.pos.pass = some p) (hr : y.pos.row < p.rows.length) (hl : (s.core k).mem.latent = [])
  (hm : y.mem = (s.core k).mem)
include hs hp hr hl hm

/-- A parity error tears the context down. -/
theorem State.issue_parity : s.issue k y t w true = s.drawn.parityFault k t.ctx t.uid 0x311 4 (64 * (Config.freeNat s.free % 1024)) := by
  unfold State.issue
  rw [hs]
  dsimp only
  rw [hp]
  dsimp only
  rw [if_pos hr, State.settleRefs_clean hl]
  rfl

theorem State.issue_poison (hb : y.badRefs w 1 (y.groupRefs p) = true) : s.issue k y t w false = s.faultCtx t.ctx 0x310 (some t.uid) := by
  unfold State.issue
  rw [hs]
  dsimp only
  rw [hp]
  dsimp only
  rw [if_pos hr, State.settleRefs_clean hl, ← hm]
  exact if_pos hb

/-- The group goes into the pipe. -/
theorem State.issue_group (hb : y.badRefs w 1 (y.groupRefs p) = false) : ∃ r : Bool, s.issue k y t w false =
    (((({ s with dbg := { s.dbg with nanArmed := r } } : State).setCore k (Core.movedOn { y.actUsed p with
      pipe := y.pipe ++ [y.groupAt w p y.pos.row (s.injects k p.mode) false] } w p).stepped).coreCount k 0 1).afterStep k t.ctx) := by
  unfold State.issue
  rw [hs]
  dsimp only
  rw [hp]
  dsimp only
  rw [if_pos hr, State.settleRefs_clean hl, ← hm]
  refine Exists.imp (fun r hr => (if_neg (ne_true_of_eq_false hb)).trans hr) ?_
  unfold Core.actUsed
  cases (s.injects k p.mode).isSome with
  | true =>
    refine ⟨false, ?_⟩
    cases p.actFill y.pos.seg <;> rfl
  | false =>
    refine ⟨s.dbg.nanArmed, ?_⟩
    cases p.actFill y.pos.seg <;> rfl

end

end

/-! ### A core cycle -/

/-- The counts of a core cycle (Table 18.1). -/
def State.cycleCounts (s : State) (k : Nat) (r : Ramp) (stall : Option Stall) : State :=
  let s := match r with | .up _ _ => s.coreCount k 2 1 | .down _ _ => s.coreCount k 2 1 | _ => s
  match stall with | some .late => s.coreCount k 6 1 | some .bank => s.coreCount k 6 1 | some .area => s.coreCount k 7 1 | _ => s

/-- A core cycle that is r and carries v. -/
def State.cycled (s : State) (k : Nat) (y : Core) (f : Option (TileCmd × TileWork)) (r : Ramp) (v : Cycle) (par : Bool) : State :=
  match v, f with
  | .work, some (t, w) => s.issue k { y.aged with ramp := r } t w par
  | .keeper, _ => (s.setCore k { y.aged with ramp := r }).coreCount k 1 1
  | _, _ => s.setCore k { y.aged with ramp := r }

theorem State.cycleCounts_shape (s : State) (k : Nat) (r : Ramp) (stall : Option Stall) : ∃ j, s.cycleCounts k r stall = { s with counters := j } := by
  have hramp : ∃ j, (match r with | .up _ _ => s.coreCount k 2 1 | .down _ _ => s.coreCount k 2 1 | _ => s) = { s with counters := j } := by
    cases r <;> exact ⟨_, rfl⟩
  obtain ⟨j, h⟩ := hramp
  unfold State.cycleCounts
  rw [h]
  dsimp only
  split <;> exact ⟨_, rfl⟩

section
variable {s : State} {k : Nat} {y : Core} {t : TileCmd} {w : TileWork} {par : Bool} {r : Ramp} {v : Cycle}

/-- A group that is due goes into its accumulator first. -/
theorem exec_matrixIssue_due {i : Issued} {rest : List Issued} (h : (s.core k).pipe = i :: rest) (hi : 8 ≤ i.age) : exec (.matrixIssue k par) s = .next s := by
  simp only [exec, execMatrixIssue]
  rw [if_pos (by simp [h, hi])]

/-- The ramp's cycle of die k / 64. -/
def State.cycleOf (s : State) (k : Nat) (r : Ramp) : Bool → Option (Ramp × Cycle) :=
  rampCycle r (s.rampLen (k / 64)) (s.holdLimit (k / 64)) (s.topPhase (k / 64))

section
variable (hup : s.up = true) (hk : k < 256) (hd : ¬ ∃ i rest, (s.core k).pipe = i :: rest ∧ 8 ≤ i.age)
include hup hk hd

theorem exec_matrixIssue_gate : (!s.up || decide (256 ≤ k) || ((s.core k).pipe.head?.elim false fun i => decide (8 ≤ i.age))) = false := by
  have hage : ((s.core k).pipe.head?.elim false fun i => decide (8 ≤ i.age)) = false := by
    cases hp : (s.core k).pipe with
    | nil => rfl
    | cons i rest => exact decide_eq_false fun hi => hd ⟨i, rest, hp, hi⟩
  rw [hup, hage, decide_eq_false (by omega)]
  rfl

theorem exec_matrixIssue_none (h : s.onCore k 1 = none) : exec (.matrixIssue k par) s = .next (match s.cycleOf k (s.core k).ramp false with
    | none => s
    | some (r, v) => (s.cycleCounts k r (some .idle)).cycled k (s.core k) none r v par) := by
  simp only [exec, execMatrixIssue, h]
  rw [exec_matrixIssue_gate hup hk hd, if_neg Bool.false_ne_true]
  unfold State.cycleOf
  dsimp only [Option.map, Option.isNone]
  cases rampCycle (s.core k).ramp (s.rampLen (k / 64)) (s.holdLimit (k / 64)) (s.topPhase (k / 64)) false with
  | none => rfl
  | some x =>
    obtain ⟨r, v⟩ := x
    cases v <;> rfl

theorem exec_matrixIssue_some (h : s.onCore k 1 = some (y, t, w)) : exec (.matrixIssue k par) s = .next (
    let z := y.prepared t w (s.heldBufs k 1)
    let stall := z.stall t w (s.heldBufs k 1)
    match s.cycleOf k z.ramp stall.isNone with
    | none => s
    | some (r, v) => (s.cycleCounts k r stall).cycled k z (some (t, w)) r v par) := by
  simp only [exec, execMatrixIssue, h]
  rw [exec_matrixIssue_gate hup hk hd, if_neg Bool.false_ne_true]
  unfold State.cycleOf
  dsimp only [Option.map]
  generalize y.prepared t w (s.heldBufs k 1) = z
  cases rampCycle z.ramp (s.rampLen (k / 64)) (s.holdLimit (k / 64)) (s.topPhase (k / 64)) (z.stall t w (s.heldBufs k 1)).isNone with
  | none => rfl
  | some x =>
    obtain ⟨r, v⟩ := x
    cases v <;> rfl

end

/-- A cycle that carries no group moves the ramp and the ages alone. -/
theorem State.cycled_idle {f : Option (TileCmd × TileWork)} (h : v ≠ .work ∨ f = none) :
    ∃ j, s.cycled k y f r v par = { s.setCore k { y.aged with ramp := r } with counters := j } := by
  unfold State.cycled
  split
  · rcases h with h | h
    · exact absurd rfl h
    · cases h
  · exact ⟨_, rfl⟩
  · exact ⟨_, rfl⟩

end

/-! ### What a cycle leaves -/

/-- What a cycle without a group leaves. -/
theorem State.cycled_idle_spec {s : State} {k : Nat} {y : Core} {f : Option (TileCmd × TileWork)} {r : Ramp} {v : Cycle} {par : Bool} {st : Option Stall}
    (hk : k < s.cores.length) (h : v ≠ .work ∨ f = none) :
    let u := (s.cycleCounts k r st).cycled k y f r v par
    u.core k = { y.aged with ramp := r } ∧ OtherCoresKept s u k ∧ u.mem = s.mem ∧ u.ctxs = s.ctxs := by
  intro u
  obtain ⟨j, hj⟩ := s.cycleCounts_shape k r st
  obtain ⟨j', hu⟩ := State.cycled_idle (s := s.cycleCounts k r st) (k := k) (y := y) (r := r) (par := par) h
  have : u = { (s.cycleCounts k r st).setCore k { y.aged with ramp := r } with counters := j' } := hu
  rw [this, hj]
  exact ⟨State.core_setCore_self hk _, fun i hi => State.core_setCore_ne s hi _, rfl, rfl⟩

/-- A cycle that carries a group is its issue. -/
theorem State.cycled_work (s : State) (k : Nat) (y : Core) (t : TileCmd) (w : TileWork) (r : Ramp) (par : Bool) (st : Option Stall) :
    ∃ j, (s.cycleCounts k r st).cycled k y (some (t, w)) r .work par =
      ({ s with counters := j } : State).issue k { y.aged with ramp := r } t w par := by
  obtain ⟨j, hj⟩ := s.cycleCounts_shape k r st
  exact ⟨j, by rw [hj]; rfl⟩

/-- What the issue of an empty slot leaves. -/
theorem State.issue_empty_spec {s : State} {k : Nat} {y : Core} {t : TileCmd} {w : TileWork} {par : Bool} {p : MatPart} (hk : k < s.cores.length)
    (hs : y.scales = []) (hp : w.mat y.pos.pass = some p) (hr : p.rows.length ≤ y.pos.row) :
    let u := s.issue k y t w par
    (u.core k).pipe.length = y.pipe.length ∧ (u.core k).ramp = y.ramp ∧ (u.core k).acc = y.acc ∧
      ((y.pos.advance p).2 = false → (u.core k).pos = (y.pos.advance p).1 ∧ (u.core k).pipe = y.pipe) ∧
      OtherCoresKept s u k ∧ u.mem = s.mem ∧ u.ctxs = s.ctxs := by
  intro u
  have hu : u = (s.setCore k ((y.actUsed p).movedOn w p)).coreCount k 1 1 := State.issue_empty hs hp hr
  have hcore : u.core k = (y.actUsed p).movedOn w p := by
    rw [hu]
    exact State.core_setCore_self hk _
  obtain ⟨q, hq⟩ := y.actUsed_eq p
  obtain ⟨hramp, hacc, -, -, hpipe⟩ := (y.actUsed p).movedOn_kept w p
  rw [hcore, hramp, hacc, hpipe, hq]
  refine ⟨rfl, rfl, rfl, fun h => ?_, fun i hi => ?_, by rw [hu]; rfl, by rw [hu]; rfl⟩
  · rw [Core.movedOn_inside _ w p (by exact h)]
    exact ⟨rfl, rfl⟩
  · rw [hu]
    exact State.core_setCore_ne s hi _

/-- What the issue of a group leaves. -/
theorem State.issue_group_spec {s : State} {k : Nat} {y : Core} {t : TileCmd} {w : TileWork} {p : MatPart} (hk : k < s.cores.length)
    (hs : y.scales = []) (hp : w.mat y.pos.pass = some p) (hr : y.pos.row < p.rows.length) (hl : (s.core k).mem.latent = [])
    (hm : y.mem = (s.core k).mem) (hb : y.badRefs w 1 (y.groupRefs p) = false) :
    let u := s.issue k y t w false
    (u.core k).ramp = y.ramp ∧ (u.core k).acc = y.acc ∧
      ((y.pos.advance p).2 = false → (u.core k).pos = (y.pos.advance p).1 ∧
        (u.core k).pipe = y.pipe ++ [y.groupAt w p y.pos.row (s.injects k p.mode) false]) ∧
      (u.core k).pipe.length = y.pipe.length + 1 ∧ OtherCoresKept s u k ∧ u.mem = s.mem := by
  intro u
  obtain ⟨r, hu⟩ := State.issue_group (t := t) hs hp hr hl hm hb
  obtain ⟨q, hq⟩ := y.actUsed_eq p
  let z : Core := { y.actUsed p with pipe := y.pipe ++ [y.groupAt w p y.pos.row (s.injects k p.mode) false] }
  have hz : z = { y with slots := q, pipe := y.pipe ++ [y.groupAt w p y.pos.row (s.injects k p.mode) false] } := by
    show ({ y.actUsed p with pipe := _ } : Core) = _
    rw [hq]
  obtain ⟨d, l, hcore, hother, hmem⟩ := State.slot_spec (s := { s with dbg := { s.dbg with nanArmed := r } }) hk (z.movedOn w p) 0 t.ctx
  have hu' : u = ((({ s with dbg := { s.dbg with nanArmed := r } } : State).setCore k (z.movedOn w p).stepped).coreCount k 0 1).afterStep k t.ctx := hu
  rw [← hu'] at hcore hother hmem
  obtain ⟨hramp, hacc, -, -, hpipe⟩ := z.movedOn_kept w p
  rw [hcore]
  refine ⟨hramp.trans (by rw [hz]), hacc.trans (by rw [hz]), fun h => ?_, hpipe.trans (by rw [hz]; simp), hother, hmem⟩
  have hin : (z.pos.advance p).2 = false := by rw [hz]; exact h
  rw [Core.movedOn_inside _ _ _ hin, hz]
  exact ⟨rfl, rfl⟩

end Sys2Proof.Machine
end

open Sys2Proof Sys2Proof.Machine

/-- Settles O44: a cycle that carries no group moves ramp and ages alone; one that does is the issue of the next group. -/
theorem matrixIssueRule : Obligations.MatrixIssueRule := by
  unfold Obligations.MatrixIssueRule
  intro s k par hk h256 hup cycle due
  refine ⟨fun ⟨i, rest, hp, hi⟩ => exec_matrixIssue_due hp hi, fun hd hon => ⟨fun hc => ?_, fun r v hc => ?_⟩, fun y t w hd hon => ?_⟩
  · have hc : s.cycleOf k (s.core k).ramp false = none := hc
    rw [exec_matrixIssue_none hup h256 hd hon, hc]
  · have hc : s.cycleOf k (s.core k).ramp false = some (r, v) := hc
    refine ⟨_, ?_, State.cycled_idle_spec (par := par) (st := some .idle) (f := none) (v := v) hk (.inr rfl)⟩
    rw [exec_matrixIssue_none hup h256 hd hon, hc]
  intro z stall
  have hrun : ∀ par, exec (.matrixIssue k par) s = .next (match s.cycleOf k z.ramp stall.isNone with
    | none => s
    | some (r, v) => (s.cycleCounts k r stall).cycled k z (some (t, w)) r v par) := fun par => exec_matrixIssue_some hup h256 hd hon
  obtain ⟨hy, -, -, halive⟩ := State.onCore_spec hon
  have hmem : z.mem = (s.core k).mem := by rw [← hy]; exact y.prepared_mem t w (s.heldBufs k 1)
  refine ⟨fun hc => ?_, fun r v hc hv => ?_, fun r a f rest hc hs => ?_, fun r p hc hs hp => ?_⟩
  · have hc : s.cycleOf k z.ramp stall.isNone = none := hc
    rw [hrun, hc]
  · have hc : s.cycleOf k z.ramp stall.isNone = some (r, v) := hc
    refine ⟨_, ?_, State.cycled_idle_spec (par := par) (st := stall) (f := some (t, w)) (v := v) hk (.inl hv)⟩
    rw [hrun, hc]
  · have hc : s.cycleOf k z.ramp stall.isNone = some (r, .work) := hc
    obtain ⟨j, hj⟩ := s.cycled_work k z t w r par stall
    obtain ⟨i, hi⟩ := State.issue_scale (s := { s with counters := j }) (y := { z.aged with ramp := r }) (t := t) (w := w) (par := par) hk hs
    refine ⟨_, i, (hrun par).trans ?_, hi⟩
    rw [hc, ← hj]
  · have hc : s.cycleOf k z.ramp stall.isNone = some (r, .work) := hc
    have hwork : ∀ par, ∃ j, exec (.matrixIssue k par) s = .next (({ s with counters := j } : State).issue k { z.aged with ramp := r } t w par) := by
      intro par
      obtain ⟨j, hj⟩ := s.cycled_work k z t w r par stall
      exact ⟨j, (hrun par).trans (by rw [hc, ← hj])⟩
    intro refs
    refine ⟨fun hr hl => ⟨fun hb => ?_, fun hb => ?_, ?_⟩, fun hr => ?_⟩
    · obtain ⟨j, hj⟩ := hwork false
      obtain ⟨hramp, hacc, hpos, hpipe, hother, hm⟩ := State.issue_group_spec (s := { s with counters := j })
        (y := { z.aged with ramp := r }) (t := t) hk hs hp hr hl hmem hb
      exact ⟨_, hj, hramp, hacc, hpos, hpipe.trans (by simp [Core.aged]), hother, hm⟩
    · obtain ⟨j, hj⟩ := hwork false
      refine ⟨_, hj, ?_⟩
      rw [State.issue_poison (s := { s with counters := j }) (y := { z.aged with ramp := r }) hs hp hr hl hmem hb]
      exact State.faultCtx_torn _ _ _ _ halive
    · obtain ⟨j, hj⟩ := hwork true
      refine ⟨_, hj, ?_⟩
      rw [State.issue_parity (s := { s with counters := j }) (y := { z.aged with ramp := r }) hs hp hr hl hmem]
      exact State.parityFault_torn _ _ _ _ _ _ _ halive
    · obtain ⟨j, hj⟩ := hwork par
      obtain ⟨hpipe, hramp, hacc, hpos, hother, hm, hctxs⟩ := State.issue_empty_spec (s := { s with counters := j })
        (y := { z.aged with ramp := r }) (t := t) (par := par) hk hs hp hr
      exact ⟨_, hj, hpipe.trans (by simp [Core.aged]), hramp, hacc, hpos, hother, hm, hctxs⟩

section
/-! PROOFS. Accumulator updates and the copies of final rows (03 R67 to R72, R43). -/

namespace Sys2Proof.Machine

/-! ### Lists of cells and of bytes -/

/-- A run of writes of cells at keys that rise with their place in a list. -/
theorem Cells.get_foldl_set {α β : Type} [DecidableEq α] (d : α) (key : Nat → Nat) (f : β → α) (hkey : ∀ i j, key i = key j → i = j) :
    ∀ (l : List β) (n : Nat) (c : List (Nat × α)), Cells.wf d c = true →
      (∀ i x, l[i]? = some x → Cells.get d (key (n + i)) ((l.zipIdx n).foldl (fun a x => Cells.set d (key x.2) (f x.1) a) c) = f x) ∧
      ∀ j, (∀ i, n ≤ i → j ≠ key i) → Cells.get d j ((l.zipIdx n).foldl (fun a x => Cells.set d (key x.2) (f x.1) a) c) = Cells.get d j c
  | [], n, c, _ => ⟨fun _ _ h => by simp at h, fun _ _ => rfl⟩
  | y :: r, n, c, h => by
    obtain ⟨hin, hout⟩ := Cells.get_foldl_set d key f hkey r (n + 1) _ (Cells.wf_set d (key n) (f y) c h)
    refine ⟨fun i x hx => ?_, fun j hj => ?_⟩
    · cases i with
      | zero =>
        cases hx
        rw [List.zipIdx_cons, List.foldl_cons, Nat.add_zero, hout _ fun i hi he => ?_]
        · exact Cells.get_set_self d _ _ c h
        · have := hkey _ _ he
          omega
      | succ i =>
        rw [List.zipIdx_cons, List.foldl_cons, show n + (i + 1) = n + 1 + i by omega]
        exact hin i x hx
    · rw [List.zipIdx_cons, List.foldl_cons, hout j fun i hi => hj i (by omega)]
      exact Cells.get_set_ne d _ (hj n (Nat.le_refl n)) c

theorem numbered_eq_zipIdx {α : Type} (l : List α) : numbered l = l.zipIdx.map fun x => (x.2, x.1) := by
  refine List.ext_getElem? fun i => ?_
  rw [numbered_getElem?, List.getElem?_map, List.getElem?_zipIdx]
  cases l[i]? <;> simp

/-- A part of what a longer read gives. -/
theorem Mem.read_part (m : Mem) (a o c n : Nat) (h : o + c ≤ n) : m.read (a + o) c = ((m.read a n).drop o).take c := by
  refine List.ext_getElem (by simp; omega) fun i _ _ => ?_
  simp [Mem.read, Nat.add_assoc]

/-- The i-th of some pieces of one length. -/
theorem take_drop_flatMap {α β : Type} (f : α → List β) {c : Nat} (hf : ∀ x, (f x).length = c) :
    ∀ (l : List α) (i : Nat) (x : α), l[i]? = some x → ((l.flatMap f).drop (c * i)).take c = f x
  | [], _, _, h => by simp at h
  | y :: r, 0, x, h => by
    cases h
    rw [List.flatMap_cons, Nat.mul_zero, List.drop_zero, List.take_left' (hf y)]
  | y :: r, i + 1, x, h => by
    rw [List.flatMap_cons, Nat.mul_succ, Nat.add_comm, ← List.drop_drop, List.drop_left' (hf y)]
    exact take_drop_flatMap f hf r i x h

theorem flatMap_length {α β : Type} (f : α → List β) {c : Nat} (hf : ∀ x, (f x).length = c) (l : List α) : (l.flatMap f).length = c * l.length := by
  rw [List.length_flatMap, List.map_congr_left fun x _ => hf x, List.map_const', List.sum_replicate, smul_eq_mul, Nat.mul_comm]

/-! ### Accumulators -/

theorem Core.lanesOf_getElem? (y : Core) (i : Issued) {l : Nat} (h : l < 1024) :
    (y.lanesOf i)[l]? = some (match i.factor with | some f => laneScale y i f l | none => laneUpdate y i l) := by
  rw [Core.lanesOf, List.getElem?_map, List.getElem?_range h]
  rfl

/-- A group updates its row in every lane, and no other row. -/
theorem Core.applied_acc {y : Core} {i : Issued} (hi : i.row < 64) (h : Cells.wf 0 y.acc = true) :
    (∀ l < 1024, Cells.get 0 (l * 64 + i.row) (y.applied i (y.lanesOf i)).acc =
      (match i.factor with | some f => laneScale y i f l | none => laneUpdate y i l).acc) ∧
    ∀ j, j % 64 ≠ i.row → Cells.get 0 j (y.applied i (y.lanesOf i)).acc = Cells.get 0 j y.acc := by
  obtain ⟨hin, hout⟩ := Cells.get_foldl_set (0 : Word) (fun n => n * 64 + i.row) AccOut.acc (fun a b hab => by omega) (y.lanesOf i) 0 y.acc h
  have hacc : (y.applied i (y.lanesOf i)).acc = ((y.lanesOf i).zipIdx 0).foldl (fun a x => Cells.set 0 (x.2 * 64 + i.row) x.1.acc a) y.acc := by
    rw [Core.applied, numbered_eq_zipIdx, List.foldl_map]
  rw [hacc]
  refine ⟨fun l hl => ?_, fun j hj => hout j fun n _ he => hj (by omega)⟩
  have := hin l _ (y.lanesOf_getElem? i hl)
  rwa [Nat.zero_add] at this

theorem Core.applied_kept (y : Core) (i : Issued) (os : List AccOut) : (y.applied i os).mem = y.mem ∧ (y.applied i os).pipe = y.pipe.drop 1 := ⟨rfl, rfl⟩

/-- A group of integers has no NaN. -/
theorem laneUpdate_int {y : Core} {i : Issued} (h : i.mode.isInt = true) (l : Nat) : (laneUpdate y i l).nan = none := by
  unfold laneUpdate groupInto
  dsimp only
  rw [h]
  split <;> rfl

/-- A group of floating-point numbers does not saturate. -/
theorem laneUpdate_float {y : Core} {i : Issued} (h : i.mode.isInt = false) (l : Nat) : (laneUpdate y i l).sat = false := by
  unfold laneUpdate groupInto
  dsimp only
  rw [h]
  split <;> rfl

/-- Where an accumulator saturates there is no NaN. -/
theorem Issued.nanOf_of_sat {y : Core} {i : Issued} (h : (y.lanesOf i).any (fun o => o.sat) = true) : i.nanOf (y.lanesOf i) = none := by
  obtain ⟨o, ho, hsat⟩ := List.any_eq_true.1 h
  obtain ⟨l, -, rfl⟩ := List.mem_map.1 ho
  have hnan : ∀ o ∈ y.lanesOf i, o.nan = none := by
    intro o ho
    obtain ⟨l', -, rfl⟩ := List.mem_map.1 ho
    cases hf : i.factor with
    | some f => rw [hf] at hsat; exact absurd hsat (by simp [laneScale])
    | none =>
      rw [hf] at hsat
      cases hm : i.mode.isInt with
      | true => exact laneUpdate_int hm l'
      | false => exact absurd hsat (by simp [laneUpdate_float hm])
  unfold Issued.nanOf
  rw [List.findSome?_eq_none_iff]
  intro x hx
  have hmem : x.2 ∈ (y.lanesOf i).take i.cols := by
    rw [numbered_eq_zipIdx] at hx
    obtain ⟨z, hz, rfl⟩ := List.mem_map.1 hx
    exact List.fst_mem_of_mem_zipIdx hz
  rw [hnan _ (List.mem_of_mem_take hmem)]
  rfl

section
variable {s : State} {t : TileCmd} {k : Nat}

theorem State.noteSat_kept : s.noteSat t false = s := by
  unfold State.noteSat
  split <;> rfl

theorem State.noteSat_shape (b : Bool) : s.noteSat t b = { s with ctxs := (s.noteSat t b).ctxs } := by
  unfold State.noteSat
  split
  · cases b <;> rfl
  · rfl

/-- The record of a command whose accumulator saturated carries it. -/
theorem State.noteSat_sat {m : Cmd} (h : (s.ctx t.ctx).byUid t.uid = some m) : ∀ z ∈ ((s.noteSat t true).ctx t.ctx).cmds, z.uid = t.uid → z.sat = true := by
  have hu : m.uid = t.uid := by simpa using List.find?_some h
  have hput : s.noteSat t true = s.putCmd t.ctx { m with sat := true } := by
    rw [State.noteSat, h]
    rfl
  rw [hput]
  exact hu ▸ (maps_putCmd s t.ctx { m with sat := true }).all fun _ _ _ => rfl

theorem State.nanOf_unarmed (h : s.trapArmed t.ctx = false) (n : Option NanSite) : s.nanOf t n = s := by
  unfold State.nanOf State.nanFor
  split
  · rw [h]
    rfl
  · rfl

end

/-- No trap for a group whose context's trap is not armed. -/
theorem State.noteSat_nanOf {s : State} {t : TileCmd} {y : Core} {i : Issued} {k : Nat} (h : s.trapArmed t.ctx = false) :
    (s.noteSat t ((y.lanesOf i).any fun o => o.sat)).nanOf t ((i.nanOf (y.lanesOf i)).map fun n => lateSite k (i, n.1, n.2)) =
      s.noteSat t ((y.lanesOf i).any fun o => o.sat) := by
  cases hsat : (y.lanesOf i).any fun o => o.sat with
  | true => rw [Issued.nanOf_of_sat hsat]; rfl
  | false => rw [State.noteSat_kept]; exact State.nanOf_unarmed h _

section
variable {s : State} {k : Nat} {i : Issued} {rest : List Issued} {t : TileCmd} {par : Bool}
variable (hp : (s.core k).pipe = i :: rest) (ht : (s.core k).tile i.who = some t)
include hp ht

/-- A group that is too young, or starts a row that is not copied, waits. -/
theorem exec_accumulatorUpdate_early (h : i.age < 8 ∨ (i.first = true ∧ ∃ f ∈ (s.core k).final, f.row = i.row)) :
    exec (.accumulatorUpdate k par) s = .next s := by
  simp only [exec, execAccumulatorUpdate, hp, ht]
  refine congrArg _ (if_pos ?_)
  rcases h with h | ⟨hf, f, hmem, hr⟩
  · simp [h]
  · simp only [Bool.or_eq_true, Bool.and_eq_true, List.any_eq_true, beq_iff_eq]
    exact .inr ⟨hf, f, hmem, hr⟩

section
variable (hup : s.up = true) (ha : (s.ctx t.ctx).alive = true) (h : ¬ (i.age < 8 ∨ (i.first = true ∧ ∃ f ∈ (s.core k).final, f.row = i.row)))
include hup ha h

theorem exec_accumulatorUpdate : exec (.accumulatorUpdate k par) s = .next (
    if par then s.drawn.parityFault k t.ctx t.uid 0x312 5 (64 * (Config.freeNat s.free % 1024))
    else ((s.setCore k ((s.core k).applied i ((s.core k).lanesOf i))).noteSat t (((s.core k).lanesOf i).any fun o => o.sat)).nanOf t
      ((i.nanOf ((s.core k).lanesOf i)).map fun n => lateSite k (i, n.1, n.2))) := by
  simp only [exec, execAccumulatorUpdate, hp, ht]
  refine congrArg _ (if_neg ?_)
  rw [not_or] at h
  obtain ⟨hage, hfirst⟩ := h
  rw [hup, ha]
  simp only [Bool.not_true, Bool.false_or, Bool.or_eq_true, decide_eq_true_eq, Bool.and_eq_true, List.any_eq_true, beq_iff_eq, not_or]
  exact ⟨hage, fun ⟨hf, f, hmem, hr⟩ => hfirst ⟨hf, f, hmem, hr⟩⟩

end

end

/-! ### Result rows -/

/-- A write of core memory without bad symbols. -/
theorem State.l1Write_spec {s : State} {k : Nat} (a : Nat) (bs : List Byte) (hl : (s.core k).mem.latent = [])
    (hw : Memory.wf (s.core k).mem = true) : ∃ m e, s.l1Write k a bs false = { s.setCore k { s.core k with mem := m } with dbg := { s.dbg with eccArmed := e } } ∧
      m.read a bs.length = bs ∧ SameOutside (s.core k).mem m [(a, bs.length)] ∧ Memory.wf m = true := by
  obtain ⟨m, e, h, hc, hf, -⟩ := s.memWrite_clean (.core k) 2 k a bs false hl
  exact ⟨m, e, h, Mem.write_spec (s.core k).mem m 32 a bs false hc hf hw⟩

theorem Core.restart_eq (y : Core) (p : Option MatPart) (row : Nat) (r : List Final) :
    ({ y with final := r } : Core).restart p row = { y with final := r, acc := (y.restart p row).acc } := by
  unfold Core.restart
  cases p with
  | none => rfl
  | some p =>
    dsimp only
    by_cases h : (p.starts && y.area.isSome && decide (p.base ≤ row) && decide (row < p.base + p.rows.length)) = true
    · rw [if_pos h, if_pos h]
    · rw [if_neg h, if_neg h]

/-- The bytes of an accumulator row. -/
def Core.rowBytes (y : Core) (row : Nat) : List Byte := (List.range 1024).flatMap fun l => leBytes 4 (Cells.get 0 (l * 64 + row) y.acc).toNat

theorem Core.rowBytes_length (y : Core) (row : Nat) : (y.rowBytes row).length = 4096 := by
  rw [Core.rowBytes, flatMap_length _ (fun _ => leBytes_length 4 _), List.length_range]

/-- The run that the last row of a pass queues. -/
def Core.rowDone (y : Core) (p : Option MatPart) (f : Final) : Core :=
  match p with
  | some p =>
    if f.line + 1 < p.rows.length then y
    else { y with veng := { y.veng with queue := y.veng.queue ++ [{ who := f.who, role := 2, pass := f.pass, area := f.area }] } }
  | none => y

section
variable {s : State} {k : Nat} {f : Final} {rest : List Final} {t : TileCmd} {w : TileWork}
variable (hf : (s.core k).final = f :: rest) (hw : s.workOf k f.who = some (t, w)) (hup : s.up = true) (ha : (s.ctx t.ctx).alive = true)
include hf hw hup ha

theorem exec_resultRowCopy_parity : exec (.resultRowCopy k true) s = .next (s.drawn.parityFault k t.ctx t.uid 0x312 5 (64 * (Config.freeNat s.free % 1024))) := by
  simp only [exec, execResultRowCopy, hf, hw]
  exact congrArg _ ((if_neg (by simp [hup, ha])).trans (if_pos (by simp)))

/-- The copy of a row writes core memory, and queues the run of the pass after its last row. -/
theorem exec_resultRowCopy (hk : k < s.cores.length) (hl : (s.core k).mem.latent = []) (hm : Memory.wf (s.core k).mem = true) : ∃ m e,
    exec (.resultRowCopy k false) s = .next { s.setCore k (Core.rowDone { s.core k with
      final := rest, mem := m
      acc := ((s.core k).restart ((s.workOf k 1).bind fun v => v.2.mat (s.core k).pos.pass) f.row).acc } (w.mat f.pass) f) with
      dbg := { s.dbg with eccArmed := e } } ∧
    m.read (w.areaOff + 262144 * f.area + 4096 * f.line) 4096 = (s.core k).rowBytes f.row ∧
    SameOutside (s.core k).mem m [(w.areaOff + 262144 * f.area + 4096 * f.line, 4096)] := by
  let now := (s.workOf k 1).bind fun v => v.2.mat (s.core k).pos.pass
  let z : Core := { s.core k with final := rest, acc := ((s.core k).restart now f.row).acc }
  have hz : (s.setCore k z).core k = z := State.core_setCore_self hk z
  obtain ⟨m, e, hrun, hread, hout, -⟩ := State.l1Write_spec (s := s.setCore k z) (k := k)
    (w.areaOff + 262144 * f.area + 4096 * f.line) ((s.core k).rowBytes f.row) (by rw [hz]; exact hl) (by rw [hz]; exact hm)
  rw [hz] at hrun hout
  rw [Core.rowBytes_length] at hread hout
  have hrun : (s.setCore k z).l1Write k (w.areaOff + 262144 * f.area + 4096 * f.line) ((s.core k).rowBytes f.row) false =
      { s.setCore k { z with mem := m } with dbg := { s.dbg with eccArmed := e } } := by
    rw [hrun]
    simp only [State.setCore, List.set_set]
  refine ⟨m, e, ?_, hread, hout⟩
  have hnow : (match s.workOf k 1 with | some (_, v) => v.mat (s.core k).pos.pass | none => none) = now := by
    show _ = (s.workOf k 1).bind _
    cases s.workOf k 1 <;> rfl
  have hcore : ({ s.setCore k { z with mem := m } with dbg := { s.dbg with eccArmed := e } } : State).core k = { z with mem := m } :=
    State.core_setCore_self hk _
  simp only [exec, execResultRowCopy, hf, hw]
  refine congrArg _ ((if_neg (by simp [hup, ha])).trans ((if_neg (by simp)).trans ?_))
  refine Eq.trans (congrArg (β := State) (fun v : State => match w.mat f.pass with
    | some p =>
      if f.line + 1 < p.rows.length then v
      else v.setCore k ({ v.core k with veng := ({ (v.core k).veng with
        queue := (v.core k).veng.queue ++ [{ who := f.who, role := 2, pass := f.pass, area := f.area }] } : VEng) } : Core)
    | none => v) (a₂ := ({ s.setCore k { z with mem := m } with dbg := { s.dbg with eccArmed := e } } : State)) ?_) ?_
  · refine Eq.trans ?_ hrun
    exact congrArg (fun y => (s.setCore k y).l1Write k (w.areaOff + 262144 * f.area + 4096 * f.line) ((s.core k).rowBytes f.row) false)
      ((congrArg (fun p => ({ s.core k with final := rest } : Core).restart p f.row) hnow).trans (Core.restart_eq _ _ _ _))
  · dsimp only
    rw [hcore]
    unfold Core.rowDone
    cases w.mat f.pass with
    | none => rfl
    | some p =>
      dsimp only
      split
      · rfl
      · simp only [State.setCore, List.set_set] <;> rfl

end

theorem Core.rowDone_eq (y : Core) (p : Option MatPart) (f : Final) : ∃ v, y.rowDone p f = { y with veng := v } ∧
    ∀ q, p = some q → v.queue = y.veng.queue ++ (if f.line + 1 < q.rows.length then [] else [{ who := f.who, role := 2, pass := f.pass, area := f.area }]) := by
  unfold Core.rowDone
  cases p with
  | none => exact ⟨y.veng, rfl, fun _ h => nomatch h⟩
  | some p =>
    dsimp only
    split
    · rename_i h
      refine ⟨y.veng, rfl, fun q hq => ?_⟩
      cases hq
      rw [if_pos h, List.append_nil]
    · rename_i h
      refine ⟨_, rfl, fun q hq => ?_⟩
      cases hq
      rw [if_neg h]

end Sys2Proof.Machine
end

open Sys2Proof Sys2Proof.Machine

/-- Settles O45: a group updates its row in every lane, and a final row goes into its place of core memory. -/
theorem accumulatorsAndRows : Obligations.AccumulatorsAndRows := by
  unfold Obligations.AccumulatorsAndRows
  intro s k hk hup y
  refine ⟨fun i rest t hp ht ha => ?_, fun f rest t w hf hw ha => ?_⟩
  · intro early
    refine ⟨fun h par => exec_accumulatorUpdate_early hp ht h, fun h => ⟨fun hrow hwf htrap => ?_, ?_⟩⟩
    · obtain ⟨hin, hout⟩ := Core.applied_acc (y := y) hrow hwf
      have hrun := exec_accumulatorUpdate (par := false) hp ht hup ha h
      rw [if_neg Bool.false_ne_true, State.noteSat_nanOf (s := s.setCore k (y.applied i (y.lanesOf i))) htrap] at hrun
      refine ⟨_, hrun, ?_⟩
      rw [State.noteSat_shape]
      have hcore : ({ s.setCore k (y.applied i (y.lanesOf i)) with
          ctxs := ((s.setCore k (y.applied i (y.lanesOf i))).noteSat t ((y.lanesOf i).any fun o => o.sat)).ctxs } : State).core k =
          y.applied i (y.lanesOf i) := State.core_setCore_self hk _
      rw [hcore]
      obtain ⟨hmem, hpipe⟩ := y.applied_kept i (y.lanesOf i)
      refine ⟨hin, hout, ?_, hmem, fun m hm hsat => ?_, fun j hj => State.core_setCore_ne s hj _, rfl⟩
      · rw [hpipe, show y.pipe = i :: rest from hp]
        rfl
      · have := State.noteSat_sat (s := s.setCore k (y.applied i (y.lanesOf i))) (t := t) hm
        rwa [hsat]
    · exact ⟨_, exec_accumulatorUpdate (par := true) hp ht hup ha h, State.parityFault_torn _ _ _ _ _ _ _ ha⟩
  · intro a
    refine ⟨fun hm hl => ?_, _, exec_resultRowCopy_parity hf hw hup ha, State.parityFault_torn _ _ _ _ _ _ _ ha⟩
    obtain ⟨m, e, hrun, hread, hout⟩ := exec_resultRowCopy hf hw hup ha hk hl hm
    refine ⟨_, hrun, ?_⟩
    obtain ⟨v, hv, hqueue⟩ := Core.rowDone_eq { s.core k with
      final := rest, mem := m
      acc := ((s.core k).restart ((s.workOf k 1).bind fun v => v.2.mat (s.core k).pos.pass) f.row).acc } (w.mat f.pass) f
    rw [hv]
    have hcore : ∀ z : Core, ({ s.setCore k z with dbg := { s.dbg with eccArmed := e } } : State).core k = z := fun z => State.core_setCore_self hk z
    rw [hcore]
    refine ⟨fun l hl => ?_, hout, rfl, rfl, fun p hp => hqueue p hp, fun j hj => State.core_setCore_ne s hj _, rfl, rfl⟩
    show m.read (a + 4 * l) 4 = _
    rw [Mem.read_part m a (4 * l) 4 4096 (by omega), hread]
    exact take_drop_flatMap _ (fun _ => leBytes_length 4 _) _ l l (List.getElem?_range hl)

section
/-! PROOFS. Fills of slots and loads of weight banks (04 R103 to R119, 03 R61 to R64). -/

namespace Sys2Proof.Machine

/-! ### Changes within one memory -/

/-- Of the contexts, device memory and the cores a change is within memory m. -/
def Within (m : MemTarget) (s t : State) : Prop :=
  t.ctxs = s.ctxs ∧ ∃ y, t.mem = (s.setMem m y).mem ∧ t.cores = (s.setMem m y).cores

section
variable {m : MemTarget} {s t u : State}

theorem within_setMem (m : MemTarget) (s : State) (y : Mem) : Within m s (s.setMem m y) := by
  refine ⟨?_, y, rfl, rfl⟩
  cases m <;> rfl

theorem Within.next (h : Within m s t) (hc : u.ctxs = t.ctxs) (hm : u.mem = t.mem) (hk : u.cores = t.cores) : Within m s u := by
  obtain ⟨h1, y, h2, h3⟩ := h
  exact ⟨hc.trans h1, y, hm.trans h2, hk.trans h3⟩

theorem Within.refl (m : MemTarget) (s : State) : Within m s s := by
  refine ⟨rfl, s.memOf m, ?_, ?_⟩
  · cases m <;> rfl
  · cases m with
    | core k => exact (list_set_getD_self ..).symm
    | dram => rfl
    | dieBuf d => rfl
    | hub => rfl

theorem Within.trans (h : Within m s t) (h' : Within m t u) : Within m s u := by
  obtain ⟨h1, y, h2, h3⟩ := h
  obtain ⟨h1', z, h2', h3'⟩ := h'
  refine ⟨h1'.trans h1, z, ?_, ?_⟩
  · cases m with
    | dram => exact h2'
    | dieBuf d => exact h2'.trans h2
    | core k => exact h2'.trans h2
    | hub => exact h2'.trans h2
  · cases m with
    | dram => exact h3'.trans h3
    | dieBuf d => exact h3'.trans h3
    | hub => exact h3'.trans h3
    | core k =>
      have h3 : t.cores = s.cores.set k { s.core k with mem := y } := h3
      have h3' : u.cores = t.cores.set k { t.core k with mem := z } := h3'
      show u.cores = s.cores.set k { s.core k with mem := z }
      rw [h3', h3, List.set_set]
      by_cases hk : k < s.cores.length
      · have hcore : t.core k = { s.core k with mem := y } := by
          rw [State.core, h3]
          exact list_getD_set_self hk _ _
        rw [hcore]
      · rw [List.set_eq_of_length_le (by omega), List.set_eq_of_length_le (by omega)]

theorem Within.foldl {α : Type} {f : State → α → State} (h : ∀ s x, Within m s (f s x)) : ∀ (l : List α) (s : State), Within m s (l.foldl f s)
  | [], s => Within.refl m s
  | x :: r, s => (h s x).trans (Within.foldl h r _)

theorem within_badEvent (m : MemTarget) (s : State) (y : Mem) (n a : Nat) (v : Option Nat) : Within m s (State.badEvent { s.setMem m y with free := n } m a v) := by
  obtain ⟨lo, hi, t, g, k, p, h⟩ := State.badEvent_spec { s.setMem m y with free := n } m a v
  rw [h]
  exact (within_setMem m s y).next rfl rfl rfl

theorem within_corrected (m : MemTarget) (s : State) (y : Mem) (n a : Nat) : Within m s
    (((({ s.setMem m y with free := n } : State).errCounter m a 2).corrected (s.countDie m a))) := by
  obtain ⟨k, h⟩ := State.errCounter_shape { s.setMem m y with free := n } m a 2
  rw [h]
  exact (within_setMem m s y).next rfl rfl rfl

/-- A read of a unit changes its memory alone. -/
theorem within_unitRead (m : MemTarget) (s : State) (x n : Nat) (v : Option Nat) : Within m s (s.unitRead m x n v) := by
  unfold State.unitRead
  dsimp only
  split
  · split
    · exact Within.refl m s
    · exact within_badEvent m s _ (s.setMem m _).free _ _
  · split
    · exact Within.refl m s
    · exact within_corrected m s _ (s.setMem m _).free _
    · exact within_badEvent m s _ (s.free + 1) _ _
    · split
      · exact within_corrected m s _ (s.free + 1) _
      · exact (within_setMem m s _).next rfl rfl rfl

theorem within_settleIn (m : MemTarget) (s : State) (rs : List (Nat × Nat)) (v : Option Nat) : Within m s (s.settleIn m rs v) :=
  Within.foldl (f := fun s (x : Nat × Nat) => s.unitRead m x.1 0 v) (fun s x => within_unitRead m s x.1 0 v) _ s

theorem within_memWrite (m : MemTarget) (s : State) (target who a : Nat) (bs : List Byte) (pz : Bool) : Within m s (s.memWrite m target who a bs pz) := by
  have hread : Within m s (if (s.memOf m).latent.isEmpty then s else s.settleIn m ((partUnits (memUnit m) a bs.length).map fun x => (x * memUnit m, memUnit m)) none) := by
    split
    · exact Within.refl m s
    · exact within_settleIn m s _ _
  unfold State.memWrite
  dsimp only
  generalize (if (s.memOf m).latent.isEmpty then s else s.settleIn m _ none) = s' at hread ⊢
  refine hread.trans ?_
  split
  · exact within_setMem m _ _
  · exact (within_setMem m _ _).next rfl rfl rfl

end

/-! ### Fills -/

/-- The memory that a ferry fills. -/
def Target.mem : Target → MemTarget
  | .die d => .dieBuf d
  | .core k => .core k

theorem within_putTarget (g : Target) (s : State) (a : Nat) (bs : List Byte) : Within g.mem s (s.putTarget g a bs) := by
  cases g <;> exact within_memWrite _ _ _ _ _ _ _

theorem within_markTarget (g : Target) (s : State) (a n : Nat) (bad : Nat → Nat → Bool) : Within g.mem s (s.markTarget g a n bad) := by
  cases g with
  | die d => exact within_setMem (.dieBuf d) s _
  | core k => exact within_setMem (.core k) s _

theorem within_fillPart (g : Target) (s : State) (view : Mem) (r : Region) (off i j : Nat) (p : Part) : Within g.mem s (s.fillPart g view r off i j p) := by
  unfold State.fillPart
  dsimp only
  split
  · exact (within_putTarget g s _ _).trans (within_markTarget g _ _ _ _)
  · exact ((within_putTarget g s _ _).trans (within_markTarget g _ _ _ _)).trans
      (Within.foldl (fun s x => (within_putTarget g s _ _).trans (within_markTarget g _ _ _ _)) _ _)

/-- Row i of a fill. -/
def State.fillRow (g : Target) (view : Mem) (r : Region) (off i : Nat) (x : State × Nat) (p : Part) : State × Nat :=
  (if p.t.inside 0 p.i1 p.i2 p.i3 then x.1.fillPart g view r off i x.2 p else x.1, x.2 + p.w)

theorem within_fillRow (g : Target) (view : Mem) (r : Region) (off i : Nat) : ∀ (ps : List Part) (x : State × Nat),
    Within g.mem x.1 (ps.foldl (State.fillRow g view r off i) x).1
  | [], x => Within.refl _ _
  | p :: ps, x => by
    refine Within.trans ?_ (within_fillRow g view r off i ps _)
    unfold State.fillRow
    dsimp only
    split
    · exact within_fillPart g _ _ _ _ _ _ _
    · exact Within.refl _ _

theorem State.fillRegion_eq (g : Target) (s : State) (view : Mem) (r : Region) (off : Nat) :
    s.fillRegion g view r off = (numbered r.rows).foldl (fun s x => (x.2.foldl (State.fillRow g view r off x.1) (s, 0)).1) s := rfl

/-- A fill changes the memory that it fills alone. -/
theorem within_fillRegion (g : Target) (s : State) (view : Mem) (r : Region) (off : Nat) : Within g.mem s (s.fillRegion g view r off) := by
  rw [State.fillRegion_eq]
  exact Within.foldl (m := g.mem) (f := fun s (x : Nat × List Part) => (x.2.foldl (State.fillRow g view r off x.1) (s, 0)).1)
    (fun s x => within_fillRow g view r off x.1 x.2 (s, 0)) _ s

section
variable {s t u : State} {k d : Nat}

theorem Within.of_die (h : Within (.dieBuf d) s t) : t.ctxs = s.ctxs ∧ t.mem = s.mem ∧ t.cores = s.cores := by
  obtain ⟨hc, y, hm, hk⟩ := h
  exact ⟨hc, hm, hk⟩

theorem Within.of_core (h : Within (.core k) s t) (hk : k < s.cores.length) :
    t.ctxs = s.ctxs ∧ t.mem = s.mem ∧ (∃ y, t.core k = { s.core k with mem := y }) ∧ OtherCoresKept s t k ∧ k < t.cores.length := by
  obtain ⟨hc, y, hm, hcores⟩ := h
  have hcores : t.cores = s.cores.set k { s.core k with mem := y } := hcores
  refine ⟨hc, hm, ⟨y, ?_⟩, fun j hj => ?_, by rw [hcores, List.length_set]; exact hk⟩
  · rw [State.core, hcores]
    exact list_getD_set_self hk _ _
  · rw [State.core, hcores]
    exact list_getD_set_ne hj _ _ _

/-- A read for a job settles the pins of its die. -/
theorem State.settleFor_kept (hl : s.mem.latent = []) (j : TileJob) (die : Nat) (rs : List (Nat × Nat)) :
    (s.settleFor j die rs).ctxs = s.ctxs ∧ (s.settleFor j die rs).mem = s.mem ∧ (s.settleFor j die rs).cores = s.cores := by
  unfold State.settleFor
  rw [State.settle_clean _ _ _ hl]
  dsimp only
  split
  · split
    · exact (within_settleIn (.dieBuf die) s _ none).of_die
    · exact ⟨rfl, rfl, rfl⟩
  · exact ⟨rfl, rfl, rfl⟩

/-- A T3 slot is one of a die. -/
theorem State.t3Fill_kept {c : TileCmd} {j : TileJob} {f : FillSpec} (hl : s.mem.latent = []) (h : s.t3Fill c j f = some t) : t.mem = s.mem ∧ t.cores = s.cores := by
  unfold State.t3Fill at h
  split at h
  · cases h
    exact ⟨rfl, rfl⟩
  · rename_i n region off size depth hb
    dsimp only at h
    split at h
    · cases h
      exact ⟨rfl, rfl⟩
    · split at h
      · cases h
      · cases h
        obtain ⟨-, hm, hk⟩ := State.settleFor_kept hl j c.home region.bytes
        obtain ⟨k, hfrom⟩ := (s.settleFor j c.home region.bytes).carryFrom_shape region.bytes c.home
        rw [hfrom]
        obtain ⟨k', hferry⟩ := State.dieFerry_shape { s.settleFor j c.home region.bytes with counters := k } c.home (region.bytes.foldl (fun n r => n + r.2) 0)
        rw [hferry]
        generalize hv : State.fillRegion _ _ _ _ _ = v
        obtain ⟨-, hm', hk'⟩ := (hv ▸ within_fillRegion (.die c.home) _ _ _ _ : Within (.dieBuf c.home) _ v).of_die
        exact ⟨hm'.trans hm, hk'.trans hk⟩

theorem Within.fill (h : Within (.core k) s t) (view : Mem) (r : Region) (off : Nat) : Within (.core k) s (t.fillRegion (.core k) view r off) :=
  h.trans (within_fillRegion (.core k) t view r off)

theorem Within.count (h : Within (.core k) s t) (i n : Nat) : Within (.core k) s (t.count i n) := h.next rfl rfl rfl

/-- A fill of a core's slot changes its memory alone. -/
theorem within_fillSlot {c : TileCmd} {w : TileWork} {f : FillSpec} {off : Nat} (hl : s.mem.latent = []) : Within (.core k) s (s.fillSlot k c w f off) := by
  unfold State.fillSlot
  dsimp only
  split
  · refine Within.fill (Within.count (Within.count (Within.count ?_ _ _) _ _) _ _) _ _ _
    generalize Region.bytes _ = rs
    obtain ⟨hc, hm, hk⟩ := (within_settleIn (.dieBuf c.home) s rs none).of_die
    obtain ⟨j, hcarry⟩ := State.carry_shape (s.settleIn (.dieBuf c.home) rs none) c.home (k / 64) (f.region.bytes.foldl (fun n r => n + r.2) 0)
    rw [hcarry]
    exact (Within.refl (.core k) s).next hc hm hk
  · refine Within.fill ?_ _ _ _
    obtain ⟨hc, hm, hk⟩ := State.settleFor_kept hl w.job (k / 64) f.region.bytes
    obtain ⟨j, hfrom⟩ := (s.settleFor w.job (k / 64) f.region.bytes).carryFrom_shape f.region.bytes (k / 64)
    rw [hfrom]
    obtain ⟨j', hferry⟩ := State.dieFerry_shape { s.settleFor w.job (k / 64) f.region.bytes with counters := j } (k / 64) (f.region.bytes.foldl (fun n r => n + r.2) 0)
    rw [hferry]
    exact (Within.refl (.core k) s).next hc hm hk

end

/-- The core once fill n of tile command who has a slot. -/
def Core.filled (y : Core) (who n : Nat) (t : TileCmd) (f : FillSpec) (off size : Nat) : Core :=
  let y := y.ringOn t f.operand
  let q : Slot := { who := who, operand := f.operand, fill := n, off := off, size := size, st := if f.pro.isSome then .filling else .full }
  let y := { y with slots := y.slots ++ [q], nextFill := if who = 1 then n + 1 else y.nextFill, aheadFill := if who = 1 then y.aheadFill else n + 1 }
  let run : Run := { who := who, role := 1, pass := n }
  if f.pro.isSome then { y with veng := { y.veng with queue := y.veng.queue ++ [run] } } else y

section
variable {s s' : State} {k j who n : Nat} {t : TileCmd} {w : TileWork} {f : FillSpec}

theorem exec_ferryFillDone_none (h : s.fillNext k = none) : exec (.ferryFillDone k j) s = .next s := by
  simp only [exec, execFerryFillDone, h]

theorem exec_ferryFillDone_waits (h : s.fillNext k = some (who, n, t, w, f))
    (hw : j ≠ n ∨ ¬ (s.core k).busy (s.heldBufs k who) ((s.core k).nextSlot t w f.operand).1 ((s.core k).nextSlot t w f.operand).2 = false ∨ s.t3Fill t w.job f = none) :
    exec (.ferryFillDone k j) s = .next s := by
  simp only [exec, execFerryFillDone, h]
  by_cases hg : (j != n || (s.core k).busy (s.heldBufs k who) ((s.core k).nextSlot t w f.operand).1 ((s.core k).nextSlot t w f.operand).2) = true
  · rw [if_pos hg]
  · rw [if_neg hg]
    simp only [Bool.or_eq_true, bne_iff_ne, not_or, Bool.not_eq_true] at hg
    obtain ⟨hj, hb⟩ := hg
    rcases hw with hw | hw | hw
    · exact absurd hw hj
    · exact absurd hb hw
    · rw [hw]

theorem exec_ferryFillDone (h : s.fillNext k = some (who, n, t, w, f))
    (hb : (s.core k).busy (s.heldBufs k who) ((s.core k).nextSlot t w f.operand).1 ((s.core k).nextSlot t w f.operand).2 = false)
    (ht : s.t3Fill t w.job f = some s') : exec (.ferryFillDone k n) s = .next (
      let v := s'.fillSlot k t w f ((s.core k).nextSlot t w f.operand).1
      let z := (v.core k).filled who n t f ((s.core k).nextSlot t w f.operand).1 ((s.core k).nextSlot t w f.operand).2
      v.setCore k (if who = 1 then z.turnOver w else z)) := by
  simp only [exec, execFerryFillDone, h, ht]
  refine congrArg _ ((if_neg ?_).trans rfl)
  rw [hb]
  simp

end

/-- What a fill changes of its core. -/
theorem Core.filled_spec (y : Core) (who n : Nat) (t : TileCmd) (f : FillSpec) (off size : Nat) :
    let z := y.filled who n t f off size
    z.slots = y.slots ++ [{ who := who, operand := f.operand, fill := n, off := off, size := size, st := if f.pro.isSome then .filling else .full }] ∧
    z.veng.queue = y.veng.queue ++ (if f.pro.isSome then [{ who := who, role := 1, pass := n }] else []) ∧
    (z.nextFill, z.aheadFill) = (if who = 1 then (n + 1, y.aheadFill) else (y.nextFill, n + 1)) ∧
    z.run = y.run ∧ z.prev = y.prev ∧ z.pos = y.pos ∧ z.banks = y.banks ∧ z.acc = y.acc ∧ z.mem = y.mem := by
  unfold Core.filled Core.ringOn
  dsimp only
  cases f.pro.isSome <;> by_cases hw : who = 1 <;> simp [hw]

/-! ### Loads -/

section
variable {s : State} {k : Nat} {x : Load}

theorem Core.firstLoad_bank {y : Core} {who i b : Nat} {t : TileCmd} {w : TileWork} (h : y.firstLoad who t w i b = some x) : x.bank = b := by
  unfold Core.firstLoad at h
  split at h
  · split at h
    · cases h
    · cases h
      rfl
  · cases h

/-- A load goes into one of the two banks. -/
theorem State.nextLoad_bank (h : s.nextLoad k = some x) : x.bank < 2 := by
  have hmod : ∀ n, n % 2 < 2 := fun n => Nat.mod_lt n (by decide)
  have hahead : ∀ b, (match s.onCore k 2 with | some (y, t, w) => y.firstLoad 2 t w 0 (b % 2) | none => none) = some x → x.bank < 2 := by
    intro b hb
    split at hb
    · exact Core.firstLoad_bank hb ▸ hmod b
    · cases hb
  have hfirst : ∀ {y : Core} {who i b : Nat} {t : TileCmd} {w : TileWork}, y.firstLoad who t w i (b % 2) = some x → x.bank < 2 :=
    fun hb => Core.firstLoad_bank hb ▸ hmod _
  unfold State.nextLoad at h
  split at h
  · cases h
  · dsimp only at h
    split at h
    · split at h
      · exact hfirst h
      · split at h
        · exact hahead _ h
        · cases h
    · split at h
      · cases h
        exact hmod _
      · split at h
        · cases h
        · split at h
          · split at h
            · cases h
            · cases h
              exact hmod _
          · split at h
            · exact hfirst h
            · split at h
              · exact hahead _ h
              · cases h

theorem exec_weightLoadDone_none (h : s.nextLoad k = none) : exec (.weightLoadDone k) s = .next s := by
  simp only [exec, execWeightLoadDone, h]

theorem exec_weightLoadDone_waits (h : s.nextLoad k = some x) (hw : (s.core k).loadReady x = false ∨ (s.core k).bankBusy x.bank = true) :
    exec (.weightLoadDone k) s = .next s := by
  simp only [exec, execWeightLoadDone, h]
  refine congrArg _ (if_pos ?_)
  rcases hw with hw | hw <;> simp [hw]

/-- The weights of a load. -/
def Load.refs (x : Load) : List Ref :=
  (List.range x.p.cols).flatMap fun l => (List.range (x.p.entries x.seg)).flatMap fun e => x.p.entryRefs x.seg e l

/-- The core with a segment in its bank. -/
def Core.loadedBank (y : Core) (x : Load) : Core :=
  let f := y.segmentFields x
  let bank : Bank := { owner := some x.t.ctx, key := x.p.key, tag := some (x.t.tag x.pass), resident := true, seg := x.seg
                       n := x.p.entries x.seg, elems := f.1, scales := f.2 }
  let o := y.banks.getD (1 - x.bank) {}
  let o := if o.key = x.p.key then o else { o with resident := false }
  { y with banks := if x.bank = 0 then [bank, o] else [o, bank] }

theorem exec_weightLoadDone (h : s.nextLoad k = some x) (hr : (s.core k).loadReady x = true) (hb : (s.core k).bankBusy x.bank = false)
    (hl : (s.core k).mem.latent = []) : exec (.weightLoadDone k) s = .next (
      if (s.core k).badRefs x.w x.who x.refs then s.faultCtx x.t.ctx 0x310 (some x.t.uid)
      else (((s.setCore k (((s.core k).loadedBank x).afterLoad x)).coreCount k 4 1).coreCount k 5 (16 + 32 * x.p.entries x.seg))) := by
  simp only [exec, execWeightLoadDone, h]
  refine congrArg _ ((if_neg (by simp [hr, hb])).trans ?_)
  rw [State.settleRefs_clean hl]
  rfl

/-- The other bank keeps all but its residence. -/
theorem Core.loadedBank_spec (y : Core) (h : x.bank < 2) :
    (y.loadedBank x).banks.getD x.bank {} =
      { owner := some x.t.ctx, key := x.p.key, tag := some (x.t.tag x.pass), resident := true, seg := x.seg, n := x.p.entries x.seg
        elems := (y.segmentFields x).1, scales := (y.segmentFields x).2 } ∧
    { (y.loadedBank x).banks.getD (1 - x.bank) {} with resident := false } = { y.banks.getD (1 - x.bank) {} with resident := false } := by
  unfold Core.loadedBank
  generalize y.segmentFields x = f
  dsimp only
  by_cases hx : x.bank = 0
  · rw [if_pos hx, hx]
    refine ⟨rfl, ?_⟩
    show ({ (if (y.banks.getD 1 {}).key = x.p.key then y.banks.getD 1 {} else { y.banks.getD 1 {} with resident := false } : Bank) with resident := false } : Bank) = _
    split <;> rfl
  · rw [if_neg hx, show x.bank = 1 by omega]
    refine ⟨rfl, ?_⟩
    show ({ (if (y.banks.getD 0 {}).key = x.p.key then y.banks.getD 0 {} else { y.banks.getD 0 {} with resident := false } : Bank) with resident := false } : Bank) = _
    split <;> rfl

theorem Core.afterLoad_eq (y : Core) (x : Load) : ∃ q, y.afterLoad x = { y with slots := q } := by
  unfold Core.afterLoad
  split
  · exact ⟨_, rfl⟩
  · split
    · exact ⟨_, rfl⟩
    · split <;> exact ⟨_, rfl⟩

end

end Sys2Proof.Machine
end

open Sys2Proof Sys2Proof.Machine

/-- Settles O43: a fill changes its slot and its core's memory, a load its bank. -/
theorem slotsAndBanksFill : Obligations.SlotsAndBanksFill := by
  unfold Obligations.SlotsAndBanksFill
  intro s k hk y
  refine ⟨fun j h => exec_ferryFillDone_none h, fun who n t w f h => ?_, exec_weightLoadDone_none, fun x h => ?_⟩
  · intro place free
    refine ⟨fun j hj => exec_ferryFillDone_waits h hj, fun s' hfree ht hl => ?_⟩
    obtain ⟨hmem', hcores'⟩ := State.t3Fill_kept hl ht
    obtain ⟨hctxs, hmem, ⟨m, hcore⟩, hother, hlen⟩ := (within_fillSlot (s := s') (k := k) (c := t) (w := w) (f := f) (off := place.1)
      (by rw [hmem']; exact hl)).of_core (by rw [hcores']; exact hk)
    rw [State.core_of_cores hcores'] at hcore
    obtain ⟨hslots, hqueue, hfills, hrun, hprev, hpos, hbanks, hacc, hm⟩ :=
      ((s'.fillSlot k t w f place.1).core k).filled_spec who n t f place.1 place.2
    refine ⟨_, ((s'.fillSlot k t w f place.1).core k).filled who n t f place.1 place.2, exec_ferryFillDone h hfree ht, State.core_setCore_self hlen _, hm, ?_⟩
    rw [hcore] at hslots hqueue hfills hrun hprev hpos hbanks hacc
    rw [hcore]
    refine ⟨hslots, hqueue, hfills, hrun, hprev, hpos, hbanks, hacc, fun j hj => ?_, hmem.trans hmem', hctxs⟩
    exact (State.core_setCore_ne _ hj _).trans ((hother j hj).trans (State.core_of_cores hcores' j))
  · intro refs
    refine ⟨exec_weightLoadDone_waits h, fun hr hb hl hbad => ?_, fun hr hb hl hbad => ?_⟩
    · rw [exec_weightLoadDone h hr hb hl]
      exact congrArg _ (if_pos hbad)
    · have hrun := (exec_weightLoadDone h hr hb hl).trans (congrArg _ (if_neg (ne_true_of_eq_false hbad)))
      obtain ⟨hbank, hrest⟩ := Core.loadedBank_spec y (State.nextLoad_bank h)
      obtain ⟨q, hq⟩ := (y.loadedBank x).afterLoad_eq x
      let v : State := ((s.setCore k ((y.loadedBank x).afterLoad x)).coreCount k 4 1).coreCount k 5 (16 + 32 * x.p.entries x.seg)
      have hcore : v.core k = { y.loadedBank x with slots := q } := (State.core_setCore_self hk _).trans hq
      refine ⟨v, hrun, ?_, ?_, ?_, ?_, fun j hj => State.core_setCore_ne s hj _, rfl, rfl⟩
      · rw [hcore]; exact hbank
      · rw [hcore]; exact hrest
      · rw [hcore]; rfl
      · rw [hcore]; rfl

section
/-! PROOFS. Late data in bounded mode (04 R118, 14 R394). -/

namespace Sys2Proof.Machine

/-- A late wait is one beyond SLACK in bounded mode. -/
def State.lateWait (s : State) (k wait : Nat) (t : TileCmd) (w : TileWork) : Bool :=
  !(!(s.ctx t.ctx).bounded || s.cfg.bound.toNat % 2 != 1 || wait ≤ w.slack || !s.waitsForData k)

/-- STEP and STAGE of a record of a tile command. -/
def TileWork.recAt (w : TileWork) : Nat × Nat :=
  (match w.job.x with | some e => e.recStep | none => w.job.m.recStep, match w.job.x with | some e => e.stage | none => 0)

section
variable {s : State} {k wait : Nat} {y : Core} {t : TileCmd} {w : TileWork} {b : CtxBlock}
variable (hon : s.onCore k 1 = some (y, t, w))
include hon

theorem exec_lateDataMiss_none (h : s.lateWait k wait t w = false) : exec (.lateDataMiss k wait) s = .next s := by
  simp only [exec, execLateDataMiss, hon]
  exact congrArg _ (if_pos (Eq.mp (Bool.not_eq_false' _) h))

/-- The first late wait of a tile command. -/
theorem exec_lateDataMiss_first (h : s.lateWait k wait t w = true) (hd : y.dlm = none) : exec (.lateDataMiss k wait) s = .next
    (((s.setCore k { y with lateWaits := y.lateWaits + 1, dlm := some ((s.ctx t.ctx).dseq, s.now, wait * 4 / 7) }).setCtx t.ctx
      { s.ctx t.ctx with dseq := (s.ctx t.ctx).dseq + 1 }).deadlineMiss t.ctx t.uid (s.ctx t.ctx).dseq s.now w.job.m.seq (y.lateWaits + 1) (wait * 4 / 7) 1 k
      w.recAt.1 w.recAt.2) := by
  simp only [exec, execLateDataMiss, hon]
  refine congrArg _ ((if_neg (by simpa [State.lateWait] using h)).trans ?_)
  rw [hd] <;> rfl

/-- A later one. -/
theorem exec_lateDataMiss_later {d longest : Nat} {t0 : Tick} (h : s.lateWait k wait t w = true) (hd : y.dlm = some (d, t0, longest)) :
    exec (.lateDataMiss k wait) s = .next
      ((s.setCore k { y with lateWaits := y.lateWaits + 1, dlm := some (d, t0, max longest (wait * 4 / 7)) }).missWrite t.ctx d t0 w.job.m.seq (y.lateWaits + 1)
        (max longest (wait * 4 / 7)) 1 k w.recAt.1 w.recAt.2) := by
  simp only [exec, execLateDataMiss, hon]
  refine congrArg _ ((if_neg (by simpa [State.lateWait] using h)).trans ?_)
  rw [hd] <;> rfl

end

/-- A new record: its command's record will tell. -/
theorem State.deadlineMiss_spec {s : State} {c u : Nat} {b : CtxBlock} (hc : c < s.ctxs.length) (hb : (s.ctx c).blk = some b) (hl : s.mem.latent = [])
    (hw : Memory.wf s.mem = true) (d : Nat) (time : Tick) (seq : Word) (cnt wait kind core step stage : Nat) :
    ∃ mem e k, s.deadlineMiss c u d time seq cnt wait kind core step stage = { s with
      mem := mem, counters := k, dbg := { s.dbg with eccArmed := e }
      ctxs := s.ctxs.set c ((s.ctx c).mapCmd u fun m => { m with dlmiss := true }) } ∧
      SameOutside s.mem mem (if b.dlmBase = 0 then [] else [(b.dlmBase + 32 * (d % 2 ^ b.logDlm), 32)]) := by
  let v : State := (s.setCtx c ((s.ctx c).mapCmd u fun m => { m with dlmiss := true })).count (9584 + 6 * c + 4) 1
  have hv : v.ctx c = (s.ctx c).mapCmd u fun m => { m with dlmiss := true } := State.ctx_setCtx_self hc _
  obtain ⟨mem, e, k, h, hout⟩ := State.missWrite_spec (s := v) (c := c) (b := b) (by rw [hv]; exact hb) hl hw d time seq cnt wait kind core step stage
  exact ⟨mem, e, k, h, hout⟩

/-- The place of a record lies in the deadline-miss area. -/
theorem SameOutside.missArea {m m' : Mem} {b : CtxBlock} {d : Nat}
    (h : SameOutside m m' (if b.dlmBase = 0 then [] else [(b.dlmBase + 32 * (d % 2 ^ b.logDlm), 32)])) :
    SameOutside m m' (if b.dlmBase = 0 then [] else [(b.dlmBase, 32 * 2 ^ b.logDlm)]) := by
  split at h
  case isTrue hb => rwa [if_pos hb]
  case isFalse hb =>
    rw [if_neg hb]
    intro x hx
    refine h x ?_
    have hlt : d % 2 ^ b.logDlm < 2 ^ b.logDlm := Nat.mod_lt _ (Nat.two_pow_pos _)
    simp only [inRegions, List.any_cons, List.any_nil, Bool.or_false, Bool.and_eq_false_iff, decide_eq_false_iff_not] at hx ⊢
    omega

end Sys2Proof.Machine
end

open Sys2Proof Sys2Proof.Machine

/-- Settles O48: a late wait is counted on its core and written to the record's place. -/
theorem lateDataRule : Obligations.LateDataRule := by
  unfold Obligations.LateDataRule
  intro s k wait y t w b hon hk hb hcan hl x area
  obtain ⟨-, -, -, halive⟩ := State.onCore_spec hon
  have hc : t.ctx < s.ctxs.length := State.ctx_lt_of_live (by simp only [Ctx.alive, Bool.and_eq_true] at halive; exact halive.1)
  have hlate : s.lateWait k wait t w = (b.bounded && decide (s.cfg.bound.toNat % 2 = 1) && decide (w.slack < wait) && s.waitsForData k) := by
    rw [State.lateWait, Ctx.bounded, hb]
    rw [Bool.eq_iff_iff]
    simp only [Bool.not_eq_true', Bool.or_eq_false_iff, Bool.not_eq_false', bne_eq_false_iff_eq, decide_eq_false_iff_not, Nat.not_le, Bool.and_eq_true, decide_eq_true_eq]
  refine ⟨fun h => exec_lateDataMiss_none hon ?_, fun h1 h2 h3 h4 => ?_⟩
  · rw [hlate]
    rcases h with h | h | h | h
    · simp [h]
    · simp [h]
    · simp [Nat.not_lt.2 h]
    · simp [h]
  have hlate : s.lateWait k wait t w = true := by simp [hlate, h1, h2, h3, h4]
  cases hd : y.dlm with
  | none =>
    let z : Core := { y with lateWaits := y.lateWaits + 1, dlm := some (x.dseq, s.now, wait * 4 / 7) }
    let x' : Ctx := { x with dseq := x.dseq + 1 }
    let v : State := (s.setCore k z).setCtx t.ctx x'
    have hctx : v.ctx t.ctx = x' := State.ctx_setCtx_self (s := s.setCore k z) hc _
    obtain ⟨mem, e, j, hmiss, hout⟩ := State.deadlineMiss_spec (s := v) (c := t.ctx) (u := t.uid) (b := b) (by simpa [v] using hc) (by rw [hctx]; exact hb) hl hcan.1
      x.dseq s.now w.job.m.seq (y.lateWaits + 1) (wait * 4 / 7) 1 k w.recAt.1 w.recAt.2
    rw [hctx] at hmiss
    have hrun := (exec_lateDataMiss_first hon hlate hd).trans (congrArg _ hmiss)
    let u : State := { v with
      mem := mem, counters := j, dbg := { v.dbg with eccArmed := e }
      ctxs := v.ctxs.set t.ctx (x'.mapCmd t.uid fun m => { m with dlmiss := true }) }
    have hcore : u.core k = z := State.core_setCore_self hk z
    have hu : u.ctx t.ctx = x'.mapCmd t.uid fun m => { m with dlmiss := true } := list_getD_set_self (by simpa [v] using hc) _ _
    have hother : OtherCoresKept s u k := fun j hj => State.core_setCore_ne s hj z
    have harea : SameOutside s.mem u.mem area := hout.missArea
    have hdseq : (u.ctx t.ctx).dseq = x.dseq + 1 := by rw [hu]; rfl
    refine ⟨u, hrun, by rw [hcore], hother, harea, fun _ => ⟨by rw [hcore], hdseq, ?_⟩, fun d t0 longest h => (Option.some_ne_none _ h.symm).elim⟩
    rw [hu]
    intro m hm hmu
    obtain ⟨m', -, rfl⟩ := List.mem_map.1 hm
    split at hmu
    · rename_i hif
      rw [if_pos hif]
    · rename_i hif
      exact absurd hmu hif
  | some q =>
    obtain ⟨d, t0, longest⟩ := q
    let z : Core := { y with lateWaits := y.lateWaits + 1, dlm := some (d, t0, max longest (wait * 4 / 7)) }
    obtain ⟨mem, e, j, hmiss, hout⟩ := State.missWrite_spec (s := s.setCore k z) (c := t.ctx) (b := b) hb hl hcan.1 d t0 w.job.m.seq (y.lateWaits + 1)
      (max longest (wait * 4 / 7)) 1 k w.recAt.1 w.recAt.2
    let u : State := { s.setCore k z with mem := mem, counters := j, dbg := { s.dbg with eccArmed := e } }
    have hcore : u.core k = z := State.core_setCore_self hk z
    refine ⟨u, (exec_lateDataMiss_later hon hlate hd).trans (congrArg _ hmiss), by rw [hcore], fun j hj => State.core_setCore_ne s hj z, hout.missArea,
      fun h => (Option.some_ne_none _ h).elim, fun d' t0' longest' h => ?_⟩
    cases h
    exact ⟨by rw [hcore], rfl⟩

section
/-! PROOFS. The start of a run of the vector engine (05 R124 to R129, 04 R107). -/

namespace Sys2Proof.Machine

/-! ### Runs -/

section
variable {s : State} {k : Nat} {r : Run} {x : Running}

/-- A run as it stands is one of the core's tile commands, of a context that is not torn down. -/
theorem State.running_spec (h : s.running k r = some x) : x.k = k ∧ x.y = s.core k ∧ x.r = r ∧ (s.ctx x.t.ctx).alive = true := by
  unfold State.running at h
  split at h
  · cases h
  · rename_i y t w hon
    obtain ⟨hy, -, -, ha⟩ := State.onCore_spec hon
    cases hw : w.runOf r with
    | none => rw [hw] at h; cases h
    | some q =>
      rw [hw] at h
      cases h
      exact ⟨rfl, hy, rfl, ha⟩

theorem Core.promote_cur {y : Core} (h : y.veng.cur = none) : y.promote.veng.cur = none := by
  unfold Core.promote
  split
  · exact congrArg (Option.map _) h
  · exact h

theorem Core.turnOver_cur {y : Core} (w : TileWork) (h : y.veng.cur = none) : (y.turnOver w).veng.cur = none := by
  unfold Core.turnOver
  split
  · exact Core.promote_cur (congrArg (Option.map _) h)
  · exact h

theorem Core.strip_cur {y : Core} (who : Nat) (h : y.veng.cur = none) : (y.strip who).veng.cur = none := by
  unfold Core.strip
  dsimp only
  rw [h]
  split <;> rfl

/-- After a run the engine is free. -/
theorem Running.over_cur (x : Running) (y : Core) : (x.over y).veng.cur = none := by
  unfold Running.over
  dsimp only
  split
  · exact Core.strip_cur _ (by split <;> rfl)
  · split <;> rfl

theorem State.runOver_spec (hk : x.k < s.cores.length) : ∃ z : Core, s.runOver x = s.setCore x.k z ∧ z.veng.cur = none := by
  have hset : ∀ z z' : Core, ((s.setCore x.k z).setCore x.k z') = s.setCore x.k z' := fun z z' => by simp only [State.setCore, List.set_set]
  unfold State.runOver
  dsimp only
  split
  · rw [hset, State.core_setCore_self hk]
    exact ⟨_, rfl, Core.turnOver_cur _ (x.over_cur _)⟩
  · rw [hset, State.core_setCore_self hk]
    exact ⟨_, rfl, Core.promote_cur (x.over_cur _)⟩

/-- The engine with a fresh run. -/
theorem Running.begin_spec (h : x.r.role = 1 ∨ (x.w.mat x.r.pass).isSome = true) :
    x.begin.veng.cur = some x.r ∧ x.begin.veng.queue = x.y.veng.queue.erase x.r ∧ x.begin.veng.s = x.h.prog.slots ∧ x.begin.mem = x.y.mem ∧ x.begin.acc = x.y.acc := by
  have hno : ∀ y : Core, (x.r.role = 2 && (x.w.mat x.r.pass).isNone && y.pos.pass = x.r.pass && x.r.who = 1) = false := by
    intro y
    rcases h with h | h
    · rw [h]; rfl
    · rw [Option.isNone_eq_false_iff.2 h]
      simp
  unfold Running.begin
  dsimp only
  rw [hno]
  cases x.h.fill <;> cases x.h.slot <;> exact ⟨rfl, rfl, rfl, rfl, rfl⟩

end

/-! ### Sums of a split -/

/-- Joins and stores of the sums of a run over part p (R107). -/
def State.sums (s : State) (x x' : Running) (p : SplitSpec) (k : Nat) : State :=
  let f := if p.first then (x'.y.mem, none) else x'.foldSum s p
  let s := s.setCore k { s.core k with mem := f.1 }
  let x' := { x' with y := s.core k }
  let s := if p.last then s else (s.sendWrites x' ((List.range p.rows).flatMap fun r => p.put s.mem r (x'.partRow r)) none x'.final).runOver x'
  s.nanOf x.t f.2

/-- A part's start on a state whose words are settled. -/
def State.splitStart (s : State) (x x' : Running) (p : SplitSpec) (k : Nat) (sum mine : List (Nat × Nat)) : State :=
  let x' := { x' with y := s.core k }
  if (!p.first && sum.any fun b => s.mem.poisoned 64 b.1 b.2) || mine.any fun b => x'.y.mem.poisoned 32 b.1 b.2 then
    s.faultCtx x.t.ctx 0x310 (some x.t.uid)
  else s.sums x x' p k

section
variable {s : State} {k : Nat} {r : Run} {x : Running} {p : SplitSpec}

theorem exec_posyRunStart_none (h : (s.core k).veng.cur.isSome = true ∨ s.nextRun k = none) : exec (.posyRunStart k) s = .next s := by
  simp only [exec, execPosyRunStart]
  by_cases hc : (s.core k).veng.cur.isSome = true
  · rw [if_pos hc]
  · rw [if_neg hc, h.resolve_left hc]
    rfl

section
variable (hc : (s.core k).veng.cur = none) (hn : s.nextRun k = some r) (hx : s.running k r = some x)
include hc hn hx

theorem exec_posyRunStart : exec (.posyRunStart k) s = .next (
    if !s.mayStart x then s
    else
      match x.h.split with
      | none => if x.h.rows = 0 then (s.setCore k x.begin).endRun { x with r := (x.begin.veng.cur).getD x.r, y := x.begin } else s.setCore k x.begin
      | some p =>
        let x' := { x with r := (x.begin.veng.cur).getD x.r, y := x.begin }
        let mine := (List.range p.rows).map fun r => x'.areaBytes r 0 ((x.h.span 0).2 - (x.h.span 0).1)
        State.splitStart ((if p.first then s.setCore k x.begin else (s.setCore k x.begin).settle (x.sumBytes s p) (some x.t.ctx)).settleIn (.core k) mine
          (some x.t.ctx)) x x' p k (x.sumBytes s p) mine) := by
  simp only [exec, execPosyRunStart]
  rw [if_neg (by rw [hc]; exact Bool.false_ne_true), hn, Option.bind_some, hx]
  refine congrArg _ ?_
  dsimp only
  split
  · rfl
  · cases x.h.split with
    | none => rfl
    | some p =>
      rfl

/-- A run starts, and its sums follow, where no poison is in its way. -/
theorem exec_posyRunStart_split (hk : k < s.cores.length) (hm : s.mayStart x = true) (hp : x.h.split = some p)
    (hmat : (x.w.mat x.r.pass).isSome = true) (hl : s.mem.latent = []) (hl' : x.y.mem.latent = [])
    (hmine : ∀ b ∈ (List.range p.rows).map fun r => x.areaBytes r 0 ((x.h.span 0).2 - (x.h.span 0).1), x.y.mem.poisoned 32 b.1 b.2 = false)
    (hsum : p.first = true ∨ ∀ b ∈ x.sumBytes s p, s.mem.poisoned 64 b.1 b.2 = false) :
    exec (.posyRunStart k) s = .next ((s.setCore k x.begin).sums x { x with y := x.begin } p k) := by
  obtain ⟨hcur, -, -, hmem, -⟩ := Running.begin_spec (.inr hmat)
  have hcore : (s.setCore k x.begin).core k = x.begin := State.core_setCore_self hk _
  have hsettle : (if p.first then s.setCore k x.begin else (s.setCore k x.begin).settle (x.sumBytes s p) (some x.t.ctx)) = s.setCore k x.begin := by
    split
    · rfl
    · exact State.settle_clean (s.setCore k x.begin) _ _ hl
  have hlc : ((s.setCore k x.begin).memOf (.core k)).latent = [] := by
    show ((s.setCore k x.begin).core k).mem.latent = []
    rw [hcore, hmem]
    exact hl'
  rw [exec_posyRunStart hc hn hx, if_neg (by rw [hm]; exact Bool.false_ne_true), hp]
  dsimp only
  rw [hsettle, State.settleIn_clean _ _ _ _ hlc, hcur]
  refine congrArg _ ((if_neg ?_).trans ?_)
  · rw [hcore]
    simp only [Bool.or_eq_true, Bool.and_eq_true, Bool.not_eq_true', List.any_eq_true, not_or, not_and, not_exists, Bool.not_eq_true]
    refine ⟨fun hf b hb => ?_, fun b hb => ?_⟩
    · exact (hsum.resolve_left (by rw [hf]; exact Bool.false_ne_true)) b hb
    · rw [hmem]
      exact hmine b hb
  · rw [hcore]
    rfl

end

/-! ### What the sums leave -/

/-- Sums are those of the core memory that they lie in. -/
theorem Running.foldSum_of_mem {y z : Core} (h : y.mem = x.y.mem) (j : Nat) : ({ x with y := y } : Running).foldSum (s.setCore j z) p = x.foldSum s p := by
  unfold Running.foldSum Running.partRow Running.area
  dsimp only
  rw [h]
  rfl

theorem Running.partRow_of_mem {y : Core} (h : y.mem = x.y.mem) (line : Nat) : ({ x with y := y } : Running).partRow line = x.partRow line := by
  unfold Running.partRow Running.area
  dsimp only
  rw [h] <;> rfl

/-- What core ferry 1 sends. -/
theorem State.sendWrites_spec (s : State) (x : Running) (ws : List (Nat × List Byte)) (out : Option Nat) (final : Bool) :
    ∃ j l, s.sendWrites x ws out final = { s with counters := j, writes := s.writes ++ l } ∧
      (∀ q ∈ l, q.ctx = x.t.ctx ∧ q.uid = x.t.uid ∧ q.poison = false) ∧ (ws ≠ [] → l.map (fun q => (q.addr, q.data)) = ws) := by
  refine ⟨_, _, rfl, fun q hq => ?_, fun h => ?_⟩
  · obtain ⟨z, -, rfl⟩ := List.mem_map.1 hq
    exact ⟨rfl, rfl, rfl⟩
  · rw [List.isEmpty_eq_false_iff.2 h, Bool.false_and, if_neg Bool.false_ne_true, List.map_map]
    exact (numbered_map_snd ws fun z => z).trans (List.map_id' ws)

/-- The last part's sums join its result area. -/
theorem State.sums_last {y : Core} (hk : k < s.cores.length) (hm : y.mem = x.y.mem) (hl : p.last = true) (ht : s.trapArmed x.t.ctx = false) :
    (s.setCore k y).sums x { x with y := y } p k = s.setCore k { y with mem := if p.first then x.y.mem else (x.foldSum s p).1 } := by
  have hcore : (s.setCore k y).core k = y := State.core_setCore_self hk _
  unfold State.sums
  dsimp only
  rw [if_pos hl, State.nanOf_unarmed (s := (s.setCore k y).setCore k _) ht, hcore, Running.foldSum_of_mem hm, hm]
  simp only [State.setCore, List.set_set]
  cases p.first <;> rfl

/-- A first part before the last sends its sums. -/
theorem State.sums_first {y : Core} (hk : x.k = k) (hlen : k < s.cores.length) (hm : y.mem = x.y.mem) (hf : p.first = true) (hl : p.last = false) :
    let u := (s.setCore k y).sums x { x with y := y } p k
    ∃ ws, (u.core k).veng.cur = none ∧ u.writes = s.writes ++ ws ∧ (∀ q ∈ ws, q.ctx = x.t.ctx ∧ q.uid = x.t.uid ∧ q.poison = false) ∧
      (let sums := (List.range p.rows).flatMap fun r => p.put s.mem r (x.partRow r)
       sums ≠ [] → ws.map (fun q => (q.addr, q.data)) = sums) ∧
      OtherCoresKept s u k ∧ u.mem = s.mem ∧ u.ctxs = s.ctxs := by
  intro u
  let v : State := s.setCore k y
  let x' : Running := { x with y := y }
  have hcore : v.core k = y := State.core_setCore_self hlen _
  have hu : u = ((v.sendWrites x' ((List.range p.rows).flatMap fun r => p.put s.mem r (x'.partRow r)) none x'.final).runOver x') := by
    have hself : v.setCore k y = v := by simp only [v, State.setCore, List.set_set]
    show (s.setCore k y).sums x { x with y := y } p k = _
    unfold State.sums
    dsimp only
    rw [if_pos hf, if_neg (by rw [hl]; exact Bool.false_ne_true), show (s.setCore k y).core k = y from hcore,
      show (s.setCore k y).setCore k { y with mem := y.mem } = v from hself, show v.core k = y from hcore]
    rfl
  obtain ⟨j, l, hsend, hof, hsums⟩ := v.sendWrites_spec x' ((List.range p.rows).flatMap fun r => p.put s.mem r (x'.partRow r)) none x'.final
  obtain ⟨z, hz, hcur⟩ := State.runOver_spec (s := { v with counters := j, writes := v.writes ++ l }) (x := x') (by rw [show x'.k = k from hk]; simpa [v, State.setCore] using hlen)
  rw [hsend, hz, show x'.k = k from hk] at hu
  have hrow : (fun r => p.put s.mem r (x'.partRow r)) = fun r => p.put s.mem r (x.partRow r) := funext fun r => by rw [Running.partRow_of_mem hm]
  rw [hrow] at hsums
  have hzcore : u.core k = z := by
    rw [hu]
    exact State.core_setCore_self (s := { v with counters := j, writes := v.writes ++ l }) (by simpa [v, State.setCore] using hlen) z
  refine ⟨l, by rw [hzcore]; exact hcur, by rw [hu]; rfl, hof, hsums, fun i hi => ?_, by rw [hu]; rfl, by rw [hu]; rfl⟩
  rw [hu]
  exact (State.core_setCore_ne { v with counters := j, writes := v.writes ++ l } hi z).trans (State.core_setCore_ne s hi y)

end

end Sys2Proof.Machine
end

section
/-! PROOFS. One instruction of the current run (05 R140, R150). -/

namespace Sys2Proof.Machine

/-- The core with its engine one cycle later. -/
def Running.turn (x : Running) : Core := { x.y with veng := { x.y.veng with cycle := (x.y.veng.cycle + 1) % 4 } }

/-- The core whose instruction uses its stream buffer. -/
def Running.used (x : Running) (y : Core) : Core :=
  match (x.h.readsStream x.r).bind (x.y.bufferOf x.w x.r x.h) with | some (q, _) => y.markFill q.who q.fill .inUse | none => y

/-- The instruction's step, and the move to the next position. -/
def State.stepOn (s : State) (x : Running) (k : Nat) : State :=
  let (s, nan) := x.step s
  let special := match x.h.prog with | .posy p => (x.env s).pe.bind.pipes (p.code[x.r.pc]?).toList 2 | _ => 0
  let s := (s.coreCount k 9 special).coreCount k 8 ((x.cost s).getD (Config.freeNat s.free))
  let (_, _, rowOver, over_) := x.advance
  let done := x.moved (s.core k)
  let s := if rowOver && x.h.role == 3 then
      (match x.h.prog with
        | .posy _ => let o := x.rowOut s done x.r.row; s.sendWrites x (o.1 ++ o.2) none (x.final && over_)
        | _ => s)
    else s
  let s := s.setCore k done
  (if over_ then s.endRun x else s).nanOf x.t nan

/-- The step of an instruction on a state whose words are settled. -/
def State.stepClean (s : State) (x : Running) (k : Nat) : State :=
  if (x.coreBytes.any fun b => (s.core k).mem.poisoned 32 b.1 b.2) || x.deviceBytes.any fun b => s.mem.poisoned 64 b.1 b.2 then
    s.faultCtx x.t.ctx 0x310 (some x.t.uid)
  else (s.setCore k (x.used (s.core k))).stepOn { x with y := x.used (s.core k) } k

/-- Where the run's program stands before the end of a row, no row is over. -/
theorem Running.advance_inside {x : Running} (h : x.advance.2.2.1 = false) : x.advance.2.2.2 = false := by
  unfold Running.advance at h ⊢
  dsimp only at h ⊢
  generalize (if x.r.sweep = 0 ∧ x.h.prog.shape.2 ≠ 0 then x.h.prog.shape.2 else x.h.prog.shape.1) = stop at h ⊢
  split at h
  · rename_i hc; rw [if_pos hc]
  · rename_i hc
    rw [if_neg hc]
    split at h
    · rename_i hc; rw [if_pos hc]
    · rename_i hc
      rw [if_neg hc]
      split at h
      · rename_i hc; rw [if_pos hc]
      · cases h

section
variable {s : State} {k : Nat} {x : Running}

section
variable (hx : (s.core k).veng.cur.bind (s.running k) = some x)
include hx

theorem exec_posyInstruction {par : Bool} : exec (.posyInstruction k par) s = .next (
    if !isSlot (s.topPhase (k / 64)) x.y.veng.cycle then s.setCore k x.turn
    else if x.y.waitsForStream x.w x.r x.h then (s.setCore k x.turn).coreCount k 10 1
    else if par then s.drawn.parityFault k x.t.ctx x.t.uid 0x313 6 (64 * (Config.freeNat s.free % 64))
    else if x.deviceBytes.any fun b => b.2 != 0 && !inDevice b.1 b.2 then s.faultCtx x.t.ctx 0x316 (some x.t.uid)
    else (((s.setCore k x.turn).settle x.deviceBytes (some x.t.ctx)).settleIn (.core k) x.coreBytes (some x.t.ctx)).stepClean x k) := by
  simp only [exec, execPosyInstruction, hx] <;> rfl

end

/-- An instruction reads tables and device memory, and no core but its own. -/
theorem Running.posyStep_setCore (x : Running) (s : State) (j : Nat) (z : Core) (p : Posy) : x.posyStep (s.setCore j z) p = x.posyStep s p := rfl

theorem Running.moved_with (x : Running) (y z : Core) : ({ x with y := y } : Running).moved z = x.moved z := rfl

theorem Running.moved_cur (x : Running) (y : Core) : (x.moved y).veng.cur = some x.advance.1 := rfl

/-- The move to the next position, with the counts of the step. -/
theorem State.movedOn_spec {z : Core} (hlen : k < s.cores.length) (ht : s.trapArmed x.t.ctx = false) (y : Core) (n c special : Nat) (nan : Option NanSite) :
    ∃ j, ((((s.setCore k z).coreCount k 9 special).coreCount k n c).setCore k
      (({ x with y := y } : Running).moved ((((s.setCore k z).coreCount k 9 special).coreCount k n c).core k))).nanOf x.t nan =
      { s.setCore k (x.moved z) with counters := j } := by
  obtain ⟨j, hj⟩ : ∃ j, ((s.setCore k z).coreCount k 9 special).coreCount k n c = { s.setCore k z with counters := j } := ⟨_, rfl⟩
  have hcore : ({ s.setCore k z with counters := j } : State).core k = z := State.core_setCore_self hlen _
  refine ⟨j, ?_⟩
  rw [hj, hcore, Running.moved_with]
  refine (State.nanOf_unarmed (s := ({ s.setCore k z with counters := j } : State).setCore k (x.moved z)) ht nan).trans ?_
  simp only [State.setCore, List.set_set]

/-- The step of a posy is its instruction. -/
theorem Running.step_posy {p : Posy} (h : x.h.prog = .posy p) : x.step s = (s.setCore x.k (x.posyStep s p).1, (x.posyStep s p).2) := by
  unfold Running.step
  rw [h]

/-- One instruction of a posy within a row. -/
theorem State.stepOn_posy {y : Core} {p : Posy} (hk : x.k = k) (hlen : k < s.cores.length) (hp : x.h.prog = .posy p) (ha : x.advance.2.2.1 = false)
    (ht : s.trapArmed x.t.ctx = false) : ∃ j, (s.setCore k y).stepOn { x with y := y } k =
      { s.setCore k (x.moved (({ x with y := y } : Running).posyStep s p).1) with counters := j } := by
  have hstep : ({ x with y := y } : Running).step (s.setCore k y) =
      (s.setCore k (({ x with y := y } : Running).posyStep s p).1, (({ x with y := y } : Running).posyStep s p).2) := by
    rw [Running.step_posy (x := { x with y := y }) hp, Running.posyStep_setCore, show ({ x with y := y } : Running).k = k from hk]
    simp only [State.setCore, List.set_set]
  have hadv : ({ x with y := y } : Running).advance = (x.advance.1, x.advance.2.1, false, false) :=
    Prod.ext rfl (Prod.ext rfl (Prod.ext ha (Running.advance_inside ha)))
  unfold State.stepOn
  rw [hstep, hadv]
  exact State.movedOn_spec hlen ht y 8 _ _ _

/-- The step on a state without bad symbols. -/
theorem State.stepClean_poison (halive : (s.ctx x.t.ctx).alive = true)
    (h : ((x.coreBytes.any fun b => (s.core k).mem.poisoned 32 b.1 b.2) || x.deviceBytes.any fun b => s.mem.poisoned 64 b.1 b.2) = true) :
    ((s.stepClean x k).ctx x.t.ctx).torn = true := by
  rw [State.stepClean, if_pos h]
  exact State.faultCtx_torn s _ _ _ halive

end

end Sys2Proof.Machine
end

open Sys2Proof Sys2Proof.Machine

/-- Settles O47: a run takes the free engine, and an instruction of a posy changes its core. -/
theorem vectorEngineRule : Obligations.VectorEngineRule := by
  unfold Obligations.VectorEngineRule
  intro s k hk next
  refine ⟨exec_posyRunStart_none, fun r x hc hn hx => ?_, fun x hx => ?_⟩
  · obtain ⟨hxk, hxy, hxr, ha⟩ := State.running_spec hx
    subst hxr
    intro mine clean
    refine ⟨fun hm => ?_, fun hm hs hr => ⟨?_, Running.begin_spec⟩, fun p hm hp hmat hclean hsum ht => ?_⟩
    · rw [exec_posyRunStart hc hn hx, if_pos (by rw [hm]; rfl)]
    · rw [exec_posyRunStart hc hn hx, if_neg (by rw [hm]; exact Bool.false_ne_true), hs]
      exact congrArg _ (if_neg (by omega))
    · obtain ⟨hl, hl', hmine⟩ := hclean
      obtain ⟨hcur, -, -, hmem, -⟩ := Running.begin_spec (.inr hmat)
      have hrun := exec_posyRunStart_split hc hn hx hk hm hp hmat hl hl' hmine hsum
      refine ⟨fun hlast => ?_, fun hfirst hlast => ?_⟩
      · rw [State.sums_last hk hmem hlast ht] at hrun
        have hcore := State.core_setCore_self hk { x.begin with mem := if p.first then x.y.mem else (x.foldSum s p).1 }
        refine ⟨_, hrun, by rw [hcore]; exact hcur, by rw [hcore], fun j hj => State.core_setCore_ne s hj _, rfl, rfl⟩
      · obtain ⟨ws, h⟩ := State.sums_first hxk hk hmem hfirst hlast
        exact ⟨_, ws, hrun, h⟩
  · obtain ⟨r, hr, hxr⟩ := Option.bind_eq_some_iff.1 hx
    obtain ⟨hxk, hxy, -, ha⟩ := State.running_spec hxr
    intro turn issues waits absent poison
    have hcore : (s.setCore k x.turn).core k = x.turn := State.core_setCore_self hk _
    have hother : ∀ z : Core, OtherCoresKept s (s.setCore k z) k := fun z j hj => State.core_setCore_ne s hj z
    have hslot : issues → ¬ (!isSlot (s.topPhase (k / 64)) x.y.veng.cycle) = true := fun h => by rw [show isSlot _ _ = true from h]; exact Bool.false_ne_true
    have hclean : issues → waits = false → absent = false → s.mem.latent = [] → x.y.mem.latent = [] →
        exec (.posyInstruction k false) s = .next ((s.setCore k x.turn).stepClean x k) := by
      intro hi hw hab hl hl'
      have hlc : ((s.setCore k x.turn).memOf (.core k)).latent = [] := by
        show ((s.setCore k x.turn).core k).mem.latent = []
        rw [hcore]
        exact hl'
      rw [exec_posyInstruction hx, if_neg (hslot hi), if_neg (ne_true_of_eq_false hw), if_neg Bool.false_ne_true, if_neg (ne_true_of_eq_false hab),
        State.settle_clean (s.setCore k x.turn) _ _ hl, State.settleIn_clean _ _ _ _ hlc]
    refine ⟨fun hi par => ?_, fun hi hw par => ?_, fun hi hw => ?_, fun hi hw hab => ?_, fun hi hw hab hl hl' hpo => ?_, fun p hi hw hab hl hl' hpo hp hadv ht => ?_⟩
    · rw [exec_posyInstruction hx]
      exact congrArg _ (if_pos (by rw [Bool.not_eq_true']; exact Bool.eq_false_iff.2 hi))
    · exact ⟨_, (exec_posyInstruction hx).trans (congrArg _ ((if_neg (hslot hi)).trans (if_pos hw))), hcore, hother _, rfl, rfl⟩
    · exact ⟨_, (exec_posyInstruction hx).trans (congrArg _ ((if_neg (hslot hi)).trans ((if_neg (ne_true_of_eq_false hw)).trans (if_pos rfl)))),
        State.parityFault_torn _ _ _ _ _ _ _ ha⟩
    · refine ⟨_, (exec_posyInstruction hx).trans (congrArg _ ((if_neg (hslot hi)).trans ((if_neg (ne_true_of_eq_false hw)).trans
        ((if_neg Bool.false_ne_true).trans (if_pos hab))))), State.faultCtx_torn _ _ _ _ ha, ?_⟩
      rw [State.faultCtx_ctx _ _ ha]
      rfl
    · refine ⟨_, hclean hi hw hab hl hl', State.stepClean_poison ha ?_⟩
      rw [hcore]
      exact hpo
    · intro y
      obtain ⟨j, hj⟩ := State.stepOn_posy (y := y) hxk hk hp hadv ht
      have hstep : (s.setCore k x.turn).stepClean x k = { s.setCore k (x.moved (({ x with y := y } : Running).posyStep s p).1) with counters := j } := by
        rw [State.stepClean, hcore, show (s.setCore k x.turn).setCore k (x.used x.turn) = s.setCore k y by simp only [State.setCore, List.set_set] <;> rfl]
        exact (if_neg (ne_true_of_eq_false hpo)).trans hj
      have hself : ∀ z : Core, ({ s.setCore k z with counters := j } : State).core k = z := fun z => State.core_setCore_self hk z
      refine ⟨_, (hclean hi hw hab hl hl').trans (congrArg _ hstep), hself _, ?_, hother _, rfl, rfl⟩
      rw [hself, Running.moved_cur]
